-- ==== Sys2Proof/Word.lean ====
section
/-! DEFINITION. The machine's word types and their plainest bit operations (00_scope.md R4, R11; 15_instruction_formats.md R289). -/
namespace Sys2Proof

/-- A byte of memory. -/
abbrev Byte := BitVec 8
/-- A 32-bit register (02_execution_model.md R29). -/
abbrev W32 := BitVec 32
/-- A 64-bit register pair, address or program counter (R4). -/
abbrev W64 := BitVec 64
/-- An instruction word (15_instruction_formats.md R289). -/
abbrev IWord := BitVec 96
/-- A set of the 32 lanes of a warp, bit l for lane l (02_execution_model.md R34). -/
abbrev Mask := BitVec 32

/-- `Bits(v, hi, lo)` of R11, on a natural number. -/
def natBits (v hi lo : Nat) : Nat := (v >>> lo) % 2 ^ (hi + 1 - lo)

/-- `Bits(v, hi, lo)` of R11. -/
def bits {w : Nat} (v : BitVec w) (hi lo : Nat) : Nat := natBits v.toNat hi lo

/-- Bit `i` of a natural number. -/
def natBit (v i : Nat) : Bool := (v >>> i) % 2 == 1

/-- `SignExt(v, n)` of R11. -/
def signExt (v n : Nat) : Int :=
  if n = 0 then 0
  else if v % 2 ^ n < 2 ^ (n - 1) then (v % 2 ^ n : Nat) else (v % 2 ^ n : Nat) - (2 ^ n : Nat)

/-- `Wrap(x, n)` of R11, as a natural number. -/
def wrap (x : Int) (n : Nat) : Nat := (x % (2 ^ n : Nat)).toNat

/-- The 64-bit value of a register pair: bits 31:0 in the even register (R4). -/
def pair (lo hi : W32) : W64 := BitVec.ofNat 64 (lo.toNat + hi.toNat * 2 ^ 32)
/-- The low half of a pair (R4). -/
def lo32 (v : W64) : W32 := BitVec.ofNat 32 v.toNat
/-- The high half of a pair (R4). -/
def hi32 (v : W64) : W32 := BitVec.ofNat 32 (v.toNat >>> 32)

/-- Little-endian bytes of a value, lowest address first (R4). -/
def toBytes : Nat → Nat → List Byte
  | 0, _ => []
  | n + 1, v => BitVec.ofNat 8 v :: toBytes n (v / 256)

/-- The value of little-endian bytes (R4). -/
def ofBytes : List Byte → Nat
  | [] => 0
  | b :: bs => b.toNat + 256 * ofBytes bs

/-- The lanes of a mask in increasing order (R9). -/
def Mask.lanes (m : Mask) : List (Fin 32) := (List.finRange 32).filter fun l => m.getLsbD l.val

/-- Number of set bits below position `n`. -/
def popCount (v : Nat) : Nat → Nat
  | 0 => 0
  | n + 1 => popCount v n + (if natBit v n then 1 else 0)

end Sys2Proof
end

