-- ==== Sys2Proof/Syntax.lean ====
section
/-! DEFINITION. The syntax of the machine's steps: every instruction of the opcode map (15_instruction_formats.md Table 15.4)
and every event of the table of operations (95_what_each_step_holds.md), one constructor of `Instr` each. -/
namespace Sys2Proof

/-- Format codes of 07_number_formats.md R148, in code order. -/
inductive Fmt where
  | i8 | i16 | i32 | i64 | n8 | n16 | n32 | n64 | f32 | f16 | bf16 | e4m3 | e5m2 | q4 | q3 | q8
  deriving DecidableEq, Repr, Inhabited

/-- Special registers, in the code order of Table 15.3 (0C0h to 0E2h). -/
inductive SReg where
  | lane | quad | slot | warp | nwarps | tid | grpx | grpy | grpz | gridx | gridy | gridz | stage | nstages | core | die
  | cycle | cycleh | path | live | wstat | privhwm | sstep | rprog | tcause | tepcl | tepch | taddrl | taddrh | rgnctr
  | rgnpcl | rgnpch | pnpendl | pnpendh | pwrstep
  deriving DecidableEq, Repr, Inhabited

/-- Operand codes of R296. `bad` is a reserved code (R297). -/
inductive Opd where
  | g (n : Fin 128) | k (n : Fin 64) | s (r : SReg) | h (n : Fin 64) | acc (n : Fin 4) | p (n : Fin 8)
  | ch (n : Fin 16) | nb (n : Fin 32) | zero | bad (code : BitVec 10)
  deriving DecidableEq, Repr, Inhabited

/-- The guard of R289: predicate `p`, inverted when `neg`. -/
structure Guard where
  neg : Bool
  p : Fin 8
  deriving DecidableEq, Repr, Inhabited

/-- The issue fields that every format shares (Table 15.1). -/
structure Hdr where
  grd : Guard
  la : BitVec 4
  yh : Bool
  rh : BitVec 2
  deriving DecidableEq, Repr, Inhabited

/-- Space codes of R86. -/
inductive Space where | virt | scr | vlt | prv
  deriving DecidableEq, Repr, Inhabited
/-- Scope codes of R112. -/
inductive Scope where | grp | core | die | pkg | sys
  deriving DecidableEq, Repr, Inhabited
/-- Order codes of R113. -/
inductive Order where | none | acq | rel | ar
  deriving DecidableEq, Repr, Inhabited
/-- Access sizes of Table 15.2. -/
inductive Size where | b1 | b2 | b4 | b8 | b16
  deriving DecidableEq, Repr, Inhabited
/-- Operations of ATOM, RED, WRED and WSCAN (R316, R369, R403). -/
inductive RedOp where | add | min | max | and | or | xor | exch
  deriving DecidableEq, Repr, Inhabited
/-- VOTE modes (R402). -/
inductive VoteMode where | any | all | ballot
  deriving DecidableEq, Repr, Inhabited
/-- SHFL modes (R376). -/
inductive ShflMode where | idx | up | down | xor
  deriving DecidableEq, Repr, Inhabited
/-- Register spaces of SRD and SWR (R380). -/
inductive SysSpace where | ctx | bar | thr
  deriving DecidableEq, Repr, Inhabited
/-- TLBI modes (R395). -/
inductive TlbiMode where | va | ctx | all
  deriving DecidableEq, Repr, Inhabited
/-- DCAP operations (R332). -/
inductive DcapOp where | dlg | rev | qry
  deriving DecidableEq, Repr, Inhabited

/-- One register source (R309, R334). -/
structure Un where
  ty : Fmt
  d : Opd
  a : Opd
  deriving DecidableEq, Repr, Inhabited
/-- Two register sources. -/
structure Bin where
  ty : Fmt
  d : Opd
  a : Opd
  b : Opd
  deriving DecidableEq, Repr, Inhabited
/-- One register source and an immediate. -/
structure BinI where
  ty : Fmt
  d : Opd
  a : Opd
  imm : W32
  deriving DecidableEq, Repr, Inhabited
/-- Three register sources. -/
structure Tri where
  ty : Fmt
  d : Opd
  a : Opd
  b : Opd
  c : Opd
  deriving DecidableEq, Repr, Inhabited
/-- Two register sources and an immediate. -/
structure TriI where
  ty : Fmt
  d : Opd
  a : Opd
  b : Opd
  imm : W32
  deriving DecidableEq, Repr, Inhabited
/-- MOVI (R358). -/
structure MovImm where
  ty : Fmt
  d : Opd
  imm : W32
  deriving DecidableEq, Repr, Inhabited
/-- CVT and CVTF (R329, R330): target `ty`, source `sty`. -/
structure Conv where
  ty : Fmt
  sty : Fmt
  sat : Bool
  d : Opd
  a : Opd
  deriving DecidableEq, Repr, Inhabited
/-- PLOP (R365). -/
structure PlopOps where
  lut : BitVec 4
  d : Opd
  a : Opd
  b : Opd
  deriving DecidableEq, Repr, Inhabited
/-- PBLK (R298): covers `cnt + 1` instructions. -/
structure PblkOps where
  cnt : Fin 8
  pat : BitVec 8
  d : Opd
  deriving DecidableEq, Repr, Inhabited
/-- VOTE (R402). -/
structure VoteOps where
  mode : VoteMode
  d : Opd
  a : Opd
  c : Opd
  deriving DecidableEq, Repr, Inhabited
/-- SHFL (R376). -/
structure ShflOps where
  mode : ShflMode
  ty : Fmt
  d : Opd
  a : Opd
  b : Opd
  c : Opd
  deriving DecidableEq, Repr, Inhabited
/-- WRED and WSCAN (R403); `exc` is res0 for WRED. -/
structure WredOps where
  op : RedOp
  ty : Fmt
  d : Opd
  a : Opd
  c : Opd
  exc : Bool
  deriving DecidableEq, Repr, Inhabited
/-- An FM address (R294, R352). -/
structure AddrOps where
  sp : Space
  off : BitVec 24
  a : Opd
  deriving DecidableEq, Repr, Inhabited
/-- LD and LDACQ (R353, R354). -/
structure LdOps where
  addr : AddrOps
  size : Size
  fmt : Fmt
  sc : Scope
  d : Opd
  deriving DecidableEq, Repr, Inhabited
/-- ST and STREL (R384, R386). -/
structure StOps where
  addr : AddrOps
  size : Size
  fmt : Fmt
  sc : Scope
  b : Opd
  deriving DecidableEq, Repr, Inhabited
/-- LDQ (R355). -/
structure LdqOps where
  addr : AddrOps
  sc : Scope
  d : Opd
  deriving DecidableEq, Repr, Inhabited
/-- STQ (R385). -/
structure StqOps where
  addr : AddrOps
  sc : Scope
  b : Opd
  deriving DecidableEq, Repr, Inhabited
/-- PREF (R368). -/
structure PrefOps where
  l2 : Bool
  off : BitVec 24
  a : Opd
  deriving DecidableEq, Repr, Inhabited
/-- FLUSH and INVAL (R341); `sys` selects .sys, else .pkg. -/
structure RangeOps where
  sys : Bool
  off : BitVec 24
  a : Opd
  b : Opd
  deriving DecidableEq, Repr, Inhabited
/-- PINW and UNPINW (R364, R400). -/
structure PinOps where
  off : BitVec 24
  d : Opd
  a : Opd
  b : Opd
  deriving DecidableEq, Repr, Inhabited
/-- ATOM and RED (R316, R369); RED has `d = zero`. -/
structure AtomOps where
  op : RedOp
  size : Size
  fmt : Fmt
  addr : AddrOps
  ord : Order
  sc : Scope
  d : Opd
  b : Opd
  deriving DecidableEq, Repr, Inhabited
/-- ACAS (R311). -/
structure AcasOps where
  size : Size
  fmt : Fmt
  addr : AddrOps
  ord : Order
  sc : Scope
  d : Opd
  b : Opd
  deriving DecidableEq, Repr, Inhabited
/-- NBAR (R361). -/
structure NbarOps where
  a : Opd
  b : Opd
  cnt : BitVec 11
  deriving DecidableEq, Repr, Inhabited
/-- THOPEN (R145). -/
structure ThopenOps where
  tx : BitVec 10
  d : Opd
  a : Opd
  b : Opd
  deriving DecidableEq, Repr, Inhabited
/-- TENR (R145). -/
structure TenrOps where
  sc : Scope
  w : Bool
  tr : Bool
  d : Opd
  a : Opd
  deriving DecidableEq, Repr, Inhabited
/-- TSPLIT (R145). -/
structure TsplitOps where
  dim : BitVec 3
  d : Opd
  a : Opd
  b : Opd
  deriving DecidableEq, Repr, Inhabited
/-- Flags of an engine command (Table 8.3, R126). -/
structure EFlags where
  sc : Scope
  acq : Bool
  rel : Bool
  it : Bool
  deriving DecidableEq, Repr, Inhabited
/-- The tile instructions (R389). -/
structure TileOps where
  tx : BitVec 10
  fl : EFlags
  fmt : Fmt
  sat : Bool
  d : Opd
  a : Opd
  b : Opd
  deriving DecidableEq, Repr, Inhabited
/-- ACOPY (R194). -/
structure AcopyOps where
  sz : Size
  dsp : Space
  ssp : Space
  bit : BitVec 9
  sc : Scope
  acq : Bool
  rel : Bool
  d : Opd
  a : Opd
  b : Opd
  deriving DecidableEq, Repr, Inhabited
/-- ACOPYT (R196): `st` is DIR, `vlt` is LSP, `lcv` tells a local format. -/
structure AcopytOps where
  tx : BitVec 10
  fl : EFlags
  lfmt : Fmt
  sat : Bool
  lcv : Bool
  st : Bool
  vlt : Bool
  d : Opd
  a : Opd
  b : Opd
  deriving DecidableEq, Repr, Inhabited
/-- ACOPYR (R198). -/
structure AcopyrOps where
  tx : BitVec 10
  fl : EFlags
  op : RedOp
  vlt : Bool
  d : Opd
  a : Opd
  b : Opd
  deriving DecidableEq, Repr, Inhabited
/-- Four operands: CMWAIT and CMTEST (R199). -/
structure CmOps where
  d : Opd
  a : Opd
  b : Opd
  c : Opd
  deriving DecidableEq, Repr, Inhabited
/-- SRD and SWR (R380); `r` is D of SRD and A of SWR. -/
structure SysOps where
  sp : SysSpace
  n : BitVec 24
  r : Opd
  b : Opd
  deriving DecidableEq, Repr, Inhabited

/-- The place of a warp: core, quadrant, context slot (R17, R30). -/
structure WKey where
  core : Nat
  quad : Nat
  slot : Nat
  deriving DecidableEq, Repr, Inhabited

/-- The kind of a CXL.cache snoop from the host (13_host_and_system.md R257): SnpInv, SnpData, SnpCur. -/
inductive SnoopKind where | inv | data | cur
  deriving DecidableEq, Repr, Inhabited

/-- A collective chunk as it arrives at a port (10_halyard_collectives.md R208, R211). `phase` tells a partial of the
reduction, a final result on its way round, and gathered or rotated bytes. -/
structure ChunkMsg where
  port : Nat
  /-- The identity of the package that it is for, by which the fabric routes it (R205). -/
  dst : Nat
  collid : Nat
  ordinal : Nat
  kind : Nat
  count : Nat
  fmt : Nat
  carry : Bool
  seq : Nat
  phase : Nat
  seg : Nat
  index : Nat
  data : List Byte
  deriving DecidableEq, Repr, Inhabited

/-- A pennant message of the fabric (12_pennants.md R243 to R246). `reply` is the status with which a peer answers the send that
this package's die `srcDie` numbered `seq`. -/
structure PennantMsg where
  reply : Option Nat
  /-- The package that it is for, by which the fabric routes it. -/
  pkg : Nat
  srcPkg : Nat
  srcDie : Nat
  seq : Nat
  ctx : Nat
  lti : Nat
  grp : Nat
  num : Nat
  payload : W64
  wake : Bool
  deriving DecidableEq, Repr, Inhabited

/-- The register of the configuration space that a request names (13_host_and_system.md R256), by its function and its number. -/
structure ConfigAddr where
  fn : Nat
  reg : Nat
  deriving DecidableEq, Repr, Inhabited

/-- A flit of a port that is sent again (10_halyard_collectives.md R203), and whether an earlier retry of it has failed. -/
structure FlitTry where
  port : Nat
  failed : Bool
  deriving DecidableEq, Repr, Inhabited

/-- What the ends of the host link agree on beside its width: the rate (13_host_and_system.md R256) and the host's version (R265). -/
structure LinkTerms where
  gts : Nat
  ver : Nat
  deriving DecidableEq, Repr, Inhabited

/-- The steps of the machine: one constructor per row of spec/opcode_table.json, in the table's order. -/
inductive Instr where
  -- integer, logical and conversion instructions (16, 17, 18, 19)
  | iadd (h : Hdr) (o : Bin) | iaddImm (h : Hdr) (o : BinI)
  | isub (h : Hdr) (o : Bin) | isubImm (h : Hdr) (o : BinI)
  | imul (h : Hdr) (o : Bin) | imulImm (h : Hdr) (o : BinI)
  | imad (h : Hdr) (o : Tri) | imadImm (h : Hdr) (o : TriI)
  | imin (h : Hdr) (o : Bin) | iminImm (h : Hdr) (o : BinI)
  | imax (h : Hdr) (o : Bin) | imaxImm (h : Hdr) (o : BinI)
  | iabs (h : Hdr) (o : Un)
  | and (h : Hdr) (o : Bin) | andImm (h : Hdr) (o : BinI)
  | or (h : Hdr) (o : Bin) | orImm (h : Hdr) (o : BinI)
  | xor (h : Hdr) (o : Bin) | xorImm (h : Hdr) (o : BinI)
  | not (h : Hdr) (o : Un)
  | shl (h : Hdr) (o : Bin) | shlImm (h : Hdr) (o : BinI)
  | shr (h : Hdr) (o : Bin) | shrImm (h : Hdr) (o : BinI)
  | rot (h : Hdr) (o : Bin) | rotImm (h : Hdr) (o : BinI)
  | bfx (h : Hdr) (o : Bin) | bfxImm (h : Hdr) (o : BinI)
  | bfi (h : Hdr) (o : Tri) | bfiImm (h : Hdr) (o : TriI)
  | popc (h : Hdr) (o : Un) | clz (h : Hdr) (o : Un) | brev (h : Hdr) (o : Un)
  | icmp (h : Hdr) (o : Bin) | icmpImm (h : Hdr) (o : BinI)
  | sel (h : Hdr) (o : Tri) | selImm (h : Hdr) (o : TriI)
  | lea (h : Hdr) (o : Tri) | leaImm (h : Hdr) (o : TriI)
  | mov (h : Hdr) (o : Un) | movi (h : Hdr) (o : MovImm)
  | cvt (h : Hdr) (o : Conv)
  -- floating instructions
  | fadd (h : Hdr) (o : Bin) | faddImm (h : Hdr) (o : BinI)
  | fsub (h : Hdr) (o : Bin) | fsubImm (h : Hdr) (o : BinI)
  | fmul (h : Hdr) (o : Bin) | fmulImm (h : Hdr) (o : BinI)
  | ffma (h : Hdr) (o : Tri) | ffmaImm (h : Hdr) (o : TriI)
  | fmin (h : Hdr) (o : Bin) | fminImm (h : Hdr) (o : BinI)
  | fmax (h : Hdr) (o : Bin) | fmaxImm (h : Hdr) (o : BinI)
  | fabs (h : Hdr) (o : Un) | fneg (h : Hdr) (o : Un)
  | fcmp (h : Hdr) (o : Bin) | fcmpImm (h : Hdr) (o : BinI)
  | fclass (h : Hdr) (o : Un)
  | cvtf (h : Hdr) (o : Conv)
  | frcp (h : Hdr) (o : Un) | frsq (h : Hdr) (o : Un) | fsqrt (h : Hdr) (o : Un)
  | fexp2 (h : Hdr) (o : Un) | flog2 (h : Hdr) (o : Un) | fsin (h : Hdr) (o : Un) | fcos (h : Hdr) (o : Un)
  | vadd2 (h : Hdr) (o : Bin) | vmul2 (h : Hdr) (o : Bin) | vfma2 (h : Hdr) (o : Tri)
  -- predicates and control
  | plop (h : Hdr) (o : PlopOps)
  | pblk (h : Hdr) (o : PblkOps)
  | bra (h : Hdr) (off : W32) | jmpr (h : Hdr) (a : Opd) | call (h : Hdr) (off : W32) | callr (h : Hdr) (a : Opd)
  | ret (h : Hdr) | exit (h : Hdr) | yield (h : Hdr) | wsync (h : Hdr) (c : Opd) | nop (h : Hdr)
  | swt (h : Hdr) (a : Opd) (n : BitVec 16) | tret (h : Hdr) (nx : Bool) | rgn (h : Hdr) | brk (h : Hdr) (imm : W32)
  -- warp-wide instructions
  | vote (h : Hdr) (o : VoteOps) | shfl (h : Hdr) (o : ShflOps) | wred (h : Hdr) (o : WredOps) | wscan (h : Hdr) (o : WredOps)
  -- memory
  | ld (h : Hdr) (o : LdOps) | st (h : Hdr) (o : StOps) | ldq (h : Hdr) (o : LdqOps) | stq (h : Hdr) (o : StqOps)
  | ldacq (h : Hdr) (o : LdOps) | strel (h : Hdr) (o : StOps) | pref (h : Hdr) (o : PrefOps)
  | flush (h : Hdr) (o : RangeOps) | inval (h : Hdr) (o : RangeOps)
  | atom (h : Hdr) (o : AtomOps) | acas (h : Hdr) (o : AcasOps) | red (h : Hdr) (o : AtomOps)
  | fence (h : Hdr) (ord : Order) (sc : Scope)
  | marm (h : Hdr) (o : AddrOps) | mwait (h : Hdr) (d : Opd)
  | bar (h : Hdr) | nbar (h : Hdr) (o : NbarOps) | ssb (h : Hdr)
  | pinw (h : Hdr) (o : PinOps) | unpinw (h : Hdr) (o : PinOps)
  -- tenure
  | thopen (h : Hdr) (o : ThopenOps) | tenr (h : Hdr) (o : TenrOps) | trel (h : Hdr) (sc : Scope) (a : Opd)
  | tsplit (h : Hdr) (o : TsplitOps) | thclose (h : Hdr) (sc : Scope) (a : Opd) | ttest (h : Hdr) (d a : Opd)
  -- matrix engine
  | tidset (h : Hdr) (tx : BitVec 10) (a : Opd) | tidget (h : Hdr) (tx : BitVec 10) (a : Opd)
  | scaleb (h : Hdr) (tx : BitVec 10) (a : Opd)
  | mrsv (h : Hdr) (d : Opd) | mrel (h : Hdr)
  | tmma (h : Hdr) (o : TileOps) | tldacc (h : Hdr) (o : TileOps) | tstacc (h : Hdr) (o : TileOps)
  | tzacc (h : Hdr) (d : Opd) | tcvt (h : Hdr) (o : TileOps)
  | ttask (h : Hdr) (d a : Opd) | twaitk (h : Hdr) (d a : Opd)
  -- scheduling
  | rgrow (h : Hdr) (d : Opd) (imm : W32) | rshrink (h : Hdr) (d : Opd) (imm : W32)
  | spawn (h : Hdr) (d a : Opd) (off : BitVec 24) | joindec (h : Hdr) (d a : Opd) (off : BitVec 24)
  | launch (h : Hdr) (d a : Opd) (off : BitVec 24)
  -- copies and channels
  | acopy (h : Hdr) (o : AcopyOps) | acopyt (h : Hdr) (o : AcopytOps) | acopyr (h : Hdr) (o : AcopyrOps)
  | cmwait (h : Hdr) (o : CmOps) | cmtest (h : Hdr) (o : CmOps)
  | csend (h : Hdr) (d a b : Opd) | crecv (h : Hdr) (d a b : Opd) | cpoll (h : Hdr) (rcv : Bool) (d a : Opd)
  -- collectives
  | hlred (h : Hdr) (d a : Opd) | hlgath (h : Hdr) (d a : Opd) | hlrot (h : Hdr) (d a : Opd)
  | hlwait (h : Hdr) (d a : Opd) | hlstat (h : Hdr) (d a : Opd)
  -- pennants
  | pnsend (h : Hdr) (n : BitVec 6) (wake : Bool) (d a b : Opd) | pnmask (h : Hdr) (d a : Opd)
  | pnpend (h : Hdr) (sel : Bool) (d : Opd) | pnack (h : Hdr) (d : Opd) (n : W32) | pnret (h : Hdr)
  | pnwait (h : Hdr) (d a : Opd)
  -- system and debug
  | srd (h : Hdr) (o : SysOps) | swr (h : Hdr) (o : SysOps) | svc (h : Hdr) (imm : W32) | sret (h : Hdr)
  | tlbi (h : Hdr) (mode : TlbiMode) (a b : Opd) | dcap (h : Hdr) (op : DcapOp) (d a b c : Opd) | trig (h : Hdr) (imm : W32)
  -- events of the table (no instruction word decodes to one)
  | faultRecordRetry (die : Nat) | barrierDeadlock (gid : Nat) | memberWaitComplete (w : WKey) (lane : Nat)
  | watchEvent (core : Nat) (block : Nat) | mwaitWake (w : WKey) (lane : Nat) | mwaitTimeout (w : WKey) (lane : Nat)
  | groupExit (gid : Nat) | exitComplete (w : WKey) (lane : Nat) | instructionComplete (w : WKey) (lane : Nat)
  | issueVote (core quad : Nat) | rgrowGrant (core : Nat) | rgrowDeadlock (core : Nat)
  | schedulerGrant (die : Nat) | queueAging (die : Nat) | devicePushRetry (die : Nat) | expanderEmit (die : Nat)
  | hostSnoop (kind : SnoopKind) (line : Nat) | queueAgentPackets (hq : Nat)
  | hostRequestNotReady (config : Bool) (tag : Nat) | hostConfigRequest (write : Bool) (reg : ConfigAddr) (val : W32) (tag : Nat)
  | cxlUnsupportedRequest (tag : Nat) | bar0BadAccess (off len : Nat) (tag : Nat)
  | registerWrite (off : Nat) (eight : Bool) (val : W64)
  | ctxCreate (id : Nat) | ctxDestroy (id : Nat)
  | preemptContext (ctx : Nat) | preemptCore (core : Nat) | preemptSuspend (ctx : Nat) | ctxresume (ctx : Nat)
  | heldListPushRetry (ctx : Nat) | drainWindowExpiry (gid : Nat) | saveComplete (gid : Nat)
  | fltdoneRetry (die seq : Nat) | fltdoneSkip (die seq : Nat) | fltdoneDeliver (die seq : Nat) | fltdoneKill (die seq : Nat)
  | pwrctlGo (step : BitVec 2) | thermalTrip (die : Nat)
  | attreq (addr : W64)
  | gateCrossing (gate : Nat) | arrivalApply (gate : Nat) | replayInject (gate : Nat)
  | dbghaltHalt (core : Nat) (all : Bool) (ctx : Nat) | dbghaltResume (core : Nat) (all : Bool) (ctx : Nat)
  | dbghaltStep (core : Nat) (all : Bool) (ctx : Nat)
  | traceCycleTrigger (die : Nat) | traceCaptureEnd (die : Nat)
  | l1DrainTimeout (core : Nat) | leaseExpiry (core : Nat) | drainRequest (core : Nat) | drainAck (core : Nat)
  | forwardedWriteApply (die : Nat) | epochMarker (die home : Nat) | ownershipRecall (block : Nat)
  | ownershipGrant (block : Nat) | retentionAging (die : Nat) | softErrorScrub (line : Nat)
  | pageWalkComplete (die : Nat) | tenureGrant (die : Nat) | tenureDrainAck (die : Nat) | spillRetry (die : Nat)
  | engineStep (core : Nat) | copyChunkComplete (core : Nat) | channelResume (w : WKey) (lane : Nat)
  | linkUp (port : Nat) (versions : Nat) (lanes : Nat) | linkDown (port : Nat) | flitRetry (flit : FlitTry)
  | collectiveChunkArrival (m : ChunkMsg) | chunkAckTimeout (die : Nat) | predecessorTimeout (die : Nat)
  | timeAlignRequest (port : Nat) (t1 : W64) | timeAlignReply (t1 t2 t3 : W64)
  | pennantSendArrival (die : Nat) | pennantFabricMessage (port : Nat) (m : PennantMsg) | pennantNoAnswer (die : Nat)
  | pennantDiversion (gid : Nat) | pnsendSettle (w : WKey) (lane : Nat) | stallWake (w : WKey) (lane : Nat)
  | hqEnable (n : Nat) | msixVectorUnmask (n : Nat) | collectiveChunkAck (port collid ordinal seq : Nat)
  | hostLinkTraining (width : Nat) (terms : LinkTerms)
  -- events without fields
  | powerStepEffect | attestationComplete | bootVerifyComplete | powerOn | startupStep | packageReset | resetRelease
  | refreshTick | replayEnd | slackWaterStop | imageWriteComplete | swctlRestore | restoreComplete | triggerEffect
  | tideLatch | storeAck | timeAlignExchange | powerLoss
  deriving DecidableEq, Repr, Inhabited

end Sys2Proof
end

