-- ==== Sys2Proof/WellFormed.lean ====
section
/-! DEFINITION. Which instructions are well formed: the static checks of 15_instruction_formats.md R290 on the fields (step 6)
and on the operand codes (steps 8 and 9), with the ranges of the events' arguments. Also the static classes of instructions
(R43, R224). -/
namespace Sys2Proof

namespace Fmt
/-- The format code of R148. -/
def code : Fmt → Nat
  | .i8 => 0 | .i16 => 1 | .i32 => 2 | .i64 => 3 | .n8 => 4 | .n16 => 5 | .n32 => 6 | .n64 => 7
  | .f32 => 8 | .f16 => 9 | .bf16 => 10 | .e4m3 => 11 | .e5m2 => 12 | .q4 => 13 | .q3 => 14 | .q8 => 15
/-- The width in bits of R148. -/
def width : Fmt → Nat
  | .i8 | .n8 | .e4m3 | .e5m2 | .q8 => 8
  | .i16 | .n16 | .f16 | .bf16 => 16
  | .i32 | .n32 | .f32 => 32
  | .i64 | .n64 => 64
  | .q4 => 4 | .q3 => 3
/-- A 64-bit type, carried by a register pair (R309). -/
def is64 : Fmt → Bool
  | .i64 | .n64 => true
  | _ => false
/-- A floating format (R148). -/
def isFloat : Fmt → Bool
  | .f32 | .f16 | .bf16 | .e4m3 | .e5m2 => true
  | _ => false
/-- A format whose integers are signed: the .i formats and the weights (R153). -/
def isSigned : Fmt → Bool
  | .i8 | .i16 | .i32 | .i64 | .q8 | .q4 | .q3 => true
  | _ => false
/-- A weight format (R148). -/
def isWeight : Fmt → Bool
  | .q8 | .q4 | .q3 => true
  | _ => false
end Fmt

/-- Bytes of an access size (Table 15.2). -/
def Size.bytes : Size → Nat
  | .b1 => 1 | .b2 => 2 | .b4 => 4 | .b8 => 8 | .b16 => 16

namespace Opd
/-- A reserved operand code (R297). -/
def reserved : Opd → Bool
  | .bad _ => true
  | _ => false
/-- A destination that accepts a g register (an even one for a pair), or 3FFh. A special register passes here and is refused
at step 11 (R297). -/
def dstG (w64 : Bool) : Opd → Bool
  | .g n => !w64 || n.val % 2 == 0
  | .s _ | .zero => true
  | _ => false
/-- A destination that accepts a g or k register (an even one for a pair), or 3FFh. -/
def dstGK (w64 : Bool) : Opd → Bool
  | .k n => !w64 || n.val % 2 == 0
  | o => o.dstG w64
/-- As `dstGK` without 3FFh. -/
def dstGKonly : Opd → Bool
  | .zero => false
  | o => o.dstGK false
/-- A source that accepts g, k or s, or 3FFh (R315, R334); a 64-bit source is an even pair and no special register. -/
def src (w64 : Bool) : Opd → Bool
  | .g n => !w64 || n.val % 2 == 0
  | .k n => !w64 || n.val % 2 == 0
  | .s _ => !w64
  | .zero => true
  | _ => false
/-- A g register, even when `even`. -/
def isG (even : Bool) : Opd → Bool
  | .g n => !even || n.val % 2 == 0
  | _ => false
/-- A g register whose number is a multiple of 4. -/
def isG4 : Opd → Bool
  | .g n => n.val % 4 == 0
  | _ => false
/-- A k register, even when `even`, with `more` registers after it inside the bank. -/
def isK (even : Bool) (more : Nat) : Opd → Bool
  | .k n => (!even || n.val % 2 == 0) && n.val + more ≤ 63
  | _ => false
/-- A g or k register. -/
def isGK : Opd → Bool
  | .g _ | .k _ => true
  | _ => false
/-- A predicate. -/
def isP : Opd → Bool
  | .p _ => true
  | _ => false
/-- A predicate or 3FFh. -/
def isPz : Opd → Bool
  | .p _ | .zero => true
  | _ => false
/-- p0 to p6 or 3FFh. -/
def isP6z : Opd → Bool
  | .p n => n.val ≤ 6
  | .zero => true
  | _ => false
/-- A tile handle. -/
def isH : Opd → Bool
  | .h _ => true
  | _ => false
/-- An accumulator tile. -/
def isAcc : Opd → Bool
  | .acc _ => true
  | _ => false
/-- A dataflow channel. -/
def isCh : Opd → Bool
  | .ch _ => true
  | _ => false
/-- A named barrier. -/
def isNb : Opd → Bool
  | .nb _ => true
  | _ => false
/-- 3FFh. -/
def isZero : Opd → Bool
  | .zero => true
  | _ => false
/-- The destination of ICMP and FCMP: p0 to p4, or a g or k register, or 3FFh (R338, R347). -/
def cmpDst : Opd → Bool
  | .p n => n.val ≤ 4
  | o => o.dstGK false
/-- A pair of g registers as a destination, or 3FFh. -/
def dstPairZ : Opd → Bool := dstG true
end Opd

/-- The address operand of an FM instruction: an even pair for the virtual and vault spaces (R294, R352). -/
def AddrOps.ok (o : AddrOps) : Bool :=
  match o.sp with
  | .virt | .vlt => o.a.isG true
  | .scr | .prv => o.a.isG false

/-- SIZE equals the width of the format; the sub-byte formats, which no memory access carries, are left to step 12 (R353). -/
def sizeFits (size : Size) (fmt : Fmt) : Bool :=
  match fmt with
  | .q4 | .q3 => true
  | f => size.bytes * 8 == f.width

/-- SIZE of ATOM and RED equals the width of TYPE, which no SIZE does for .q4 and .q3 (R316). -/
def atomSizeFits (size : Size) (fmt : Fmt) : Bool := size.bytes * 8 == fmt.width

/-- SIZE of ACAS: 4 bytes for 32-bit types, 8 for 64-bit types, nothing else (R311). -/
def acasSizeFits (size : Size) (fmt : Fmt) : Bool :=
  match size with
  | .b4 => !fmt.is64
  | .b8 => fmt.width != 32
  | _ => false

/-- The 8-byte registers of BAR0 (Tables 13.1, 13.2, 14.3, 14.5 and DCAPBASE of R286). -/
def bar8 (off : Nat) : Bool :=
  if off < 0x2000 then false
  else if off < 0x2100 then
    [0x2000, 0x2010, 0x2020, 0x2030, 0x2038, 0x2040, 0x2048, 0x2050, 0x2058, 0x2070, 0x2088, 0x2098].contains off
  else if off < 0x2170 then off % 8 == 0
  else if off < 0x2400 then off == 0x21A0
  else if off < 0x2400 + 0x20 * 34 then (off - 0x2400) % 0x20 == 0
  else if 0x2900 ≤ off && off < 0x2900 + 0x20 * 16 then (off - 0x2900) % 0x20 == 0 || (off - 0x2900) % 0x20 == 8
  else if 0x10000 ≤ off && off < 0x90000 then
    [0x0, 0x10, 0x20, 0x28, 0x30, 0x40, 0x100, 0x110, 0x120].contains ((off - 0x10000) % 0x10000)
  else false

/-- Step 6 of R290 for SRD and SWR: N of the .bar space is a multiple of 4, and of 8 for an 8-byte register (R380). -/
def SysOps.fieldOk (o : SysOps) : Bool :=
  match o.sp with
  | .bar => o.n.toNat % 4 == 0 && !(o.n.toNat % 8 == 4 && bar8 (o.n.toNat - 4))
  | _ => true

namespace Instr

/-- The shared issue fields of an instruction; an event has none. -/
def hdr? : Instr → Option Hdr
  | iadd h _ | iaddImm h _ | isub h _ | isubImm h _ | imul h _ | imulImm h _ | imad h _ | imadImm h _ | imin h _ | iminImm h _
  | imax h _ | imaxImm h _ | iabs h _ | and h _ | andImm h _ | or h _ | orImm h _ | xor h _ | xorImm h _ | not h _
  | shl h _ | shlImm h _ | shr h _ | shrImm h _ | rot h _ | rotImm h _ | bfx h _ | bfxImm h _ | bfi h _ | bfiImm h _
  | popc h _ | clz h _ | brev h _ | icmp h _ | icmpImm h _ | sel h _ | selImm h _ | lea h _ | leaImm h _ | mov h _ | movi h _
  | cvt h _ | fadd h _ | faddImm h _ | fsub h _ | fsubImm h _ | fmul h _ | fmulImm h _ | ffma h _ | ffmaImm h _
  | fmin h _ | fminImm h _ | fmax h _ | fmaxImm h _ | fabs h _ | fneg h _ | fcmp h _ | fcmpImm h _ | fclass h _ | cvtf h _
  | frcp h _ | frsq h _ | fsqrt h _ | fexp2 h _ | flog2 h _ | fsin h _ | fcos h _ | vadd2 h _ | vmul2 h _ | vfma2 h _
  | plop h _ | pblk h _ | bra h _ | jmpr h _ | call h _ | callr h _ | ret h | exit h | yield h | wsync h _ | nop h
  | swt h _ _ | tret h _ | rgn h | brk h _ | vote h _ | shfl h _ | wred h _ | wscan h _ | ld h _ | st h _ | ldq h _ | stq h _
  | ldacq h _ | strel h _ | pref h _ | flush h _ | inval h _ | atom h _ | acas h _ | red h _ | fence h _ _ | marm h _
  | mwait h _ | bar h | nbar h _ | ssb h | pinw h _ | unpinw h _ | thopen h _ | tenr h _ | trel h _ _ | tsplit h _
  | thclose h _ _ | ttest h _ _ | tidset h _ _ | tidget h _ _ | scaleb h _ _ | mrsv h _ | mrel h | tmma h _ | tldacc h _
  | tstacc h _ | tzacc h _ | tcvt h _ | ttask h _ _ | twaitk h _ _ | rgrow h _ _ | rshrink h _ _ | spawn h _ _ _
  | joindec h _ _ _ | launch h _ _ _ | acopy h _ | acopyt h _ | acopyr h _ | cmwait h _ | cmtest h _ | csend h _ _ _
  | crecv h _ _ _ | cpoll h _ _ _ | hlred h _ _ | hlgath h _ _ | hlrot h _ _ | hlwait h _ _ | hlstat h _ _
  | pnsend h _ _ _ _ _ | pnmask h _ _ | pnpend h _ _ | pnack h _ _ | pnret h | pnwait h _ _ | srd h _ | swr h _ | svc h _
  | sret h | tlbi h _ _ _ | dcap h _ _ _ _ _ | trig h _ => some h
  | _ => none

/-- An instruction of the opcode map, as against an event. -/
def isWord (i : Instr) : Bool := i.hdr?.isSome

/-- The port B class of R43. -/
def portB : Instr → Bool
  | iadd .. | iaddImm .. | isub .. | isubImm .. | imul .. | imulImm .. | imad .. | imadImm .. | imin .. | iminImm ..
  | imax .. | imaxImm .. | iabs .. | and .. | andImm .. | or .. | orImm .. | xor .. | xorImm .. | not .. | shl .. | shlImm ..
  | shr .. | shrImm .. | rot .. | rotImm .. | bfx .. | bfxImm .. | bfi .. | bfiImm .. | popc .. | clz .. | brev .. | icmp ..
  | icmpImm .. | sel .. | selImm .. | lea .. | leaImm .. | mov .. | movi .. | cvt .. | fadd .. | faddImm .. | fsub ..
  | fsubImm .. | fmul .. | fmulImm .. | ffma .. | ffmaImm .. | fmin .. | fminImm .. | fmax .. | fmaxImm .. | fabs ..
  | fneg .. | fcmp .. | fcmpImm .. | fclass .. | cvtf .. | vadd2 .. | vmul2 .. | vfma2 .. | plop .. | bra .. | nop .. => true
  | _ => false

/-- A BRA, which a PBLK may not cover (R299). -/
def isBra : Instr → Bool
  | bra .. => true
  | _ => false

/-- The instructions that end an idempotent region (R224; RGN itself is apart). -/
def endsRegion : Instr → Bool
  | atom .. | acas .. | red .. | spawn .. | joindec .. | launch .. | thopen .. | tenr .. | trel .. | tsplit .. | thclose ..
  | tmma .. | tldacc .. | tstacc .. | tzacc .. | tcvt .. | mrel .. | ttask .. | acopy .. | acopyt .. | acopyr ..
  | csend .. | crecv .. | hlred .. | hlgath .. | hlrot .. | pnsend .. | pnack .. | ssb .. | swr .. | svc .. | dcap .. => true
  | _ => false

/-- The tile instructions, which complete with their engine command (R176). -/
def isTile : Instr → Bool
  | tmma .. | tldacc .. | tstacc .. | tzacc .. | tcvt .. => true
  | _ => false

/-- An instruction that ends its region later than it issues: a tile instruction, with its command, and SSB, with its generation
(11_traps_and_preemption.md R224, 18_reference_m_s.md R383). -/
def endsLater : Instr → Bool
  | ssb .. => true
  | i => i.isTile

/-- Step 6 of R290: the modifier, order and size values that the instruction accepts. -/
def fieldsOk : Instr → Bool
  | ld _ o | ldacq _ o => sizeFits o.size o.fmt
  | st _ o | strel _ o => sizeFits o.size o.fmt
  | atom _ o => atomSizeFits o.size o.fmt
  | red _ o => atomSizeFits o.size o.fmt && o.op != .exch && (o.ord == .none || o.ord == .rel)
  | acas _ o => acasSizeFits o.size o.fmt
  | wred _ o => o.op != .exch && !o.exc
  | wscan _ o => o.op != .exch
  | fence _ ord _ => ord != .none
  | acopy _ o => o.sz != .b1 && o.sz != .b2
  | acopyt _ o => o.lcv || o.lfmt == .i8
  | acopyr _ o => o.op != .xor && o.op != .exch
  | srd _ o | swr _ o => o.fieldOk && (o.sp != .thr || o.n.toNat < 1024)
  | _ => true

/-- The fields of a shared record that an instruction does not use stand at their encoding of zero or 3FFh. -/
def unusedOk : Instr → Bool
  | red _ o => o.d.isZero
  | nbar _ o => o.b.isZero || o.cnt == 0
  | tmma _ o | tldacc _ o => o.fmt == .i8 && !o.sat && (o.b.isZero || o.b.isK false 0)
  | tcvt _ o => o.fmt == .i8 && o.d.isZero
  | tstacc _ o => o.d.isZero
  | tlbi _ .ctx a _ => a.isZero
  | tlbi _ .all a b => a.isZero && b.isZero
  | dcap _ .rev _ _ b c | dcap _ .qry _ _ b c => b.isZero && c.isZero
  | _ => true

/-- The operand codes an instruction names (R290 step 8). -/
def opds : Instr → List Opd
  | iadd _ o | isub _ o | imul _ o | imin _ o | imax _ o | and _ o | or _ o | xor _ o | shl _ o | shr _ o | rot _ o | bfx _ o
  | icmp _ o | fadd _ o | fsub _ o | fmul _ o | fmin _ o | fmax _ o | fcmp _ o | vadd2 _ o | vmul2 _ o => [o.d, o.a, o.b]
  | iaddImm _ o | isubImm _ o | imulImm _ o | iminImm _ o | imaxImm _ o | andImm _ o | orImm _ o | xorImm _ o | shlImm _ o
  | shrImm _ o | rotImm _ o | bfxImm _ o | icmpImm _ o | faddImm _ o | fsubImm _ o | fmulImm _ o | fminImm _ o | fmaxImm _ o
  | fcmpImm _ o => [o.d, o.a]
  | imad _ o | bfi _ o | sel _ o | lea _ o | ffma _ o | vfma2 _ o => [o.d, o.a, o.b, o.c]
  | imadImm _ o | bfiImm _ o | selImm _ o | leaImm _ o | ffmaImm _ o => [o.d, o.a, o.b]
  | iabs _ o | not _ o | popc _ o | clz _ o | brev _ o | mov _ o | fabs _ o | fneg _ o | fclass _ o | frcp _ o | frsq _ o
  | fsqrt _ o | fexp2 _ o | flog2 _ o | fsin _ o | fcos _ o => [o.d, o.a]
  | movi _ o => [o.d]
  | cvt _ o | cvtf _ o => [o.d, o.a]
  | plop _ o => [o.d, o.a, o.b]
  | pblk _ o => [o.d]
  | jmpr _ a | callr _ a => [a]
  | wsync _ c => [c]
  | swt _ a _ => [a]
  | vote _ o => [o.d, o.a, o.c]
  | shfl _ o => [o.d, o.a, o.b, o.c]
  | wred _ o | wscan _ o => [o.d, o.a, o.c]
  | ld _ o | ldacq _ o => [o.d, o.addr.a]
  | st _ o | strel _ o => [o.addr.a, o.b]
  | ldq _ o => [o.d, o.addr.a]
  | stq _ o => [o.addr.a, o.b]
  | pref _ o => [o.a]
  | flush _ o | inval _ o => [o.a, o.b]
  | atom _ o | red _ o => [o.d, o.addr.a, o.b]
  | acas _ o => [o.d, o.addr.a, o.b]
  | marm _ o => [o.a]
  | mwait _ d => [d]
  | nbar _ o => [o.a, o.b]
  | pinw _ o | unpinw _ o => [o.d, o.a, o.b]
  | thopen _ o => [o.d, o.a, o.b]
  | tenr _ o => [o.d, o.a]
  | trel _ _ a | thclose _ _ a => [a]
  | tsplit _ o => [o.d, o.a, o.b]
  | ttest _ d a => [d, a]
  | tidset _ _ a | tidget _ _ a | scaleb _ _ a => [a]
  | mrsv _ d => [d]
  | tmma _ o | tldacc _ o | tstacc _ o | tcvt _ o => [o.d, o.a, o.b]
  | tzacc _ d => [d]
  | ttask _ d a | twaitk _ d a => [d, a]
  | rgrow _ d _ | rshrink _ d _ => [d]
  | spawn _ d a _ | joindec _ d a _ | launch _ d a _ => [d, a]
  | acopy _ o => [o.d, o.a, o.b]
  | acopyt _ o => [o.d, o.a, o.b]
  | acopyr _ o => [o.d, o.a, o.b]
  | cmwait _ o | cmtest _ o => [o.d, o.a, o.b, o.c]
  | csend _ d a b | crecv _ d a b => [d, a, b]
  | cpoll _ _ d a => [d, a]
  | hlred _ d a | hlgath _ d a | hlrot _ d a | hlwait _ d a | hlstat _ d a => [d, a]
  | pnsend _ _ _ d a b => [d, a, b]
  | pnmask _ d a | pnwait _ d a => [d, a]
  | pnpend _ _ d => [d]
  | pnack _ d _ => [d]
  | srd _ o | swr _ o => [o.r, o.b]
  | tlbi _ _ a b => [a, b]
  | dcap _ _ d a b c => [d, a, b, c]
  | _ => []

/-- Step 9 of R290: the kinds, pairs and ranges that each operand field accepts (R309, R334, and each entry). -/
def kindsOk : Instr → Bool
  | iadd _ o | isub _ o | imul _ o | imin _ o | imax _ o | and _ o | or _ o | xor _ o =>
    o.d.dstGK o.ty.is64 && o.a.src o.ty.is64 && o.b.src o.ty.is64
  | iaddImm _ o | isubImm _ o | imulImm _ o | iminImm _ o | imaxImm _ o | andImm _ o | orImm _ o | xorImm _ o =>
    o.d.dstGK o.ty.is64 && o.a.src o.ty.is64
  | imad _ o => o.d.dstGK o.ty.is64 && o.a.src o.ty.is64 && o.b.src o.ty.is64 && o.c.src o.ty.is64
  | imadImm _ o => o.d.dstGK o.ty.is64 && o.a.src o.ty.is64 && o.b.src o.ty.is64
  | iabs _ o | not _ o | brev _ o => o.d.dstGK o.ty.is64 && o.a.src o.ty.is64
  | shl _ o | shr _ o | rot _ o | bfx _ o => o.d.dstGK o.ty.is64 && o.a.src o.ty.is64 && o.b.src false
  | shlImm _ o | shrImm _ o | rotImm _ o | bfxImm _ o => o.d.dstGK o.ty.is64 && o.a.src o.ty.is64
  | bfi _ o => o.d.dstGK o.ty.is64 && o.a.src o.ty.is64 && o.b.src o.ty.is64 && o.c.src false
  | bfiImm _ o => o.d.dstGK o.ty.is64 && o.a.src o.ty.is64 && o.b.src o.ty.is64
  | popc _ o | clz _ o => o.d.dstGK false && o.a.src o.ty.is64
  | icmp _ o => o.d.cmpDst && o.a.src o.ty.is64 && o.b.src o.ty.is64
  | icmpImm _ o => o.d.cmpDst && o.a.src o.ty.is64
  | sel _ o => o.d.dstGK o.ty.is64 && o.a.isP && o.b.src o.ty.is64 && o.c.src o.ty.is64
  | selImm _ o => o.d.dstGK o.ty.is64 && o.a.isP && o.b.src o.ty.is64
  | lea _ o => o.d.dstGK o.ty.is64 && o.a.src o.ty.is64 && o.b.src false && o.c.src false
  | leaImm _ o => o.d.dstGK o.ty.is64 && o.a.src o.ty.is64 && o.b.src false
  | mov _ o => ((o.d.isP && !o.ty.is64) || o.d.dstGK o.ty.is64) && ((o.a.isP && !o.ty.is64) || o.a.src o.ty.is64)
  | movi _ o => (o.d.isP && !o.ty.is64) || o.d.dstGK o.ty.is64
  | cvt _ o | cvtf _ o => o.d.dstGK o.ty.is64 && o.a.src o.sty.is64
  | fadd _ o | fsub _ o | fmul _ o | fmin _ o | fmax _ o | vadd2 _ o | vmul2 _ o =>
    o.d.dstGK false && o.a.src false && o.b.src false
  | faddImm _ o | fsubImm _ o | fmulImm _ o | fminImm _ o | fmaxImm _ o => o.d.dstGK false && o.a.src false
  | ffma _ o | vfma2 _ o => o.d.dstGK false && o.a.src false && o.b.src false && o.c.src false
  | ffmaImm _ o => o.d.dstGK false && o.a.src false && o.b.src false
  | fcmp _ o => o.d.cmpDst && o.a.src false && o.b.src false
  | fcmpImm _ o => o.d.cmpDst && o.a.src false
  | fabs _ o | fneg _ o | fclass _ o | frcp _ o | frsq _ o | fsqrt _ o | fexp2 _ o | flog2 _ o | fsin _ o | fcos _ o =>
    o.d.dstGK false && o.a.src false
  | plop _ o => o.d.isPz && o.a.isPz && o.b.isPz
  | pblk _ o => o.d.isP
  | jmpr _ a | callr _ a => a.isG true
  | wsync _ c => c.isGK
  | swt _ a _ => a.isG false
  | vote _ o =>
    (match o.mode with
      | .ballot => o.d.dstGK false
      | _ => o.d.isPz) && o.a.isPz && o.c.isGK
  | shfl _ o => o.d.dstGK o.ty.is64 && o.a.src o.ty.is64 && o.b.isGK && o.c.isGK
  | wred _ o | wscan _ o =>
    o.d.dstGK o.ty.is64 && o.a.isGK && o.a.src o.ty.is64 && o.c.isGK
  | ld _ o | ldacq _ o => o.d.dstGK o.fmt.is64 && o.addr.ok
  | st _ o | strel _ o => o.addr.ok && (o.b.isGK || o.b.isZero) && o.b.src o.fmt.is64
  | ldq _ o => (o.d.isG4 || o.d.isZero || (match o.d with | .s _ => true | _ => false)) && o.addr.ok
  | stq _ o => o.addr.ok && o.b.isG4
  | pref _ o => o.a.isG true
  | flush _ o | inval _ o => o.a.isG true && o.b.isG false
  | atom _ o => o.d.dstG o.fmt.is64 && o.addr.ok && o.b.isG o.fmt.is64
  | red _ o => o.d.isZero && o.addr.ok && o.b.isG o.fmt.is64
  | acas _ o => o.d.dstG o.fmt.is64 && o.addr.ok && (if o.fmt.is64 then o.b.isG4 else o.b.isG true)
  | marm _ o => o.ok
  | mwait _ d => d.dstG false
  | nbar _ o => o.a.isNb && (o.b.isGK || o.b.isZero)
  | pinw _ o | unpinw _ o => o.d.dstG false && o.a.isG true && o.b.isG false
  | thopen _ o => o.d.isH && o.a.isK false 0 && o.b.isK false 0
  | tenr _ o => (if o.tr then o.d.isP6z else o.d.isZero) && o.a.isH
  | trel _ _ a | thclose _ _ a => a.isH
  | tsplit _ o => o.d.isH && o.a.isH && o.b.isK false 0
  | ttest _ d a => d.dstGKonly && a.isH
  | tidset _ _ a | tidget _ _ a | scaleb _ _ a => a.isG true
  | mrsv _ d => d.isP6z
  | tmma _ o => o.d.isAcc && o.a.isK false 3 && o.b.isK false 0
  | tldacc _ o => o.d.isAcc && o.a.isK false 1 && o.b.isZero
  | tstacc _ o => o.d.isZero && o.a.isAcc && o.b.isK false 1
  | tzacc _ d => d.isAcc
  | tcvt _ o => o.d.isZero && o.a.isK false 3 && o.b.isK false 0
  | ttask _ d a => d.dstG false && a.isG true
  | twaitk _ d a => d.dstG false && a.isK false 0
  | rgrow _ d _ | rshrink _ d _ => d.dstG false
  | spawn _ d a _ | joindec _ d a _ | launch _ d a _ => d.dstG false && a.isG true
  | acopy _ o => o.d.isG true && o.a.isG true && o.b.isK false 0
  | acopyt _ o => o.d.isK false 0 && o.a.isK false 0 && o.b.isK o.vlt 0
  | acopyr _ o => o.d.isK false 0 && o.a.isK false 0 && o.b.isK o.vlt 0
  | cmwait _ o => o.d.dstG false && o.a.isK false 0 && o.b.isK false 0 && o.c.isK false 0
  | cmtest _ o => o.d.isP6z && o.a.isK false 0 && o.b.isK false 0 && o.c.isK false 0
  | csend _ d a b | crecv _ d a b => d.dstG false && a.isCh && b.isK false 0
  | cpoll _ _ d a => d.isP6z && a.isCh
  | hlred _ d a | hlgath _ d a | hlrot _ d a => d.dstG false && a.isK true 0
  | hlwait _ d a => d.dstG false && a.isK false 0
  | hlstat _ d a => d.dstGKonly && a.isK false 0
  | pnsend _ _ _ d a b => d.dstG false && a.isG true && b.isG true
  | pnmask _ d a => d.dstPairZ && a.isG true
  | pnpend _ _ d => d.isG true || (match d with | .s _ => true | _ => false)
  | pnack _ d _ => match d with
    | .g n => n.val % 2 == 0 && n.val ≤ 124
    | d => d.dstG true
  | pnwait _ d a => d.dstG false && a.isG true
  | srd _ o =>
    (o.r.isG true || (match o.r with | .s _ => true | _ => false)) &&
    (match o.sp with
      | .ctx => o.b.isG false || o.b.isZero
      | .thr => o.b.isG false
      | .bar => o.b.isZero)
  | swr _ o =>
    o.r.isG true &&
    (match o.sp with
      | .ctx => o.b.isG false || o.b.isZero
      | .thr => o.b.isG false
      | .bar => o.b.isZero)
  | tlbi _ m a b => match m with
    | .va => a.isG true && (b.isG false || b.isZero)
    | .ctx => a.isZero && (b.isG false || b.isZero)
    | .all => a.isZero && b.isZero
  | dcap _ op d a b c =>
    d.dstG false && a.isG false &&
    (match op with
      | .dlg => b.isG false && c.isG false
      | _ => b.isZero && c.isZero)
  | _ => true

/-- The ranges of the events' arguments (R13, R16, R78, R98, R273). -/
def eventOk : Instr → Bool
  | faultRecordRetry d | schedulerGrant d | queueAging d | devicePushRetry d | expanderEmit d | traceCycleTrigger d
  | traceCaptureEnd d | forwardedWriteApply d | retentionAging d | pageWalkComplete d | tenureGrant d | tenureDrainAck d
  | spillRetry d | chunkAckTimeout d | predecessorTimeout d | pennantSendArrival d | pennantNoAnswer d | thermalTrip d
  | fltdoneRetry d _ | fltdoneSkip d _ | fltdoneDeliver d _ | fltdoneKill d _ => d < 8
  | epochMarker d e => d < 8 && e < 8
  | issueVote c q => c < 512 && q < 4
  | rgrowGrant c | rgrowDeadlock c | preemptCore c | l1DrainTimeout c | leaseExpiry c | drainRequest c | drainAck c
  | engineStep c | copyChunkComplete c | watchEvent c _ => c < 512
  | memberWaitComplete w l | mwaitWake w l | mwaitTimeout w l | exitComplete w l | instructionComplete w l
  | channelResume w l | pnsendSettle w l | stallWake w l => w.core < 512 && w.quad < 4 && w.slot < 8 && l < 32
  | queueAgentPackets n | hqEnable n | msixVectorUnmask n => n < 16
  | gateCrossing g | arrivalApply g | replayInject g => g < 34
  | linkUp p _ _ | linkDown p | flitRetry ⟨p, _⟩ | timeAlignRequest p _ | pennantFabricMessage p _ => p < 32
  | ctxCreate c | ctxDestroy c | preemptContext c | preemptSuspend c | ctxresume c | heldListPushRetry c => c < 65536
  | registerWrite off eight _ => off % 4 == 0 && (!eight || off % 8 == 0)
  | _ => true

/-- A well-formed step: the guard is no reserved code (R290 step 2) and the static checks of steps 5, 6, 8 and 9 pass. -/
def wellFormed (i : Instr) : Bool :=
  (match i.hdr? with
    | some h => !(h.grd.neg && h.grd.p == 7)
    | none => true)
  && i.fieldsOk && i.unusedOk && !i.opds.any Opd.reserved && i.kindsOk && i.eventOk

end Instr

/-- A well-formed instruction (steps 2, 5, 6, 8 and 9 of R290). -/
abbrev WellFormed (i : Instr) : Prop := i.wellFormed = true

end Sys2Proof
end

