-- ==== Sys2Proof/Machine/Num.lean ====
section
/-! DEFINITION. Number formats and arithmetic (07_number_formats.md R149 to R165): exact values, the two rounding rules,
conversions, and the scalar floating operations of R160. -/
namespace Sys2Proof.Num

/-- The value of an encoding: NaN, an infinity, or (-1)^neg * m * 2^e; m = 0 is a zero of that sign (R150, R151). -/
inductive FV where
  | nan
  | inf (neg : Bool)
  | fin (neg : Bool) (m : Nat) (e : Int)
  deriving DecidableEq, Repr, Inhabited

/-- Fraction bits of a floating format (Table 7.1); 0 for the others. -/
def mbits : Fmt → Nat
  | .f32 => 23 | .f16 => 10 | .bf16 => 7 | .e5m2 => 2 | .e4m3 => 3 | _ => 0
/-- Exponent bits of a floating format (Table 7.1). -/
def ebits : Fmt → Nat
  | .f32 | .bf16 => 8 | .f16 | .e5m2 => 5 | .e4m3 => 4 | _ => 0
/-- Bias of a floating format (Table 7.1). -/
def bias : Fmt → Nat
  | .f32 | .bf16 => 127 | .f16 | .e5m2 => 15 | .e4m3 => 7 | _ => 0
/-- The sign bit's weight. -/
def signBit (f : Fmt) : Nat := 2 ^ (f.width - 1)
/-- The encoding of +infinity (R151); E4M3 has none. -/
def infCode (f : Fmt) : Nat := (2 ^ ebits f - 1) * 2 ^ mbits f
/-- The encoding of the largest finite value (Table 7.1). -/
def maxFinite : Fmt → Nat
  | .e4m3 => 0x7E
  | f => infCode f - 1
/-- The canonical NaN (R151). -/
def canonicalNaN : Fmt → Nat
  | .f32 => 0x7FC00000 | .f16 => 0x7E00 | .bf16 => 0x7FC0 | .e5m2 => 0x7E | .e4m3 => 0x7F | _ => 0
/-- The exponent of the smallest subnormal (Table 7.1). -/
def minExp (f : Fmt) : Int := 1 - (bias f : Int) - mbits f

/-- The value of a floating encoding (R150, R151). -/
def ofFloat (f : Fmt) (v : Nat) : FV :=
  let s := natBit v (f.width - 1)
  let E := natBits v (f.width - 2) (mbits f)
  let F := v % 2 ^ mbits f
  match f with
  | .e4m3 =>
    if E = 15 ∧ F = 7 then .nan
    else if E = 0 then .fin s F (minExp f) else .fin s (F + 8) (minExp f + E - 1)
  | _ =>
    if E = 2 ^ ebits f - 1 then (if F = 0 then .inf s else .nan)
    else if E = 0 then .fin s F (minExp f) else .fin s (F + 2 ^ mbits f) (minExp f + E - 1)

/-- The integer that a non-floating register value stands for (R149, R153). -/
def toInt (f : Fmt) (v : Nat) : Int := if f.isSigned then signExt v f.width else (v % 2 ^ f.width : Nat)

/-- The value of any format's encoding (R150 to R153). -/
def value (f : Fmt) (v : Nat) : FV :=
  if f.isFloat then ofFloat f v
  else .fin (toInt f v < 0) (toInt f v).natAbs 0

/-- m * 2^-r rounded to an integer, ties to even. -/
def shiftEven (m r : Nat) : Nat :=
  let q := m / 2 ^ r
  if 2 * (m % 2 ^ r) > 2 ^ r ∨ (2 * (m % 2 ^ r) = 2 ^ r ∧ q % 2 = 1) then q + 1 else q
/-- m * 2^-r rounded to an integer, ties away. -/
def shiftAway (m r : Nat) : Nat := if 2 * (m % 2 ^ r) ≥ 2 ^ r then m / 2 ^ r + 1 else m / 2 ^ r

/-- A target narrower than 16 bits rounds ties away (R155). -/
def away (f : Fmt) : Bool := f.width < 16

/-- The magnitude m * 2^e in units of 2^u, rounded by R155. -/
def scaleRound (aw : Bool) (m : Nat) (e u : Int) : Nat :=
  if u ≤ e then m * 2 ^ (e - u).toNat
  else if aw then shiftAway m (u - e).toNat else shiftEven m (u - e).toNat

/-- The encoding of the magnitude m * 2^e rounded to f with no upper bound of the exponent (R155, R156); it may exceed
`maxFinite f`. -/
def magCode (f : Fmt) (aw : Bool) (m : Nat) (e : Int) : Nat :=
  if m = 0 then 0
  else
    let u := max (minExp f) (Nat.log2 m + e - mbits f)
    (u - minExp f).toNat * 2 ^ mbits f + scaleRound aw m e u

/-- The sign of an encoding. -/
def withSign (f : Fmt) (s : Bool) (c : Nat) : Nat := if s then signBit f + c else c

/-- The encoding an overflow or an infinity becomes (R157). -/
def overflowCode (f : Fmt) (sat s : Bool) : Nat :=
  if sat then withSign f s (maxFinite f)
  else match f with
    | .e4m3 => withSign f s 0x7F
    | f => withSign f s (infCode f)

/-- A value into a floating format, with the rounding rule given (R155 to R157). -/
def toFloatBy (aw : Bool) (f : Fmt) (sat : Bool) : FV → Nat
  | .nan => canonicalNaN f
  | .inf s => overflowCode f sat s
  | .fin s m e => if magCode f aw m e > maxFinite f then overflowCode f sat s else withSign f s (magCode f aw m e)

/-- A value into a floating format (R155 to R157). -/
def toFloat (f : Fmt) (sat : Bool) (v : FV) : Nat := toFloatBy (away f) f sat v

/-- The smallest value of an integer or weight format (R153). -/
def lowest (f : Fmt) : Int := if f.isSigned then -(2 ^ (f.width - 1) : Nat) else 0
/-- The largest value of an integer or weight format (R153). -/
def highest (f : Fmt) : Int := if f.isSigned then (2 ^ (f.width - 1) : Nat) - 1 else (2 ^ f.width : Nat) - 1
/-- Clamp to the range of a format. -/
def clamp (f : Fmt) (x : Int) : Int := max (lowest f) (min x (highest f))

/-- A value into an integer or weight format (R158). -/
def toIntFmt (f : Fmt) : FV → Int
  | .nan => 0
  | .inf s => if s then lowest f else highest f
  | .fin s m e =>
    let q := scaleRound (away f) m e 0
    clamp f (if s then -(q : Int) else q)

/-- A result of format f written to a register, filled as R149 gives: 64-bit formats fill a pair. -/
def fill (f : Fmt) (v : Nat) : Nat :=
  match f with
  | .i8 | .i16 | .q8 | .q4 | .q3 => wrap (signExt v f.width) 32
  | f => v % 2 ^ f.width

/-- An integer as a register value of format f (R149, R153). -/
def ofInt (f : Fmt) (x : Int) : Nat := fill f (wrap x f.width)

/-- CVT: integer and weight formats (R159, R329). -/
def cvt (dt st : Fmt) (sat : Bool) (v : Nat) : Nat :=
  let x := toInt st v
  ofInt dt (if sat then clamp dt x else x)

/-- CVTF: a floating end (R330, R157, R158). -/
def cvtf (dt st : Fmt) (sat : Bool) (v : Nat) : Nat :=
  if dt.isFloat then toFloat dt sat (value st v)
  else ofInt dt (toIntFmt dt (value st v))

/-! ### Exact arithmetic on values -/

/-- A signed magnitude. -/
def sgn (s : Bool) (m : Nat) : Int := if s then -(m : Int) else m

/-- The exact sum, with the zero rule of R160. -/
def addFV : FV → FV → FV
  | .nan, _ | _, .nan => .nan
  | .inf a, .inf b => if a = b then .inf a else .nan
  | .inf a, _ | _, .inf a => .inf a
  | .fin s m e, .fin t n d =>
    let u := min e d
    let x := sgn s m * 2 ^ (e - u).toNat + sgn t n * 2 ^ (d - u).toNat
    if x = 0 then .fin (s && t) 0 u else .fin (x < 0) x.natAbs u

/-- The negated value. -/
def negFV : FV → FV
  | .nan => .nan
  | .inf s => .inf (!s)
  | .fin s m e => .fin (!s) m e

/-- The exact product (R160, R163). -/
def mulFV : FV → FV → FV
  | .nan, _ | _, .nan => .nan
  | .inf a, .inf b => .inf (a != b)
  | .inf a, .fin t n _ | .fin t n _, .inf a => if n = 0 then .nan else .inf (a != t)
  | .fin s m e, .fin t n d => .fin (s != t) (m * n) (e + d)

/-- a < b for values that are not NaN; the zeros are equal. -/
def ltFV : FV → FV → Bool
  | .nan, _ | _, .nan => false
  | .inf a, .inf b => a && !b
  | .inf a, _ => a
  | _, .inf b => !b
  | .fin s m e, .fin t n d =>
    let u := min e d
    decide (sgn s m * 2 ^ (e - u).toNat < sgn t n * 2 ^ (d - u).toNat)

/-- a = b for values that are not NaN; the zeros are equal. -/
def eqFV (a b : FV) : Bool := a != .nan && b != .nan && !ltFV a b && !ltFV b a

/-- Round to nearest even in format f, without saturation (R160). -/
def rne (f : Fmt) (v : FV) : Nat := toFloatBy false f false v

/-- FADD (R336). -/
def fadd (f : Fmt) (a b : Nat) : Nat := rne f (addFV (ofFloat f a) (ofFloat f b))
/-- FSUB (R336). -/
def fsub (f : Fmt) (a b : Nat) : Nat := rne f (addFV (ofFloat f a) (negFV (ofFloat f b)))
/-- FMUL (R336). -/
def fmul (f : Fmt) (a b : Nat) : Nat := rne f (mulFV (ofFloat f a) (ofFloat f b))
/-- FFMA (R336). -/
def ffma (f : Fmt) (a b c : Nat) : Nat := rne f (addFV (mulFV (ofFloat f a) (ofFloat f b)) (ofFloat f c))

/-- The value is negative, or -0. -/
def isNeg : FV → Bool
  | .nan => false
  | .inf s => s
  | .fin s _ _ => s

/-- a ranks below b for FMIN and FMAX: −0 lies below +0 (R342). -/
def ranksBelow (a b : FV) : Bool := ltFV a b || (eqFV a b && isNeg a && !isNeg b)

/-- FMIN (R342). -/
def fmin (f : Fmt) (a b : Nat) : Nat :=
  let x := ofFloat f a
  let y := ofFloat f b
  if x = .nan ∨ y = .nan then canonicalNaN f
  else if ranksBelow y x then b % 2 ^ f.width else a % 2 ^ f.width
/-- FMAX (R342). -/
def fmax (f : Fmt) (a b : Nat) : Nat :=
  let x := ofFloat f a
  let y := ofFloat f b
  if x = .nan ∨ y = .nan then canonicalNaN f
  else if ranksBelow x y then b % 2 ^ f.width else a % 2 ^ f.width

/-- FABS (R335). -/
def fabs (f : Fmt) (a : Nat) : Nat := if ofFloat f a = .nan then canonicalNaN f else a % signBit f
/-- FNEG (R335). -/
def fneg (f : Fmt) (a : Nat) : Nat :=
  if ofFloat f a = .nan then canonicalNaN f
  else if natBit a (f.width - 1) then a % signBit f else a % signBit f + signBit f

/-- FCLASS: the bit that is set (R337). -/
def fclassBit (f : Fmt) (a : Nat) : Nat :=
  match ofFloat f a with
  | .nan => 8
  | .inf s => if s then 0 else 7
  | .fin s m _ =>
    if m = 0 then (if s then 3 else 4)
    else if natBits a (f.width - 2) (mbits f) = 0 then (if s then 2 else 5)
    else if s then 1 else 6

/-- The floor of the square root, bit by bit from bit `n - 1`. -/
def isqrt : Nat → Nat → Nat
  | 0, _ => 0
  | n + 1, x =>
    let hi := isqrt n (x / 4) * 2
    if (hi + 1) * (hi + 1) ≤ x then hi + 1 else hi

/-- FSQRT, correctly rounded (R160, R339). -/
def fsqrt (a : Nat) : Nat :=
  match ofFloat .f32 a with
  | .nan => canonicalNaN .f32
  | .inf s => if s then canonicalNaN .f32 else infCode .f32
  | .fin s m e =>
    if m = 0 then withSign .f32 s 0
    else if s then canonicalNaN .f32
    else
      let k : Nat := if e % 2 = 0 then 100 else 101
      let x := m * 2 ^ k
      let q := isqrt 128 x
      rne .f32 (.fin false (2 * q + (if q * q = x then 0 else 1)) ((e - k) / 2 - 1))

/-- Two packed halves (R401). -/
def packed (f : Nat → Nat → Nat → Nat) (a b c : Nat) : Nat :=
  f (a % 65536) (b % 65536) (c % 65536) + 65536 * f (a / 65536 % 65536) (b / 65536 % 65536) (c / 65536 % 65536)

/-- Combination of an atomic, reduction or combining copy on format f (R316, R198, R404); floating and, or and xor do not occur. -/
def combine (op : RedOp) (f : Fmt) (old v : Nat) : Nat :=
  let w := f.width
  match op with
  | .exch => v % 2 ^ w
  | .and => Nat.land (old % 2 ^ w) (v % 2 ^ w)
  | .or => Nat.lor (old % 2 ^ w) (v % 2 ^ w)
  | .xor => Nat.xor (old % 2 ^ w) (v % 2 ^ w)
  | .add => if f.isFloat then fadd f old v else (old + v) % 2 ^ w
  | .min => if f.isFloat then fmin f old v else if toInt f v < toInt f old then v % 2 ^ w else old % 2 ^ w
  | .max => if f.isFloat then fmax f old v else if toInt f old < toInt f v then v % 2 ^ w else old % 2 ^ w

/-- The identity of R59 for WRED and WSCAN; +0 for a floating sum (R404). -/
def identity (op : RedOp) (f : Fmt) : Nat :=
  match op with
  | .add | .or | .xor | .exch => 0
  | .and => 2 ^ f.width - 1
  | .min => if f.isFloat then infCode f else wrap (highest f) f.width
  | .max => if f.isFloat then withSign f true (infCode f) else wrap (lowest f) f.width

end Sys2Proof.Num
end

