-- ==== Sys2Proof/Machine/Flags.lean ====
section
/-! DEFINITION. Relations written by the compares (17_reference_d_l.md R338, R347) and the integer results of the register
instructions (16 to 19), as pure functions on register values. -/
namespace Sys2Proof.Flags

/-- The relations of a compare: equal, less, greater, unordered. -/
structure Rel where
  eq : Bool
  lt : Bool
  gt : Bool
  un : Bool
  deriving DecidableEq, Repr

/-- ICMP: signed or natural order of the type (R347). -/
def icmp (ty : Fmt) (a b : Nat) : Rel :=
  { eq := Num.toInt ty a == Num.toInt ty b, lt := Num.toInt ty a < Num.toInt ty b, gt := Num.toInt ty b < Num.toInt ty a, un := false }

/-- FCMP: the four IEEE relations (R338). -/
def fcmp (ty : Fmt) (a b : Nat) : Rel :=
  let x := Num.ofFloat ty a
  let y := Num.ofFloat ty b
  { eq := Num.eqFV x y, lt := Num.ltFV x y, gt := Num.ltFV y x, un := x == .nan || y == .nan }

/-- The mask an ICMP or FCMP writes to a register. -/
def Rel.mask (r : Rel) : Nat :=
  (if r.eq then 1 else 0) + (if r.lt then 2 else 0) + (if r.gt then 4 else 0) + (if r.un then 8 else 0)

end Sys2Proof.Flags

namespace Sys2Proof.Alu
open Sys2Proof

/-- IADD, ISUB, IMUL, IMAD (R346). -/
def add (w a b : Nat) : Nat := wrap ((a : Int) + b) w
/-- ISUB (R346). -/
def sub (w a b : Nat) : Nat := wrap ((a : Int) - b) w
/-- IMUL (R346). -/
def mul (w a b : Nat) : Nat := wrap ((a : Int) * b) w
/-- IMAD (R346). -/
def mad (w a b c : Nat) : Nat := wrap ((a : Int) * b + c) w
/-- IMIN (R348). -/
def min (ty : Fmt) (a b : Nat) : Nat := if Num.toInt ty b < Num.toInt ty a then b else a
/-- IMAX (R348). -/
def max (ty : Fmt) (a b : Nat) : Nat := if Num.toInt ty a < Num.toInt ty b then b else a
/-- IABS (R345). -/
def abs (w a : Nat) : Nat := wrap (signExt a w).natAbs w
/-- NOT (R362). -/
def not (w a : Nat) : Nat := wrap ((2 ^ w : Nat) - 1 - a) w
/-- SHL (R377): no modulus on the count. -/
def shl (w a k : Nat) : Nat := if k ≥ w then 0 else (a * 2 ^ k) % 2 ^ w
/-- SHR (R377): arithmetic for .i types, logical for .n types. -/
def shr (ty : Fmt) (w a k : Nat) : Nat := wrap (Num.toInt ty a / (2 ^ Nat.min k w : Nat)) w
/-- ROT (R373). -/
def rot (w a k : Nat) : Nat := (a * 2 ^ (k % w)) % 2 ^ w + (a >>> (w - k % w))
/-- BFX (R319); pos and len are bits 7:0 and 15:8 of the control word. -/
def bfx (ty : Fmt) (w a ctl : Nat) : Nat :=
  let pos := ctl % 256
  let len := ctl / 256 % 256
  if len = 0 then 0
  else
    let f := ((Num.toInt ty a / (2 ^ pos : Nat)) % (2 ^ len : Nat)).toNat
    wrap (if ty.isSigned then signExt f len else f) w
/-- BFI (R318). -/
def bfi (w a b ctl : Nat) : Nat :=
  let pos := ctl % 256
  let len := ctl / 256 % 256
  let m := ((2 ^ len - 1) * 2 ^ pos) % 2 ^ w
  (b - Nat.land b m) + Nat.land ((a * 2 ^ pos) % 2 ^ w) m
/-- POPC (R367). -/
def popc (w a : Nat) : Nat := popCount a w
/-- CLZ (R326). -/
def clz (w a : Nat) : Nat := if a = 0 then w else w - 1 - Nat.log2 a
/-- The low n bits reversed (R321). -/
def brev : Nat → Nat → Nat
  | 0, _ => 0
  | n + 1, a => (a % 2) * 2 ^ n + brev n (a / 2)
/-- LEA (R356): the index is read by the type's sign, and only bits 5:0 of the shift are read. -/
def lea (ty : Fmt) (w a b s : Nat) : Nat :=
  wrap ((a : Int) + (if ty.isSigned then signExt b 32 else (b : Int)) * (2 ^ (s % 64) : Nat)) w
/-- An immediate widened to the type (R309). -/
def widen (ty : Fmt) (imm : W32) : Nat :=
  if ty.is64 && ty.isSigned then wrap (signExt imm.toNat 32) 64 else imm.toNat

end Sys2Proof.Alu
end

