-- ==== Sys2Proof/Config.lean ====
section
/-! DEFINITION. The values the spec leaves open: each is an opaque constant that nothing in Lean can evaluate. A statement
about one holds for every value of it (notes/assumptions/4.md, 7.md, 8.md, 9.md). -/
namespace Sys2Proof
namespace Config

/-- The n-th free number: a latency, or which of several permitted events comes first (04_memory_hierarchy.md R108,
08_tensor_engines.md R179, 09_copies_and_channels.md R193; log 4). DESIGN CHOICE: the spec gives no value. -/
opaque freeNat : Nat → Nat
/-- The n-th launch identity (03_work_scheduling.md R75: assigned by the device; log 9). DESIGN CHOICE. -/
opaque launchId : Nat → W32
/-- FRCP outside its exact and special cases (17_reference_d_l.md R339; log 7). DESIGN CHOICE: only the error bound is given. -/
opaque frcp : W32 → W32
/-- FRSQ outside its exact and special cases (R339; log 7). DESIGN CHOICE. -/
opaque frsq : W32 → W32
/-- FEXP2 outside its exact and special cases (R339; log 7). DESIGN CHOICE. -/
opaque fexp2 : W32 → W32
/-- FLOG2 outside its exact and special cases (R339; log 7). DESIGN CHOICE. -/
opaque flog2 : W32 → W32
/-- FSIN outside its exact and special cases (R339; log 7). DESIGN CHOICE. -/
opaque fsin : W32 → W32
/-- FCOS outside its exact and special cases (R339; log 7). DESIGN CHOICE. -/
opaque fcos : W32 → W32
/-- Byte n of a device-private block (11_traps_and_preemption.md Table 11.8, 14_determinism_and_debug.md R281; log 8).
DESIGN CHOICE: the spec does not give the layout. -/
opaque privateByte : Nat → Byte
/-- Byte n, past the index, of the signature of a message (13_host_and_system.md R266; log 8). DESIGN CHOICE. -/
opaque signatureByte : List Byte → Nat → Byte
/-- Byte n of the firmware digest and of the part's identity (13_host_and_system.md R263, R266; log 8). DESIGN CHOICE. -/
opaque digestByte : Nat → Byte
/-- The n-th lost or damaged flit, and other outcomes of the world outside (10_halyard_collectives.md R203; log 4). -/
opaque freeBool : Nat → Bool
/-- The number of the configuration register that holds MSI-X Message Control (13_host_and_system.md R256, R262; log 12). DESIGN CHOICE:
the spec does not place the capability. -/
opaque msixCap : Nat
/-- The length of section i of an image in bytes, before it is bounded by the image's end (14_determinism_and_debug.md Table 14.9; log 8).
DESIGN CHOICE: the spec gives no lengths. -/
opaque sectionLen : Nat → Nat
/-- The reference-clock steps that die-to-die boundary n trains for (01_device_overview.md R26; log 44). DESIGN CHOICE: the spec gives no time. -/
opaque trainSteps : Nat → Nat

end Config
end Sys2Proof
end

