-- ==== Sys2Proof/Decode.lean ====
section
/-! DEFINITION. The decoder and the encoder of instruction words (15_instruction_formats.md R289 to R302, and the encoding
tables of each entry). `decode` makes the static checks of R290 in their order and rejects by name. -/
namespace Sys2Proof

/-- The static failures of R290, each with its cause code. -/
inductive DecodeError where
  /-- GRD = 1111b (step 2). -/
  | guard
  /-- OPC not assigned (step 4). -/
  | opcode
  /-- A nonzero res0 bit (step 5). -/
  | res0
  /-- An ill-formed field (step 6). -/
  | field
  /-- A breach of the PBLK rules (step 7). -/
  | pblk
  /-- A reserved operand code (step 8). -/
  | reserved
  /-- An operand of a kind the field does not accept (step 9). -/
  | operand
  deriving DecidableEq, Repr

/-- The cause code of a static failure (R290). -/
def DecodeError.code : DecodeError → Nat
  | .guard => 0x001 | .opcode => 0x000 | .res0 => 0x002 | .field => 0x003 | .pblk => 0x004 | .reserved => 0x020
  | .operand => 0x021

/-- The fields that every format shares (Table 15.1), and X. -/
structure Raw where
  opc : BitVec 10
  grd : BitVec 4
  la : BitVec 4
  yh : BitVec 1
  rh : BitVec 2
  z : BitVec 1
  d : BitVec 10
  a : BitVec 10
  b : BitVec 10
  x : BitVec 44
  deriving DecidableEq, Repr

/-- The fields of a word (Table 15.1). -/
def Raw.ofWord (w : IWord) : Raw :=
  { opc := w.extractLsb' 86 10, grd := w.extractLsb' 82 4, la := w.extractLsb' 78 4, yh := w.extractLsb' 77 1
    rh := w.extractLsb' 75 2, z := w.extractLsb' 74 1, d := w.extractLsb' 64 10, a := w.extractLsb' 54 10
    b := w.extractLsb' 44 10, x := w.extractLsb' 0 44 }

/-- The word of its fields (Table 15.1). -/
def Raw.toWord (r : Raw) : IWord :=
  r.opc ++ r.grd ++ r.la ++ r.yh ++ r.rh ++ r.z ++ r.d ++ r.a ++ r.b ++ r.x

/-! ### Codes of the operand map and of the field values -/

namespace SReg
/-- The special registers in code order from 0C0h (Table 15.3). -/
def all : List SReg :=
  [.lane, .quad, .slot, .warp, .nwarps, .tid, .grpx, .grpy, .grpz, .gridx, .gridy, .gridz, .stage, .nstages, .core, .die,
   .cycle, .cycleh, .path, .live, .wstat, .privhwm, .sstep, .rprog, .tcause, .tepcl, .tepch, .taddrl, .taddrh, .rgnctr,
   .rgnpcl, .rgnpch, .pnpendl, .pnpendh, .pwrstep]
/-- The code of a special register (Table 15.3). -/
def code : SReg → Nat
  | lane => 0xC0 | quad => 0xC1 | slot => 0xC2 | warp => 0xC3 | nwarps => 0xC4 | tid => 0xC5 | grpx => 0xC6 | grpy => 0xC7
  | grpz => 0xC8 | gridx => 0xC9 | gridy => 0xCA | gridz => 0xCB | stage => 0xCC | nstages => 0xCD | core => 0xCE | die => 0xCF
  | cycle => 0xD0 | cycleh => 0xD1 | path => 0xD2 | live => 0xD3 | wstat => 0xD4 | privhwm => 0xD5 | sstep => 0xD6
  | rprog => 0xD7 | tcause => 0xD8 | tepcl => 0xD9 | tepch => 0xDA | taddrl => 0xDB | taddrh => 0xDC | rgnctr => 0xDD
  | rgnpcl => 0xDE | rgnpch => 0xDF | pnpendl => 0xE0 | pnpendh => 0xE1 | pwrstep => 0xE2
end SReg

namespace Opd
/-- The operand that a code names (R296, R297). -/
def ofCode (c : BitVec 10) : Opd :=
  let n := c.toNat
  if n < 0x80 then .g (Fin.ofNat 128 n)
  else if n < 0xC0 then .k (Fin.ofNat 64 (n - 0x80))
  else if n < 0xE3 then .s (SReg.all.getD (n - 0xC0) .lane)
  else if n < 0x100 then .bad c
  else if n < 0x140 then .h (Fin.ofNat 64 (n - 0x100))
  else if n < 0x144 then .acc (Fin.ofNat 4 (n - 0x140))
  else if n < 0x148 then .bad c
  else if n < 0x150 then .p (Fin.ofNat 8 (n - 0x148))
  else if n < 0x160 then .ch (Fin.ofNat 16 (n - 0x150))
  else if n < 0x180 then .nb (Fin.ofNat 32 (n - 0x160))
  else if n < 0x3FF then .bad c
  else .zero
/-- The code of an operand (R296). -/
def toCode : Opd → BitVec 10
  | g n => BitVec.ofNat 10 n.val
  | k n => BitVec.ofNat 10 (0x80 + n.val)
  | s r => BitVec.ofNat 10 r.code
  | h n => BitVec.ofNat 10 (0x100 + n.val)
  | acc n => BitVec.ofNat 10 (0x140 + n.val)
  | p n => BitVec.ofNat 10 (0x148 + n.val)
  | ch n => BitVec.ofNat 10 (0x150 + n.val)
  | nb n => BitVec.ofNat 10 (0x160 + n.val)
  | zero => 0x3FF#10
  | bad c => c
end Opd

/-- Format codes (R148). -/
def Fmt.ofCode (c : BitVec 4) : Fmt :=
  ([.i8, .i16, .i32, .i64, .n8, .n16, .n32, .n64, .f32, .f16, .bf16, .e4m3, .e5m2, .q4, .q3, .q8] : List Fmt).getD c.toNat .i8
/-- The format code as a field. -/
def Fmt.field (f : Fmt) : BitVec 4 := BitVec.ofNat 4 f.code
/-- Space codes (R86). -/
def Space.ofCode (c : BitVec 2) : Space :=
  match c.toNat with | 0 => .virt | 1 => .scr | 2 => .vlt | _ => .prv
/-- The space code as a field. -/
def Space.field : Space → BitVec 2 | .virt => 0 | .scr => 1 | .vlt => 2 | .prv => 3
/-- Scope codes (R112); 101b to 111b are reserved. -/
def Scope.ofCode (c : BitVec 3) : Option Scope :=
  match c.toNat with | 0 => some .grp | 1 => some .core | 2 => some .die | 3 => some .pkg | 4 => some .sys | _ => none
/-- The scope code as a field. -/
def Scope.field : Scope → BitVec 3 | .grp => 0 | .core => 1 | .die => 2 | .pkg => 3 | .sys => 4
/-- Order codes (R113). -/
def Order.ofCode (c : BitVec 2) : Order :=
  match c.toNat with | 0 => .none | 1 => .acq | 2 => .rel | _ => .ar
/-- The order code as a field. -/
def Order.field : Order → BitVec 2 | .none => 0 | .acq => 1 | .rel => 2 | .ar => 3
/-- Access size codes (Table 15.2). -/
def Size.ofCode (c : BitVec 3) : Option Size :=
  match c.toNat with | 0 => some .b1 | 1 => some .b2 | 2 => some .b4 | 3 => some .b8 | 4 => some .b16 | _ => none
/-- The size code as a field. -/
def Size.field : Size → BitVec 3 | .b1 => 0 | .b2 => 1 | .b4 => 2 | .b8 => 3 | .b16 => 4
/-- Operation codes of R316 and R403. -/
def RedOp.ofCode (n : Nat) : Option RedOp :=
  match n with
  | 0 => some .add | 1 => some .min | 2 => some .max | 3 => some .and | 4 => some .or | 5 => some .xor | 6 => some .exch
  | _ => none
/-- The operation code. -/
def RedOp.code : RedOp → Nat | .add => 0 | .min => 1 | .max => 2 | .and => 3 | .or => 4 | .xor => 5 | .exch => 6
/-- One bit as a field. -/
def bit1 (b : Bool) : BitVec 1 := if b then 1 else 0

namespace Raw
/-- Bits hi:lo of X. -/
def xf (r : Raw) (lo len : Nat) : BitVec len := r.x.extractLsb' lo len
/-- One bit of X. -/
def xb (r : Raw) (i : Nat) : Bool := r.x.getLsbD i
/-- The shared issue fields. -/
def hdr (r : Raw) : Hdr :=
  { grd := { neg := r.grd.getLsbD 3, p := Fin.ofNat 8 (r.grd.extractLsb' 0 3).toNat }, la := r.la, yh := r.yh == 1#1, rh := r.rh }
/-- Operand D. -/
def dO (r : Raw) : Opd := .ofCode r.d
/-- Operand A. -/
def aO (r : Raw) : Opd := .ofCode r.a
/-- Operand B. -/
def bO (r : Raw) : Opd := .ofCode r.b
/-- Operand C of FA (X 43:34). -/
def cO (r : Raw) : Opd := .ofCode (r.xf 34 10)
/-- TYPE of FA and the format of FM (X 27:24). -/
def ty (r : Raw) : Fmt := .ofCode (r.xf 24 4)
/-- TYPE of FI (X 43:40). -/
def tyI (r : Raw) : Fmt := .ofCode (r.xf 40 4)
/-- IMM of FI and OFF of FB (X 31:0). -/
def imm (r : Raw) : W32 := r.xf 0 32
/-- SIZE of FM. -/
def size (r : Raw) : Option Size := Size.ofCode (r.xf 41 3)
/-- SPACE of FM. -/
def sp (r : Raw) : Space := .ofCode (r.xf 39 2)
/-- SCOPE of FM. -/
def sc (r : Raw) : Option Scope := Scope.ofCode (r.xf 36 3)
/-- ORDER of FM. -/
def ord (r : Raw) : Order := .ofCode (r.xf 34 2)
/-- OFF of FM. -/
def off (r : Raw) : BitVec 24 := r.xf 0 24
/-- The FM address operand. -/
def addr (r : Raw) : AddrOps := { sp := r.sp, off := r.off, a := r.aO }
/-- TX of FT. -/
def tx (r : Raw) : BitVec 10 := r.xf 34 10
/-- SCOPE of FT. -/
def scT (r : Raw) : Option Scope := Scope.ofCode (r.xf 31 3)
/-- The flags of Table 8.3. -/
def flags (r : Raw) : Option EFlags :=
  match r.scT with
  | some sc => some { sc := sc, acq := r.xb 30, rel := r.xb 29, it := r.xb 28 }
  | none => none
end Raw

/-! ### The opcode map -/

/-- The six formats (R294). -/
inductive WFmt where | fa | fi | fm | fb | ft | fp
  deriving DecidableEq, Repr

/-- One opcode: its format, the fields that must be 3FFh, its res0 bits of X, and the instruction its fields make; `none` is
an ill-formed field (step 6). -/
structure Form where
  fmt : WFmt
  zd : Bool := false
  za : Bool := false
  zb : Bool := false
  zc : Bool := false
  res0 : Raw → BitVec 44
  build : Raw → Option Instr

namespace Form
/-- FA with two sources and the modifier fields of Table 16.1 or 17.1. -/
def bin (k : Hdr → Bin → Instr) : Form :=
  { fmt := .fa, zc := true, res0 := fun _ => 0x3F0FFFFFF#44, build := fun r => some (k r.hdr ⟨r.ty, r.dO, r.aO, r.bO⟩) }
/-- FI with one register source and IMM. -/
def binI (k : Hdr → BinI → Instr) : Form :=
  { fmt := .fi, zb := true, res0 := fun _ => 0xFF00000000#44, build := fun r => some (k r.hdr ⟨r.tyI, r.dO, r.aO, r.imm⟩) }
/-- FA with three sources. -/
def tri (k : Hdr → Tri → Instr) : Form :=
  { fmt := .fa, res0 := fun _ => 0x3F0FFFFFF#44, build := fun r => some (k r.hdr ⟨r.ty, r.dO, r.aO, r.bO, r.cO⟩) }
/-- FI with two register sources and IMM. -/
def triI (k : Hdr → TriI → Instr) : Form :=
  { fmt := .fi, res0 := fun _ => 0xFF00000000#44, build := fun r => some (k r.hdr ⟨r.tyI, r.dO, r.aO, r.bO, r.imm⟩) }
/-- FA with one source. -/
def un (k : Hdr → Un → Instr) : Form :=
  { fmt := .fa, zb := true, zc := true, res0 := fun _ => 0x3F0FFFFFF#44, build := fun r => some (k r.hdr ⟨r.ty, r.dO, r.aO⟩) }
/-- CVT and CVTF (R329, R330). -/
def conv (k : Hdr → Conv → Instr) : Form :=
  { fmt := .fa, zb := true, zc := true, res0 := fun _ => 0x3007FFFFF#44
    build := fun r => some (k r.hdr ⟨r.ty, .ofCode (r.xf 28 4), r.xb 23, r.dO, r.aO⟩) }
/-- FA with no operand. -/
def fa0 (k : Hdr → Instr) : Form :=
  { fmt := .fa, zd := true, za := true, zb := true, zc := true, res0 := fun _ => 0x3FFFFFFFF#44, build := fun r => some (k r.hdr) }
/-- FI with IMM and no operand. -/
def fi0 (k : Hdr → W32 → Instr) : Form :=
  { fmt := .fi, zd := true, za := true, zb := true, res0 := fun _ => 0xFFF00000000#44, build := fun r => some (k r.hdr r.imm) }
/-- FI with D and IMM. -/
def fiD (k : Hdr → Opd → W32 → Instr) : Form :=
  { fmt := .fi, za := true, zb := true, res0 := fun _ => 0xFFF00000000#44, build := fun r => some (k r.hdr r.dO r.imm) }
/-- FB with an offset (R295). -/
def fb0 (k : Hdr → W32 → Instr) : Form :=
  { fmt := .fb, zd := true, za := true, zb := true, res0 := fun _ => 0xFFF00000000#44, build := fun r => some (k r.hdr r.imm) }
/-- FA with A alone. -/
def faA (k : Hdr → Opd → Instr) : Form :=
  { fmt := .fa, zd := true, zb := true, zc := true, res0 := fun _ => 0x3FFFFFFFF#44, build := fun r => some (k r.hdr r.aO) }
/-- LD and LDACQ (R353). -/
def ldF (k : Hdr → LdOps → Instr) : Form :=
  { fmt := .fm, zb := true, res0 := fun _ => 0x3F0000000#44
    build := fun r => do
      let size ← r.size
      let sc ← r.sc
      if r.ord != .none then none else some (k r.hdr ⟨r.addr, size, r.ty, sc, r.dO⟩) }
/-- ST and STREL (R384). -/
def stF (k : Hdr → StOps → Instr) : Form :=
  { fmt := .fm, zd := true, res0 := fun _ => 0x3F0000000#44
    build := fun r => do
      let size ← r.size
      let sc ← r.sc
      if r.ord != .none then none else some (k r.hdr ⟨r.addr, size, r.ty, sc, r.bO⟩) }
/-- SIZE, SPACE, SCOPE and ORDER all zero (R357, R364, R368, R400). -/
def plainFM (r : Raw) : Bool := r.size == some .b1 && r.sp == .virt && r.sc == some .grp && r.ord == .none
/-- FLUSH and INVAL (R341). -/
def rangeF (k : Hdr → RangeOps → Instr) : Form :=
  { fmt := .fm, zd := true, res0 := fun _ => 0x3FF000000#44
    build := fun r =>
      if r.size == some .b1 && r.sp == .virt && r.ord == .none && (r.sc == some .pkg || r.sc == some .sys) then
        some (k r.hdr ⟨r.sc == some .sys, r.off, r.aO, r.bO⟩)
      else none }
/-- PINW and UNPINW (R364, R400). -/
def pinF (k : Hdr → PinOps → Instr) : Form :=
  { fmt := .fm, res0 := fun _ => 0x3FF000000#44
    build := fun r => if plainFM r then some (k r.hdr ⟨r.off, r.dO, r.aO, r.bO⟩) else none }
/-- ATOM and RED (R316, R369). -/
def atomF (k : Hdr → AtomOps → Instr) : Form :=
  { fmt := .fm, res0 := fun _ => 0x300000000#44
    build := fun r => do
      let size ← r.size
      let sc ← r.sc
      let op ← RedOp.ofCode (r.xf 28 4).toNat
      some (k r.hdr ⟨op, size, r.ty, r.addr, r.ord, sc, r.dO, r.bO⟩) }
/-- SPAWN, JOINDEC and LAUNCH (R84). -/
def schedF (k : Hdr → Opd → Opd → BitVec 24 → Instr) : Form :=
  { fmt := .fm, zb := true, res0 := fun _ => 0xFFFFF000000#44, build := fun r => some (k r.hdr r.dO r.aO r.off) }
/-- FT with a scope and A (R145). -/
def scopeF (k : Hdr → Scope → Opd → Instr) : Form :=
  { fmt := .ft, zd := true, zb := true, res0 := fun _ => 0xFFC7FFFFFFF#44
    build := fun r => match r.scT with | some sc => some (k r.hdr sc r.aO) | none => none }
/-- FT with TX and A (R174). -/
def txF (k : Hdr → BitVec 10 → Opd → Instr) : Form :=
  { fmt := .ft, zd := true, zb := true, res0 := fun _ => 0x3FFFFFFFF#44, build := fun r => some (k r.hdr r.tx r.aO) }
/-- FT with D and A and no X field (R207, R398, R399). -/
def ftDA (k : Hdr → Opd → Opd → Instr) : Form :=
  { fmt := .ft, zb := true, res0 := fun _ => 0xFFFFFFFFFFF#44, build := fun r => some (k r.hdr r.dO r.aO) }
/-- The tile instructions of Table 8.3 (R389). -/
def tileF (zd zb : Bool) (res0 : BitVec 44) (k : Hdr → TileOps → Instr) : Form :=
  { fmt := .ft, zd := zd, zb := zb, res0 := fun _ => res0
    build := fun r => match r.flags with
      | some fl => some (k r.hdr ⟨r.tx, fl, r.ty, r.xb 23, r.dO, r.aO, r.bO⟩)
      | none => none }
/-- WRED and WSCAN (R403). -/
def wredF (res0 : BitVec 44) (k : Hdr → WredOps → Instr) : Form :=
  { fmt := .fa, zb := true, res0 := fun _ => res0
    build := fun r => match RedOp.ofCode (r.xf 28 4).toNat with
      | some op => some (k r.hdr ⟨op, r.ty, r.dO, r.aO, r.cO, r.xb 23⟩)
      | none => none }
/-- CMWAIT and CMTEST (R199). -/
def cmF (k : Hdr → CmOps → Instr) : Form :=
  { fmt := .fa, res0 := fun _ => 0x3FFFFFFFF#44, build := fun r => some (k r.hdr ⟨r.dO, r.aO, r.bO, r.cO⟩) }
/-- FA with D, A and B and no modifier. -/
def faDAB (k : Hdr → Opd → Opd → Opd → Instr) : Form :=
  { fmt := .fa, zc := true, res0 := fun _ => 0x3FFFFFFFF#44, build := fun r => some (k r.hdr r.dO r.aO r.bO) }
/-- FA with D and A and no modifier. -/
def faDA (k : Hdr → Opd → Opd → Instr) : Form :=
  { fmt := .fa, zb := true, zc := true, res0 := fun _ => 0x3FFFFFFFF#44, build := fun r => some (k r.hdr r.dO r.aO) }
/-- FA with D alone. -/
def faD (k : Hdr → Opd → Instr) : Form :=
  { fmt := .fa, za := true, zb := true, zc := true, res0 := fun _ => 0x3FFFFFFFF#44, build := fun r => some (k r.hdr r.dO) }
/-- SRD and SWR (R380): N 23:10 are res0 in the .thr space. -/
def sysF (zd za : Bool) (k : Hdr → SysOps → Instr) (reg : Raw → Opd) : Form :=
  { fmt := .fa, zd := zd, za := za, zc := true
    res0 := fun r => if r.xf 32 2 == 2#2 then 0xFFFFFC00#44 else 0xFF000000#44
    build := fun r =>
      match (r.xf 32 2).toNat with
      | 0 => some (k r.hdr ⟨.ctx, r.off, reg r, r.bO⟩)
      | 1 => some (k r.hdr ⟨.bar, r.off, reg r, r.bO⟩)
      | 2 => some (k r.hdr ⟨.thr, r.off, reg r, r.bO⟩)
      | _ => none }
/-- VOTE modes (R402). -/
def voteMode (n : Nat) : Option VoteMode :=
  match n with | 0 => some .any | 1 => some .all | 2 => some .ballot | _ => none
/-- SHFL modes (R376). -/
def shflMode (n : Nat) : ShflMode :=
  match n with | 0 => .idx | 1 => .up | 2 => .down | _ => .xor
end Form

/-- Integer opcodes (Table 15.4, 000h to 03Ch). -/
def opcodesInt : List (Nat × Form) :=
  [(0x000, .bin .iadd), (0x001, .bin .isub), (0x002, .bin .imul), (0x003, .tri .imad), (0x004, .bin .imin),
   (0x005, .bin .imax), (0x006, .un .iabs), (0x008, .bin .and), (0x009, .bin .or), (0x00A, .bin .xor), (0x00B, .un .not),
   (0x00C, .bin .shl), (0x00D, .bin .shr), (0x00E, .bin .rot), (0x010, .bin .bfx), (0x011, .tri .bfi), (0x012, .un .popc),
   (0x013, .un .clz), (0x014, .un .brev), (0x018, .bin .icmp), (0x019, .tri .sel), (0x01A, .tri .lea), (0x01C, .un .mov),
   (0x01E, .conv .cvt)]
/-- Immediate forms of the integer opcodes. -/
def opcodesIntImm : List (Nat × Form) :=
  [(0x020, .binI .iaddImm), (0x021, .binI .isubImm), (0x022, .binI .imulImm), (0x023, .triI .imadImm),
   (0x024, .binI .iminImm), (0x025, .binI .imaxImm), (0x028, .binI .andImm), (0x029, .binI .orImm), (0x02A, .binI .xorImm),
   (0x02C, .binI .shlImm), (0x02D, .binI .shrImm), (0x02E, .binI .rotImm), (0x030, .binI .bfxImm), (0x031, .triI .bfiImm),
   (0x038, .binI .icmpImm), (0x039, .triI .selImm), (0x03A, .triI .leaImm),
   (0x03C, { fmt := .fi, za := true, zb := true, res0 := fun _ => 0xFF00000000#44
             build := fun r => some (.movi r.hdr ⟨r.tyI, r.dO, r.imm⟩) })]
/-- Floating opcodes (040h to 072h). -/
def opcodesFloat : List (Nat × Form) :=
  [(0x040, .bin .fadd), (0x041, .bin .fsub), (0x042, .bin .fmul), (0x043, .tri .ffma), (0x044, .bin .fmin),
   (0x045, .bin .fmax), (0x046, .un .fabs), (0x047, .un .fneg), (0x048, .bin .fcmp), (0x049, .un .fclass),
   (0x04A, .conv .cvtf), (0x050, .un .frcp), (0x051, .un .frsq), (0x052, .un .fsqrt), (0x053, .un .fexp2),
   (0x054, .un .flog2), (0x055, .un .fsin), (0x056, .un .fcos), (0x060, .binI .faddImm), (0x061, .binI .fsubImm),
   (0x062, .binI .fmulImm), (0x063, .triI .ffmaImm), (0x064, .binI .fminImm), (0x065, .binI .fmaxImm),
   (0x068, .binI .fcmpImm), (0x070, .bin .vadd2), (0x071, .bin .vmul2), (0x072, .tri .vfma2)]
/-- Predicate and control opcodes (078h to 08Ch) and the warp-wide ones. -/
def opcodesControl : List (Nat × Form) :=
  [(0x078, { fmt := .fa, zc := true, res0 := fun _ => 0x3FFFFFFF0#44
             build := fun r => some (.plop r.hdr ⟨r.xf 0 4, r.dO, r.aO, r.bO⟩) }),
   (0x07F, { fmt := .fp, za := true, zb := true, res0 := fun _ => 0x1FFFFFFFF#44
             build := fun r => some (.pblk r.hdr ⟨Fin.ofNat 8 (r.xf 41 3).toNat, r.xf 33 8, r.dO⟩) }),
   (0x080, .fb0 .bra), (0x081, .faA .jmpr), (0x082, .fb0 .call), (0x083, .faA .callr), (0x084, .fa0 .ret),
   (0x085, .fa0 .exit), (0x086, .fa0 .yield),
   (0x087, { fmt := .fa, zd := true, za := true, zb := true, res0 := fun _ => 0x3FFFFFFFF#44
             build := fun r => some (.wsync r.hdr r.cO) }),
   (0x088, .fa0 .nop),
   (0x089, { fmt := .fa, zd := true, zb := true, zc := true, res0 := fun _ => 0x3FFFF0000#44
             build := fun r => some (.swt r.hdr r.aO (r.xf 0 16)) }),
   (0x08A, { fmt := .fa, zd := true, za := true, zb := true, zc := true, res0 := fun _ => 0x2FFFFFFFF#44
             build := fun r => some (.tret r.hdr (r.xb 32)) }),
   (0x08B, .fa0 .rgn), (0x08C, .fi0 .brk),
   (0x0A0, { fmt := .fa, zb := true, res0 := fun _ => 0xFFFFFFFF#44
             build := fun r => match Form.voteMode (r.xf 32 2).toNat with
               | some m => some (.vote r.hdr ⟨m, r.dO, r.aO, r.cO⟩)
               | none => none }),
   (0x0A1, { fmt := .fa, res0 := fun _ => 0xF0FFFFFF#44
             build := fun r => some (.shfl r.hdr ⟨Form.shflMode (r.xf 32 2).toNat, r.ty, r.dO, r.aO, r.bO, r.cO⟩) }),
   (0x0A2, .wredF 0x300FFFFFF#44 .wred), (0x0A3, .wredF 0x3007FFFFF#44 .wscan)]
/-- Memory opcodes (0C0h to 0E9h). -/
def opcodesMem : List (Nat × Form) :=
  [(0x0C0, .ldF .ld), (0x0C1, .stF .st),
   (0x0C2, { fmt := .fm, zb := true, res0 := fun _ => 0x3FF000000#44
             build := fun r => match r.sc with
               | some sc => if r.size == some .b16 && r.ord == .none then some (.ldq r.hdr ⟨r.addr, sc, r.dO⟩) else none
               | none => none }),
   (0x0C3, { fmt := .fm, zd := true, res0 := fun _ => 0x3FF000000#44
             build := fun r => match r.sc with
               | some sc => if r.size == some .b16 && r.ord == .none then some (.stq r.hdr ⟨r.addr, sc, r.bO⟩) else none
               | none => none }),
   (0x0C4, .ldF .ldacq), (0x0C5, .stF .strel),
   (0x0C6, { fmt := .fm, zd := true, zb := true, res0 := fun _ => 0x3FE000000#44
             build := fun r => if Form.plainFM r then some (.pref r.hdr ⟨r.xb 24, r.off, r.aO⟩) else none }),
   (0x0C7, .rangeF .flush), (0x0C8, .rangeF .inval), (0x0D0, .atomF .atom),
   (0x0D1, { fmt := .fm, res0 := fun _ => 0x3F0000000#44
             build := fun r => do
               let size ← r.size
               let sc ← r.sc
               some (.acas r.hdr ⟨size, r.ty, r.addr, r.ord, sc, r.dO, r.bO⟩) }),
   (0x0D2, .atomF .red),
   (0x0E0, { fmt := .fm, zd := true, za := true, zb := true, res0 := fun _ => 0xF83FFFFFFFF#44
             build := fun r => match r.sc with | some sc => some (.fence r.hdr r.ord sc) | none => none }),
   (0x0E1, { fmt := .fm, zd := true, zb := true, res0 := fun _ => 0x3FF000000#44
             build := fun r =>
               if r.size == some .b1 && r.sc == some .grp && r.ord == .none then some (.marm r.hdr r.addr) else none }),
   (0x0E2, .faD .mwait), (0x0E3, .fa0 .bar),
   (0x0E4, { fmt := .fa, zd := true, zc := true
             res0 := fun r => if r.b == 0x3FF#10 then 0x3FFFFF800#44 else 0x3FFFFFFFF#44
             build := fun r => some (.nbar r.hdr ⟨r.aO, r.bO, r.xf 0 11⟩) }),
   (0x0E5, .fa0 .ssb), (0x0E8, .pinF .pinw), (0x0E9, .pinF .unpinw)]
/-- Tenure and engine opcodes (1A0h to 1BBh). -/
def opcodesEngine : List (Nat × Form) :=
  [(0x1A0, { fmt := .ft, res0 := fun _ => 0x3FFFFFFFF#44, build := fun r => some (.thopen r.hdr ⟨r.tx, r.dO, r.aO, r.bO⟩) }),
   (0x1A1, { fmt := .ft, zb := true, res0 := fun _ => 0xFFC1FFFFFFF#44
             build := fun r => match r.scT with
               | some sc => some (.tenr r.hdr ⟨sc, r.xb 30, r.xb 29, r.dO, r.aO⟩)
               | none => none }),
   (0x1A2, .scopeF .trel),
   (0x1A3, { fmt := .ft, res0 := fun _ => 0xFFFE3FFFFFF#44
             build := fun r => some (.tsplit r.hdr ⟨r.xf 26 3, r.dO, r.aO, r.bO⟩) }),
   (0x1A4, .scopeF .thclose), (0x1A5, .ftDA .ttest),
   (0x1B0, .txF .tidset), (0x1B1, .txF .tidget), (0x1B2, .txF .scaleb),
   (0x1B3, { fmt := .ft, za := true, zb := true, res0 := fun _ => 0xFFFFFFFFFFF#44, build := fun r => some (.mrsv r.hdr r.dO) }),
   (0x1B4, { fmt := .ft, zd := true, za := true, zb := true, res0 := fun _ => 0xFFFFFFFFFFF#44
             build := fun r => some (.mrel r.hdr) }),
   (0x1B5, .tileF false false 0xFFFFFFF#44 .tmma), (0x1B6, .tileF false true 0xFFFFFFF#44 .tldacc),
   (0x1B7, .tileF true false 0x7FFFFF#44 .tstacc),
   (0x1B8, { fmt := .ft, za := true, zb := true, res0 := fun _ => 0xFFFFFFFFFFF#44, build := fun r => some (.tzacc r.hdr r.dO) }),
   (0x1B9, .tileF true false 0xF7FFFFF#44 .tcvt), (0x1BA, .ftDA .ttask), (0x1BB, .ftDA .twaitk)]
/-- Scheduling, copy, channel and collective opcodes (1C0h to 1E4h). -/
def opcodesWork : List (Nat × Form) :=
  [(0x1C0, .fiD .rgrow), (0x1C1, .fiD .rshrink), (0x1C4, .schedF .spawn), (0x1C5, .schedF .joindec), (0x1C6, .schedF .launch),
   (0x1D0, { fmt := .fa, zc := true, res0 := fun _ => 0x3FFF#44
             build := fun r => match Scope.ofCode (r.xf 16 3), (r.xf 32 2).toNat with
               | some sc, 0 => some (.acopy r.hdr ⟨.b4, .ofCode (r.xf 30 2), .ofCode (r.xf 28 2), r.xf 19 9, sc, r.xb 15, r.xb 14, r.dO, r.aO, r.bO⟩)
               | some sc, 1 => some (.acopy r.hdr ⟨.b8, .ofCode (r.xf 30 2), .ofCode (r.xf 28 2), r.xf 19 9, sc, r.xb 15, r.xb 14, r.dO, r.aO, r.bO⟩)
               | some sc, 2 => some (.acopy r.hdr ⟨.b16, .ofCode (r.xf 30 2), .ofCode (r.xf 28 2), r.xf 19 9, sc, r.xb 15, r.xb 14, r.dO, r.aO, r.bO⟩)
               | _, _ => none }),
   (0x1D1, { fmt := .ft, res0 := fun _ => 0xFFFFF#44
             build := fun r => match r.flags with
               | some fl => some (.acopyt r.hdr ⟨r.tx, fl, r.ty, r.xb 23, r.xb 22, r.xb 21, r.xb 20, r.dO, r.aO, r.bO⟩)
               | none => none }),
   (0x1D2, { fmt := .ft, res0 := fun _ => 0xFFFFF#44
             build := fun r => match r.flags, RedOp.ofCode (r.xf 25 3).toNat with
               | some fl, some op =>
                 if r.xf 21 4 == 0#4 then some (.acopyr r.hdr ⟨r.tx, fl, op, r.xb 20, r.dO, r.aO, r.bO⟩) else none
               | _, _ => none }),
   (0x1D3, .cmF .cmwait), (0x1D4, .cmF .cmtest), (0x1D8, .faDAB .csend), (0x1D9, .faDAB .crecv),
   (0x1DA, { fmt := .fa, zb := true, zc := true, res0 := fun _ => 0x1FFFFFFFF#44
             build := fun r => some (.cpoll r.hdr (r.xb 33) r.dO r.aO) }),
   (0x1E0, .ftDA .hlred), (0x1E1, .ftDA .hlgath), (0x1E2, .ftDA .hlrot), (0x1E3, .ftDA .hlwait), (0x1E4, .ftDA .hlstat)]
/-- Pennant, system and debug opcodes (1E8h to 1F6h). -/
def opcodesSystem : List (Nat × Form) :=
  [(0x1E8, { fmt := .fa, zc := true, res0 := fun _ => 0x7FFFFFF#44
             build := fun r => some (.pnsend r.hdr (r.xf 28 6) (r.xb 27) r.dO r.aO r.bO) }),
   (0x1E9, .faDA .pnmask),
   (0x1EA, { fmt := .fa, za := true, zb := true, zc := true, res0 := fun _ => 0x1FFFFFFFF#44
             build := fun r => some (.pnpend r.hdr (r.xb 33) r.dO) }),
   (0x1EB, .fiD .pnack), (0x1EC, .fa0 .pnret), (0x1ED, .faDA .pnwait),
   (0x1F0, .sysF false true .srd Raw.dO), (0x1F1, .sysF true false .swr Raw.aO), (0x1F2, .fi0 .svc), (0x1F3, .fa0 .sret),
   (0x1F4, { fmt := .fa, zd := true, zc := true, res0 := fun _ => 0xFFFFFFFF#44
             build := fun r => match (r.xf 32 2).toNat with
               | 0 => some (.tlbi r.hdr .va r.aO r.bO)
               | 1 => some (.tlbi r.hdr .ctx r.aO r.bO)
               | 2 => some (.tlbi r.hdr .all r.aO r.bO)
               | _ => none }),
   (0x1F5, { fmt := .fa, res0 := fun _ => 0xFFFFFFFF#44
             build := fun r => match (r.xf 32 2).toNat with
               | 0 => some (.dcap r.hdr .dlg r.dO r.aO r.bO r.cO)
               | 1 => some (.dcap r.hdr .rev r.dO r.aO r.bO r.cO)
               | 2 => some (.dcap r.hdr .qry r.dO r.aO r.bO r.cO)
               | _ => none }),
   (0x1F6, .fi0 .trig)]

/-- Table 15.4: every assigned opcode; every other value is unassigned (R302). -/
def opcodeTable : List (Nat × Form) :=
  opcodesInt ++ opcodesIntImm ++ opcodesFloat ++ opcodesControl ++ opcodesMem ++ opcodesEngine ++ opcodesWork ++ opcodesSystem

/-- The form of an opcode (R302). -/
def formOf (opc : BitVec 10) : Option Form := opcodeTable.lookup opc.toNat

/-- A field that must be 3FFh holds another value. -/
def Form.mustFails (f : Form) (r : Raw) : Bool :=
  (f.zd && r.d != 0x3FF#10) || (f.za && r.a != 0x3FF#10) || (f.zb && r.b != 0x3FF#10) || (f.zc && r.xf 34 10 != 0x3FF#10)

/-- Step 6 rather than step 9 decides a field that must be 3FFh (R290). -/
def Form.mustEarly (f : Form) : Bool := f.fmt == .fm || f.fmt == .fi

/-- Step 8 of R290: some operand code of the word is reserved. -/
def Form.anyReserved (f : Form) (r : Raw) : Bool :=
  r.dO.reserved || r.aO.reserved || r.bO.reserved || (f.fmt == .fa && r.cO.reserved)

/-- Steps 4, 5 and 6 of R290. -/
def decodeFields (r : Raw) : Except DecodeError (Form × Instr) :=
  match formOf r.opc with
  | none => .error .opcode
  | some f =>
    if r.z != 0#1 || (r.x &&& f.res0 r) != 0#44 then .error .res0
    else if f.mustEarly && f.mustFails r then .error .field
    else match f.build r with
      | none => .error .field
      | some i => if i.fieldsOk then .ok (f, i) else .error .field

/-- Steps 8 and 9 of R290. -/
def decodeOperands (f : Form) (r : Raw) (i : Instr) : Except DecodeError Unit :=
  if f.anyReserved r then .error .reserved
  else if f.mustFails r || !i.kindsOk then .error .operand
  else .ok ()

/-- Step 2 of R290: GRD = 1111b. -/
def Raw.badGuard (r : Raw) : Bool := r.grd == 0xF#4

/-- The static checks of R290 in their order. -/
def decode (w : IWord) : Except DecodeError Instr :=
  if (Raw.ofWord w).badGuard then .error .guard
  else match decodeFields (Raw.ofWord w) with
    | .error e => .error e
    | .ok (f, i) =>
      match decodeOperands f (Raw.ofWord w) i with
      | .error e => .error e
      | .ok () => .ok i

/-- The checks of R299 on a word that a PBLK covers: steps 4 to 6, then the PBLK rules, then steps 8 and 9. -/
def decodeCovered (w : IWord) : Except DecodeError Instr :=
  match decodeFields (Raw.ofWord w) with
  | .error e => .error e
  | .ok (f, i) =>
    if (Raw.ofWord w).grd != 0x7#4 || !i.portB || i.isBra then .error .pblk
    else match decodeOperands f (Raw.ofWord w) i with
      | .error e => .error e
      | .ok () => .ok i

/-- The instruction word of twelve bytes (R289). -/
def wordOfBytes (bs : List Byte) : IWord := BitVec.ofNat 96 (ofBytes bs)

/-- The instruction the decoder reads from the low `nbits` bits of a word whose other bits are zero. -/
def decodeTableWord (nbits w : Nat) : Option Instr :=
  match decode (BitVec.ofNat 96 (w % 2 ^ nbits)) with
  | .ok i => some i
  | .error _ => none

/-! ### The encoder -/

namespace Encode
/-- GRD of a guard. -/
def grd (g : Guard) : BitVec 4 := bit1 g.neg ++ BitVec.ofNat 3 g.p.val
/-- The shared fields of a word. -/
def raw (opc : Nat) (h : Hdr) (d a b : Opd) (x : BitVec 44) : Option Raw :=
  some { opc := BitVec.ofNat 10 opc, grd := grd h.grd, la := h.la, yh := bit1 h.yh, rh := h.rh, z := 0
         d := d.toCode, a := a.toCode, b := b.toCode, x := x }
/-- X of FA with the fields of Table 16.1. -/
def faX (c : Opd) (sty : BitVec 4) (ty : Fmt) (sat : Bool) : BitVec 44 :=
  c.toCode ++ 0#2 ++ sty ++ ty.field ++ bit1 sat ++ 0#23
/-- X of FI. -/
def fiX (ty : Fmt) (imm : W32) : BitVec 44 := ty.field ++ 0#8 ++ imm
/-- X of FM (Table 15.2). -/
def fmX (size : Size) (sp : Space) (sc : Scope) (ord : Order) (m : BitVec 10) (off : BitVec 24) : BitVec 44 :=
  size.field ++ sp.field ++ sc.field ++ ord.field ++ m ++ off
/-- MOD of an FM load or store. -/
def modF (fmt : Fmt) : BitVec 10 := 0#6 ++ fmt.field
/-- X of FT (Table 8.3). -/
def ftX (tx : BitVec 10) (fl : EFlags) (fmt : Fmt) (sat : Bool) (m : BitVec 3) : BitVec 44 :=
  tx ++ fl.sc.field ++ bit1 fl.acq ++ bit1 fl.rel ++ bit1 fl.it ++ fmt.field ++ bit1 sat ++ m ++ 0#20
/-- FA, two sources. -/
def bin (opc : Nat) (h : Hdr) (o : Bin) : Option Raw := raw opc h o.d o.a o.b (faX .zero 0 o.ty false)
/-- FI, one register source. -/
def binI (opc : Nat) (h : Hdr) (o : BinI) : Option Raw := raw opc h o.d o.a .zero (fiX o.ty o.imm)
/-- FA, three sources. -/
def tri (opc : Nat) (h : Hdr) (o : Tri) : Option Raw := raw opc h o.d o.a o.b (faX o.c 0 o.ty false)
/-- FI, two register sources. -/
def triI (opc : Nat) (h : Hdr) (o : TriI) : Option Raw := raw opc h o.d o.a o.b (fiX o.ty o.imm)
/-- FA, one source. -/
def un (opc : Nat) (h : Hdr) (o : Un) : Option Raw := raw opc h o.d o.a .zero (faX .zero 0 o.ty false)
/-- CVT and CVTF. -/
def conv (opc : Nat) (h : Hdr) (o : Conv) : Option Raw := raw opc h o.d o.a .zero (faX .zero o.sty.field o.ty o.sat)
/-- FA with no modifier. -/
def fa (opc : Nat) (h : Hdr) (d a b c : Opd) : Option Raw := raw opc h d a b (c.toCode ++ 0#34)
/-- FB and the FI forms with no type. -/
def imm (opc : Nat) (h : Hdr) (d : Opd) (v : W32) : Option Raw := raw opc h d .zero .zero (0#12 ++ v)
/-- LD, LDACQ. -/
def ld (opc : Nat) (h : Hdr) (o : LdOps) : Option Raw :=
  raw opc h o.d o.addr.a .zero (fmX o.size o.addr.sp o.sc .none (modF o.fmt) o.addr.off)
/-- ST, STREL. -/
def st (opc : Nat) (h : Hdr) (o : StOps) : Option Raw :=
  raw opc h .zero o.addr.a o.b (fmX o.size o.addr.sp o.sc .none (modF o.fmt) o.addr.off)
/-- FLUSH, INVAL. -/
def range (opc : Nat) (h : Hdr) (o : RangeOps) : Option Raw :=
  raw opc h .zero o.a o.b (fmX .b1 .virt (if o.sys then .sys else .pkg) .none 0 o.off)
/-- PINW, UNPINW. -/
def pin (opc : Nat) (h : Hdr) (o : PinOps) : Option Raw := raw opc h o.d o.a o.b (fmX .b1 .virt .grp .none 0 o.off)
/-- ATOM, RED. -/
def atom (opc : Nat) (h : Hdr) (o : AtomOps) : Option Raw :=
  raw opc h o.d o.addr.a o.b
    (fmX o.size o.addr.sp o.sc o.ord (0#2 ++ BitVec.ofNat 4 o.op.code ++ o.fmt.field) o.addr.off)
/-- SPAWN, JOINDEC, LAUNCH. -/
def sched (opc : Nat) (h : Hdr) (d a : Opd) (off : BitVec 24) : Option Raw := raw opc h d a .zero (0#20 ++ off)
/-- FT with no X field but TX and SCOPE. -/
def ft (opc : Nat) (h : Hdr) (d a b : Opd) (tx : BitVec 10) (sc : BitVec 3) : Option Raw :=
  raw opc h d a b (tx ++ sc ++ 0#31)
/-- The tile instructions. -/
def tile (opc : Nat) (h : Hdr) (o : TileOps) : Option Raw := raw opc h o.d o.a o.b (ftX o.tx o.fl o.fmt o.sat 0)
/-- WRED, WSCAN. -/
def wred (opc : Nat) (h : Hdr) (o : WredOps) : Option Raw :=
  raw opc h o.d o.a .zero (faX o.c (BitVec.ofNat 4 o.op.code) o.ty o.exc)
/-- SZ of ACOPY (Table 9.2). -/
def acopySz : Size → BitVec 2 | .b4 => 0 | .b8 => 1 | .b16 => 2 | _ => 3
/-- VOTE modes. -/
def vote : VoteMode → BitVec 2 | .any => 0 | .all => 1 | .ballot => 2
/-- SHFL modes. -/
def shfl : ShflMode → BitVec 2 | .idx => 0 | .up => 1 | .down => 2 | .xor => 3
/-- SP of SRD and SWR. -/
def sysSp : SysSpace → BitVec 2 | .ctx => 0 | .bar => 1 | .thr => 2
/-- MODE of TLBI. -/
def tlbi : TlbiMode → BitVec 2 | .va => 0 | .ctx => 1 | .all => 2
/-- OP of DCAP. -/
def dcap : DcapOp → BitVec 2 | .dlg => 0 | .rev => 1 | .qry => 2
end Encode

open Encode in
/-- The fields of an instruction's word; an event has none. -/
def rawOf : Instr → Option Raw
  | .iadd h o => bin 0x000 h o | .isub h o => bin 0x001 h o | .imul h o => bin 0x002 h o | .imad h o => tri 0x003 h o
  | .imin h o => bin 0x004 h o | .imax h o => bin 0x005 h o | .iabs h o => un 0x006 h o | .and h o => bin 0x008 h o
  | .or h o => bin 0x009 h o | .xor h o => bin 0x00A h o | .not h o => un 0x00B h o | .shl h o => bin 0x00C h o
  | .shr h o => bin 0x00D h o | .rot h o => bin 0x00E h o | .bfx h o => bin 0x010 h o | .bfi h o => tri 0x011 h o
  | .popc h o => un 0x012 h o | .clz h o => un 0x013 h o | .brev h o => un 0x014 h o | .icmp h o => bin 0x018 h o
  | .sel h o => tri 0x019 h o | .lea h o => tri 0x01A h o | .mov h o => un 0x01C h o | .cvt h o => conv 0x01E h o
  | .iaddImm h o => binI 0x020 h o | .isubImm h o => binI 0x021 h o | .imulImm h o => binI 0x022 h o
  | .imadImm h o => triI 0x023 h o | .iminImm h o => binI 0x024 h o | .imaxImm h o => binI 0x025 h o
  | .andImm h o => binI 0x028 h o | .orImm h o => binI 0x029 h o | .xorImm h o => binI 0x02A h o
  | .shlImm h o => binI 0x02C h o | .shrImm h o => binI 0x02D h o | .rotImm h o => binI 0x02E h o
  | .bfxImm h o => binI 0x030 h o | .bfiImm h o => triI 0x031 h o | .icmpImm h o => binI 0x038 h o
  | .selImm h o => triI 0x039 h o | .leaImm h o => triI 0x03A h o
  | .movi h o => raw 0x03C h o.d .zero .zero (fiX o.ty o.imm)
  | .fadd h o => bin 0x040 h o | .fsub h o => bin 0x041 h o | .fmul h o => bin 0x042 h o | .ffma h o => tri 0x043 h o
  | .fmin h o => bin 0x044 h o | .fmax h o => bin 0x045 h o | .fabs h o => un 0x046 h o | .fneg h o => un 0x047 h o
  | .fcmp h o => bin 0x048 h o | .fclass h o => un 0x049 h o | .cvtf h o => conv 0x04A h o | .frcp h o => un 0x050 h o
  | .frsq h o => un 0x051 h o | .fsqrt h o => un 0x052 h o | .fexp2 h o => un 0x053 h o | .flog2 h o => un 0x054 h o
  | .fsin h o => un 0x055 h o | .fcos h o => un 0x056 h o | .faddImm h o => binI 0x060 h o | .fsubImm h o => binI 0x061 h o
  | .fmulImm h o => binI 0x062 h o | .ffmaImm h o => triI 0x063 h o | .fminImm h o => binI 0x064 h o
  | .fmaxImm h o => binI 0x065 h o | .fcmpImm h o => binI 0x068 h o | .vadd2 h o => bin 0x070 h o
  | .vmul2 h o => bin 0x071 h o | .vfma2 h o => tri 0x072 h o
  | .plop h o => raw 0x078 h o.d o.a o.b (0x3FF#10 ++ 0#30 ++ o.lut)
  | .pblk h o => raw 0x07F h o.d .zero .zero (BitVec.ofNat 3 o.cnt.val ++ o.pat ++ 0#33)
  | .bra h v => imm 0x080 h .zero v | .jmpr h a => fa 0x081 h .zero a .zero .zero | .call h v => imm 0x082 h .zero v
  | .callr h a => fa 0x083 h .zero a .zero .zero | .ret h => fa 0x084 h .zero .zero .zero .zero
  | .exit h => fa 0x085 h .zero .zero .zero .zero | .yield h => fa 0x086 h .zero .zero .zero .zero
  | .wsync h c => fa 0x087 h .zero .zero .zero c | .nop h => fa 0x088 h .zero .zero .zero .zero
  | .swt h a n => raw 0x089 h .zero a .zero (0x3FF#10 ++ 0#18 ++ n)
  | .tret h nx => raw 0x08A h .zero .zero .zero (0x3FF#10 ++ 0#1 ++ bit1 nx ++ 0#32)
  | .rgn h => fa 0x08B h .zero .zero .zero .zero | .brk h v => imm 0x08C h .zero v
  | .vote h o => raw 0x0A0 h o.d o.a .zero (o.c.toCode ++ vote o.mode ++ 0#32)
  | .shfl h o => raw 0x0A1 h o.d o.a o.b (o.c.toCode ++ shfl o.mode ++ 0#4 ++ o.ty.field ++ 0#24)
  | .wred h o => wred 0x0A2 h o | .wscan h o => wred 0x0A3 h o
  | .ld h o => ld 0x0C0 h o | .st h o => st 0x0C1 h o
  | .ldq h o => raw 0x0C2 h o.d o.addr.a .zero (fmX .b16 o.addr.sp o.sc .none 0 o.addr.off)
  | .stq h o => raw 0x0C3 h .zero o.addr.a o.b (fmX .b16 o.addr.sp o.sc .none 0 o.addr.off)
  | .ldacq h o => ld 0x0C4 h o | .strel h o => st 0x0C5 h o
  | .pref h o => raw 0x0C6 h .zero o.a .zero (fmX .b1 .virt .grp .none (0#9 ++ bit1 o.l2) o.off)
  | .flush h o => range 0x0C7 h o | .inval h o => range 0x0C8 h o | .atom h o => atom 0x0D0 h o
  | .acas h o => raw 0x0D1 h o.d o.addr.a o.b (fmX o.size o.addr.sp o.sc o.ord (modF o.fmt) o.addr.off)
  | .red h o => atom 0x0D2 h o
  | .fence h ord sc => raw 0x0E0 h .zero .zero .zero (fmX .b1 .virt sc ord 0 0)
  | .marm h o => raw 0x0E1 h .zero o.a .zero (fmX .b1 o.sp .grp .none 0 o.off)
  | .mwait h d => fa 0x0E2 h d .zero .zero .zero | .bar h => fa 0x0E3 h .zero .zero .zero .zero
  | .nbar h o => raw 0x0E4 h .zero o.a o.b (0x3FF#10 ++ 0#23 ++ o.cnt)
  | .ssb h => fa 0x0E5 h .zero .zero .zero .zero | .pinw h o => pin 0x0E8 h o | .unpinw h o => pin 0x0E9 h o
  | .thopen h o => ft 0x1A0 h o.d o.a o.b o.tx 0
  | .tenr h o => raw 0x1A1 h o.d o.a .zero (0#10 ++ o.sc.field ++ bit1 o.w ++ bit1 o.tr ++ 0#29)
  | .trel h sc a => ft 0x1A2 h .zero a .zero 0 sc.field
  | .tsplit h o => raw 0x1A3 h o.d o.a o.b (0#15 ++ o.dim ++ 0#26)
  | .thclose h sc a => ft 0x1A4 h .zero a .zero 0 sc.field | .ttest h d a => ft 0x1A5 h d a .zero 0 0
  | .tidset h tx a => ft 0x1B0 h .zero a .zero tx 0 | .tidget h tx a => ft 0x1B1 h .zero a .zero tx 0
  | .scaleb h tx a => ft 0x1B2 h .zero a .zero tx 0 | .mrsv h d => ft 0x1B3 h d .zero .zero 0 0
  | .mrel h => ft 0x1B4 h .zero .zero .zero 0 0
  | .tmma h o => tile 0x1B5 h o | .tldacc h o => tile 0x1B6 h o | .tstacc h o => tile 0x1B7 h o
  | .tzacc h d => ft 0x1B8 h d .zero .zero 0 0 | .tcvt h o => tile 0x1B9 h o
  | .ttask h d a => ft 0x1BA h d a .zero 0 0 | .twaitk h d a => ft 0x1BB h d a .zero 0 0
  | .rgrow h d v => imm 0x1C0 h d v | .rshrink h d v => imm 0x1C1 h d v
  | .spawn h d a off => sched 0x1C4 h d a off | .joindec h d a off => sched 0x1C5 h d a off
  | .launch h d a off => sched 0x1C6 h d a off
  | .acopy h o => raw 0x1D0 h o.d o.a o.b
      (0x3FF#10 ++ acopySz o.sz ++ o.dsp.field ++ o.ssp.field ++ o.bit ++ o.sc.field ++ bit1 o.acq ++ bit1 o.rel ++ 0#14)
  | .acopyt h o => raw 0x1D1 h o.d o.a o.b (ftX o.tx o.fl o.lfmt o.sat (bit1 o.lcv ++ bit1 o.st ++ bit1 o.vlt))
  | .acopyr h o => raw 0x1D2 h o.d o.a o.b
      (o.tx ++ o.fl.sc.field ++ bit1 o.fl.acq ++ bit1 o.fl.rel ++ bit1 o.fl.it ++ BitVec.ofNat 3 o.op.code ++ 0#4 ++ bit1 o.vlt ++ 0#20)
  | .cmwait h o => fa 0x1D3 h o.d o.a o.b o.c | .cmtest h o => fa 0x1D4 h o.d o.a o.b o.c
  | .csend h d a b => fa 0x1D8 h d a b .zero | .crecv h d a b => fa 0x1D9 h d a b .zero
  | .cpoll h rcv d a => raw 0x1DA h d a .zero (0x3FF#10 ++ bit1 rcv ++ 0#33)
  | .hlred h d a => ft 0x1E0 h d a .zero 0 0 | .hlgath h d a => ft 0x1E1 h d a .zero 0 0
  | .hlrot h d a => ft 0x1E2 h d a .zero 0 0 | .hlwait h d a => ft 0x1E3 h d a .zero 0 0
  | .hlstat h d a => ft 0x1E4 h d a .zero 0 0
  | .pnsend h n wake d a b => raw 0x1E8 h d a b (0x3FF#10 ++ n ++ bit1 wake ++ 0#27)
  | .pnmask h d a => fa 0x1E9 h d a .zero .zero
  | .pnpend h sel d => raw 0x1EA h d .zero .zero (0x3FF#10 ++ bit1 sel ++ 0#33)
  | .pnack h d n => imm 0x1EB h d n | .pnret h => fa 0x1EC h .zero .zero .zero .zero
  | .pnwait h d a => fa 0x1ED h d a .zero .zero
  | .srd h o => raw 0x1F0 h o.r .zero o.b (0x3FF#10 ++ sysSp o.sp ++ 0#8 ++ o.n)
  | .swr h o => raw 0x1F1 h .zero o.r o.b (0x3FF#10 ++ sysSp o.sp ++ 0#8 ++ o.n)
  | .svc h v => imm 0x1F2 h .zero v | .sret h => fa 0x1F3 h .zero .zero .zero .zero
  | .tlbi h m a b => raw 0x1F4 h .zero a b (0x3FF#10 ++ tlbi m ++ 0#32)
  | .dcap h op d a b c => raw 0x1F5 h d a b (c.toCode ++ dcap op ++ 0#32)
  | .trig h v => imm 0x1F6 h .zero v
  | _ => none

/-- The word of an instruction; none for an event. -/
def encode (i : Instr) : Option IWord := (rawOf i).map Raw.toWord

end Sys2Proof
end

