-- ==== Sys2Proof/Machine/State.lean ====
section
/-! DEFINITION. The state of the machine as plain data, with the reset value of every field as its default
(INVENTORY.md, State), the reasons a step stops, and State.reset. -/
namespace Sys2Proof.Machine

/-- A table with natural keys; keys rise strictly. -/
abbrev Tab (α : Type) := List (Nat × α)

/-- Bytes by address, in canonical form: addresses rise strictly and no entry is zero, which is what an unlisted address reads
as (log 1, DESIGN CHOICE). -/
abbrev Memory := List Host.Cell

/-- Why the machine stops. -/
inductive Fault where
  /-- Raised by the accesses the device makes to its own structures (page tables, rings, tables named by a register) when the
  structure lies at a package physical address of 1 TiB or more, which does not exist (04_memory_hierarchy.md R90). Safe. -/
  | noSuchAddress
  deriving DecidableEq, Repr

/-- Why a step has no meaning. -/
inductive Refusal where
  /-- Raised by an arm of `exec` whose instruction has no meaning yet. Safe. -/
  | notModelled (mnemonic : String)
  deriving DecidableEq, Repr

/-! ### Threads and warps (02_execution_model.md) -/

/-- The barrier a thread waits at (R49, R51, R102). -/
inductive BarKind where | group | named (n : Fin 32) | superstep
  deriving DecidableEq, Repr, Inhabited

/-- Why a path waits at an instruction that it issues again. -/
inductive Why where
  /-- A store or atomic of a lane is held under a tenure (17_reference_d_l.md R340 step 1). -/
  | held (lane : Nat)
  /-- Host data that an earlier load of a lane awaits (R340 step 5). -/
  | reply (lane : Nat)
  /-- Cores that have not drained what lay behind a release, each with the cycle of its release (05_consistency.md R118). -/
  | drain (ds : List (Nat × Nat))
  /-- Another core owns the block of a key (R123). -/
  | owner (key : Nat)
  /-- A record of SPAWN or JOINDEC lies under another group's tenure (06_tile_tenure.md R140). -/
  | tenure (key : Nat)
  /-- The engine's queue, a copy table, a task table or a collective table has no room. -/
  | room (which : Nat)
  /-- A scratch store of the same thread to a byte of the access completes in this cycle (04_memory_hierarchy.md R100). -/
  | scratch (till : Nat)
  /-- Bytes of the access are on their way from the host to another access: the 64-byte line (13_host_and_system.md R257). -/
  | host (line : Nat)
  /-- An access of the core to a page with SC = 1 is held under a tenure (R124). -/
  | order
  /-- A line of instructions is on its way from the host (R303, 13_host_and_system.md R257). -/
  | fetch (line : Nat)
  deriving DecidableEq, Repr, Inhabited

/-- What a thread in a stall waits for (R39), with the destination its wake writes. Its program counter stays at the instruction. -/
inductive Stall where
  /-- The instruction issues again. -/
  | reissue (why : Why)
  /-- RGROW (R82): D receives the new count. -/
  | rgrow (d : Opd) (n : Nat)
  /-- TENR (06_tile_tenure.md R146): the tenure awaited. -/
  | tenr (id : Nat)
  /-- TREL and THCLOSE (R146): the release awaited. -/
  | trel (id : Nat)
  /-- CSEND or CRECV (R201): the channel, the scratch offset and the threads of the path. -/
  | channel (d : Opd) (ch : Nat) (send : Bool) (off : Nat) (lanes : W32)
  /-- CMWAIT (R199): header, map word and mask. -/
  | cmwait (d : Opd) (h w : Nat) (mask : W32)
  /-- TWAITK with SYNC = 0 (08_tensor_engines.md R188): the tag, and the push order up to which tasks are awaited. -/
  | tasks (d : Opd) (tag seq : Nat)
  /-- TWAITK with SYNC = 1 (R188), and MREL (R359) with `free`: the engine commands awaited. -/
  | engine (d : Opd) (ids : List Nat) (free : Bool)
  /-- HLRED, HLGATH and HLROT (R207): a command with the descriptor and the entry that were read, for which the die's queue has no place yet. -/
  | collRoom (d : Opd) (kind : Nat) (user : Bool) (dsc ent : BitVec 512) (hint : BitVec 2) (lanes : W32)
  /-- HLWAIT (R213): the commands awaited. -/
  | coll (d : Opd) (ids : List Nat)
  /-- PNWAIT (R254). -/
  | pnwait (d : Opd) (mask : W64)
  /-- PNSEND (R245): the send awaited. -/
  | pnsend (d : Opd) (id : Nat)
  /-- A thread that a PNSEND of its path leaves out, while threads of the path wait for their sends: it stays Running and issues nothing
  (21_programs_tensor_and_pennants.md R411, log 35). -/
  | beside (sending : W32)
  deriving DecidableEq, Repr, Inhabited

/-- Thread states (R39). In handler is Running with INH set. `exiting` is the wait of R333. -/
inductive TState where
  | running
  | barrier (b : BarKind)
  | sleep (d : Opd) (since : Nat)
  | stall (k : Stall)
  | member (i : Instr) (mask : W32)
  | parked
  /-- Parked at a tile instruction that a recoverable fault has stopped (08_tensor_engines.md R183). -/
  | engineParked (cmd : Nat)
  | exiting
  | exited
  deriving DecidableEq, Repr, Inhabited

/-- A cached translation of one page (04_memory_hierarchy.md R93): its size, physical key, and the attributes of Table 4.1. -/
structure Page where
  ctx : Nat
  va : Nat
  size : Nat
  pa : Nat
  w : Bool
  x : Bool
  u : Bool
  grain : Nat
  sc : Bool
  host : Bool
  c : Bool
  tiled : Bool
  ts : Nat
  deriving DecidableEq, Repr, Inhabited

/-- A memory watch (R54, R55): the block and its page, and whether an event has been recorded, with the cycle of the event. -/
structure Watch where
  block : Nat
  len : Nat
  event : Option Nat
  page : Page
  deriving DecidableEq, Repr, Inhabited

/-- An incomplete long-latency instruction (15_instruction_formats.md R292). -/
structure Pending where
  regs : List Nat
  left : Nat
  due : Nat
  /-- It completes when this held atomic is applied (06_tile_tenure.md R140), or this engine command completes (R392). -/
  held : Option Nat := none
  deriving DecidableEq, Repr, Inhabited

/-- A PBLK block in progress (R298, R300): covered instructions left, index of the next, the sampled value, whether the
guard on PBLK was true, the address of the PBLK, the covered instructions fetched with it (R299), and the mode of their page. -/
structure Block where
  left : Nat
  idx : Nat
  pat : BitVec 8
  val : Bool
  on : Bool
  at_ : W64
  code : List Instr
  user : Bool
  deriving DecidableEq, Repr, Inhabited

/-- A thread (R29, R36). -/
structure Thread where
  pc : W64 := 0
  g : Vector W32 128 := Vector.replicate 128 0
  p : Vector Bool 8 := #v[false, false, false, false, false, false, false, true]
  st : TState := .running
  wait : Nat := 0
  watch : Option Watch := none
  cych : Option W32 := none
  xm : Bool := false
  yield : Bool := false
  cause : BitVec 9 := 0
  inh : Bool := false
  tepc : W64 := 0
  taddr : W64 := 0
  rgnctr : W32 := 0
  rgnpc : W64 := 0
  /-- MODEL: the place in issue order of the instruction that ended the thread's last region. -/
  rgnSeq : Nat := 0
  pend : List Pending := []
  blk : Option Block := none
  fromUser : Option Bool := none
  /-- The next fetch follows SVC or handler entry, which may cross from U = 1 to U = 0 (18_reference_m_s.md R379). -/
  gate : Bool := false
  /-- The engine command stopped at a recoverable fault for which the thread is parked while another wait of its own goes on (R183). -/
  parkedBy : Option Nat := none
  /-- The cycle in which the instruction issued whose execution the thread waits to join (R35, R58). -/
  issued : Option Nat := none
  /-- The thread parks with 161h when it has issued once (R380). -/
  sstep : Bool := false
  /-- Vector clock of the writes read by the thread's earlier loads (17_reference_d_l.md R340 step 7). -/
  readVC : List Nat := []
  /-- The releases, by core and cycle, that the thread's earlier loads may have read from (05_consistency.md R115, R118). -/
  relSeen : List (Nat × Nat) := []
  deriving DecidableEq, Repr, Inhabited

/-- A warp (R30, R36, R81, R96, R97). `absent` holds the lanes that passed an address absent from the warp-wide instruction
there (R59). -/
structure Warp where
  gid : Nat := 0
  num : Nat := 0
  alloc : Nat := 8
  frame : Nat := 0
  hwm : Nat := 0
  k : Vector W32 64 := Vector.replicate 64 0
  th : Vector Thread 32 := Vector.replicate 32 {}
  absent : Tab W32 := []
  /-- A halted warp may issue once (18_reference_m_s.md R380). -/
  step1 : Bool := false
  deriving DecidableEq, Repr, Inhabited

/-- A path chosen by a vote and not yet executed (R42). -/
structure Issue where
  w : WKey
  lanes : W32
  pc : W64
  deriving DecidableEq, Repr, Inhabited

/-- The path whose instruction is being executed, and its mode (R379). `kfree` tells that no thread has yet written the
instruction's k destination (R37). -/
structure Cursor where
  w : WKey
  lanes : W32
  pc : W64
  user : Bool
  kfree : Bool := true
  /-- The cycles after its issue in which a scratch store of the instruction completes (04_memory_hierarchy.md R100). -/
  lat : Nat := 0
  /-- The k registers as they were before any thread of the instruction wrote one: every source is read first (00_scope.md R9). -/
  ks : Option (Vector W32 64) := none
  deriving DecidableEq, Repr, Inhabited

/-! ### Groups -/

/-- A named barrier (R51, Table 11.8). -/
structure NBar where
  total : Nat := 0
  expected : Nat := 0
  gen : W32 := 0
  deriving DecidableEq, Repr, Inhabited

/-- A tile handle (06_tile_tenure.md Table 6.2, Table 11.9). -/
structure Handle where
  st : Nat := 0
  split : Bool := false
  fmt : Fmt := .i8
  base : W64 := 0
  ext : List Nat := []
  str : List Nat := []
  org : List Nat := []
  n : List Nat := []
  /-- The translation taken at TENR (R132): pages as (address, size, key); and the tenure entry. -/
  trans : List (Nat × Nat × Nat) := []
  entry : Option Nat := none
  deriving DecidableEq, Repr, Inhabited

/-- A channel of a consumer group (09_copies_and_channels.md R200): its head slot and the full slots from there. -/
structure Chan where
  head : Nat := 0
  full : Nat := 0
  deriving DecidableEq, Repr, Inhabited

/-- Pennant state of a group (12_pennants.md R241). -/
structure PnState where
  pend : W64 := 0
  mask : W64 := -1
  pay : Vector W64 64 := Vector.replicate 64 0
  cnt : Vector (BitVec 16) 64 := Vector.replicate 64 0
  deriving DecidableEq, Repr, Inhabited

/-- What a pre-emption is doing to a group (11_traps_and_preemption.md R233, R234). -/
inductive Preempt where
  | none
  | draining (deadline : Nat)
  | saving (reason : Nat)
  deriving DecidableEq, Repr, Inhabited

/-- A resident group (R31, R33, R47). -/
structure Group where
  core : Nat := 0
  warps : List WKey := []
  nwarps : Nat := 1
  ctx : Nat := 0
  lti : Nat := 0
  launchId : W32 := 0
  x : Nat := 0
  y : Nat := 0
  z : Nat := 0
  stage : Nat := 0
  scr : Nat := 0
  slots : Nat := 0
  barGen : W32 := 0
  barArrived : W32 := 0
  nb : Tab NBar := []
  ssbArrived : Bool := false
  scratch : Memory := []
  /-- Bytes of scratch as they were before the stores that are not complete, and those stores, oldest first, each with its thread, the cycle
  in which it completes and its value (04_memory_hierarchy.md R100); and the last of those cycles. -/
  scrWas : Tab (Byte × List (Nat × Nat × Byte)) := []
  scrAt : Nat := 0
  /-- The tags of scratch lines (05_consistency.md R111). -/
  scrTags : Tab W32 := []
  chans : Tab Chan := []
  handles : Tab Handle := []
  pn : Option PnState := none
  placed : Nat := 0
  age : Nat := 0
  /-- The frame of warp 0, whose upper half is the group's save area (R238). -/
  frame0 : Nat := 0
  order : Nat := 0
  /-- A region-ending instruction, CSEND or CRECV has executed since the group last started from its code (R233). -/
  tainted : Bool := false
  pre : Preempt := .none
  halted : Bool := false
  /-- The capability under which the group was halted (14_determinism_and_debug.md R288). -/
  haltBy : Option Nat := none
  /-- Warps all exited, the group kept for its copy commands (17_reference_d_l.md R333). -/
  ending : Bool := false
  rcd : BitVec 256 := 0
  /-- The first instruction of a fresh group issues in this cycle or later (03_work_scheduling.md R80). -/
  readyAt : Nat := 0
  deriving DecidableEq, Repr, Inhabited

/-! ### Scheduling (03_work_scheduling.md) -/

/-- A queued record with the cycle its wait at this level began (R64, R68). -/
structure Queued where
  rcd : BitVec 256
  ctx : Nat
  since : Nat
  /-- Pushed by a thread, not by the device (R68): 32 places of its core, and its lane. -/
  byThread : Option Nat := none
  /-- The place in the overflow region of a record beyond its level's 512 (R67). -/
  ov : Option Nat := none
  deriving DecidableEq, Repr, Inhabited

/-- A launch-table entry (R75, R77, R232): the record, its context, how many groups its expander has emitted, the mean
residence M, its groups queued, resident or saved, exited ones and the records armed under it. -/
structure Launch where
  rcd : BitVec 1024
  ctx : Nat
  id : W32
  emitted : Nat := 0
  m : Nat := 0
  live : Nat := 0
  armed : Nat := 0
  /-- The HOST record has been popped and the launch is active (R75). -/
  active : Bool := false
  /-- The linear indices of the groups that have exited, in a launch with channels (R200). -/
  gone : List Nat := []
  /-- A superstep set keeps the launch waiting for the set to empty (R102). -/
  waiting : Bool := false
  /-- The first GROUP record is granted in this cycle or later (R80). -/
  firstAt : Nat := 0
  deriving DecidableEq, Repr, Inhabited

/-- The scheduler of a die (R67 to R75). -/
structure DieSched where
  queues : Vector (List Queued) 8 := Vector.replicate 8 []
  launches : Tab Launch := []
  /-- The launch served last by the expander. -/
  last : Nat := 0
  /-- Device pushes that wait for room, oldest first. -/
  waiting : List Queued := []
  ovBase : W64 := 0
  ovSize : W32 := 0
  qfull : Bool := false
  jerr : Bool := false
  deriving DecidableEq, Repr, Inhabited

/-- A host queue (R78, R79, 12_pennants.md R247). -/
structure HostQueue where
  base : W64 := 0
  tail : W64 := 0
  en : Bool := false
  size : Nat := 0
  ovf : Bool := false
  rej : Bool := false
  ctx : Nat := 0
  head : W32 := 0
  /-- A snoop or the enabling write has woken the agent. -/
  woken : Bool := false
  /-- The cycle in which it has the tail line and the head packet (R80). -/
  readAt : Nat := 0
  /-- The tail count that it has read, and the bytes of the head packet: they count when their responses are there (R79). -/
  tailIs : Option W32 := none
  pkt : Option (List Byte) := none
  deriving DecidableEq, Repr, Inhabited

/-- An RGROW request (R82). -/
structure GrowReq where
  w : WKey
  lanes : W32
  n : Nat
  d : Opd
  gid : Nat
  deriving DecidableEq, Repr, Inhabited

/-- A superstep set (04_memory_hierarchy.md R102). -/
structure SSet where
  step : W32 := 0
  /-- Lateral vault stores of the step not yet applied. -/
  puts : Nat := 0
  deriving DecidableEq, Repr, Inhabited

/-! ### Memory system (04_memory_hierarchy.md, 05_consistency.md) -/

/-- The registers of a context (R98, Table 18.1). -/
structure Ctx where
  ttbase : W64 := 0
  pfbase : W64 := 0
  pfctl : W32 := 0
  pfmap : W64 := 0
  privinit : W32 := 0
  vlten : Bool := false
  tidbase : W64 := 0
  trapentry : W64 := 0
  heldbase : W64 := 0
  heldsize : W32 := 0
  heldcnt : W32 := 0
  pnpermbase : W64 := 0
  pnrefcnt : W32 := 0
  svcentry : W64 := 0
  /-- First-failure marks of the frame bitmap and of the held list (11_traps_and_preemption.md R415). -/
  mapFailed : Bool := false
  heldFailed : Bool := false
  /-- Records whose append to the held list waits (R236), oldest first, with the die they were pushed on; and the dies of the
  records on the list. -/
  heldWait : List (BitVec 256 × Nat) := []
  heldDies : List Nat := []
  suspended : Bool := false
  deriving DecidableEq, Repr, Inhabited

/-- A TLB or translation-cache entry with its last use. -/
structure TlbEntry where
  page : Page
  use : Nat
  deriving DecidableEq, Repr, Inhabited

/-- A dirty byte of an L1 (R103, R117): value, cycle written, retention hint, vector clock and the group that wrote it; `olds` are the
clocks of older writes of the byte that it has replaced before they were drained (05_consistency.md R116, R122). -/
structure Dirty where
  val : Byte
  at_ : Nat
  hint : BitVec 2
  gid : Nat
  vc : List Nat
  olds : List (List Nat) := []
  deriving DecidableEq, Repr, Inhabited

/-- A clean sector of an L1: its 32 bytes and the cycle of its fill. -/
structure Sector where
  data : List Byte
  fill : Nat
  deriving DecidableEq, Repr, Inhabited

/-- An L1 tag of a 512-byte block (R103); `ts` is the tile size of a tiled page (R107). -/
structure L1Tag where
  grain : Nat := 128
  ts : Option Nat := none
  way : Nat := 0
  use : Nat := 0
  clean : Tab Sector := []
  dirty : Tab Dirty := []
  deriving DecidableEq, Repr, Inhabited

/-- An L2 line (R104 to R106): a home line, a die's copy of a line homed elsewhere (05_consistency.md R121), or a shadow line
(06_tile_tenure.md R138): class, last access, pinned, way, retained after a soft error (11 R229). -/
structure L2Line where
  cls : BitVec 2 := 1
  use : Nat := 0
  pinned : Bool := false
  way : Nat := 0
  retained : Bool := false
  slice : Nat := 0
  /-- Class 10b, not accessed for 2^18 cycles: the class counts as 01b (R105). -/
  aged : Bool := false
  deriving DecidableEq, Repr, Inhabited

/-- A write on its way to another die's copy (R121, R122), with the cycle in which it was written (R120) and the clocks of the older writes
that it stands for. -/
structure Forward where
  line : Nat
  tag : W32
  bytes : List Host.Cell
  vc : List Nat
  at_ : Nat := 0
  olds : List (List Nat) := []
  deriving DecidableEq, Repr, Inhabited

/-- A release record of a slice (R118): the location's line and slice, the core, the cycle of the release and its vector clock; a release
of tenure lies at every block of its footprint (R128). -/
structure Release where
  line : Nat
  slice : Nat := 0
  foot : List (Nat × Nat) := []
  core : Nat
  at_ : Nat
  vc : List Nat
  sys : Bool
  deriving DecidableEq, Repr, Inhabited

/-- A posted store that is not yet applied or acknowledged (R101, R103, R111). -/
structure Posted where
  w : WKey
  lane : Nat
  gid : Nat
  bytes : List Host.Cell
  vault : Bool
  sset : Option Nat
  /-- A lateral vault store still on its way (04_memory_hierarchy.md R101): it is applied at its arrival, from cycle `due` on. -/
  wait : Bool := false
  at_ : Nat := 0
  due : Nat := 0
  vc : List Nat := []
  /-- The tag that it took when it was applied (R111). -/
  tag : W32 := 0
  deriving DecidableEq, Repr, Inhabited

/-- D0's line of a host page (05 R125, 13_host_and_system.md R257). -/
structure HostLine where
  data : List Byte
  dirty : List Bool
  /-- CXL.cache state: 0 Invalid, 1 Shared, 2 Exclusive, 3 Modified; and the half, by its number, that a snoop has left Shared beside a half that
  D0 still owns. -/
  cxl : Nat
  shared : Option Nat := none
  deriving DecidableEq, Repr, Inhabited

/-- A walk in progress (R93): the context, the 64 KiB page walked, the core that asked, and whether it was a prefetch. -/
structure Walk where
  ctx : Nat
  va : Nat
  core : Nat
  due : Nat
  pref : Option (Nat × BitVec 2 × Bool)
    /-- The group that asked. -/
  gid : Nat := 0
  deriving DecidableEq, Repr, Inhabited

/-- A place damaged by an uncorrectable soft error (11_traps_and_preemption.md R218, R229). `good` holds the bytes of the line or
unit that stores have covered since. -/
inductive Damage where
  /-- A register, predicate or k register of a thread, by operand code (088h). -/
  | reg (w : WKey) (lane : Nat) (code : Nat)
  /-- An L1 data line (089h), an L1 instruction line (08Ah) of a core, by line key. -/
  | l1 (core line : Nat) (good : Nat)
  | icache (core line : Nat)
  /-- A 256-byte unit of a group's scratch (08Bh). -/
  | scratch (gid unit : Nat) (good : Nat)
  /-- A home line in the L2, vault or Scarp memory, by line key (08Ch, 08Dh, 08Eh). -/
  | l2 (line : Nat) (good : Nat)
  | vault (line : Nat) (good : Nat)
  | scarp (line : Nat) (good : Nat)
  /-- Accumulator n of an engine, or with n = 4 its scale cache (08Fh). -/
  | acc (core n : Nat)
  /-- A cached translation (090h). -/
  | tlb (ctx va : Nat)
  deriving DecidableEq, Repr, Inhabited

/-- What a slice counts in a sampling interval (14_determinism_and_debug.md Table 14.6). -/
structure SliceCounts where
  hits : Nat := 0
  misses : Nat := 0
  grants : Nat := 0
  drains : Nat := 0
  deriving DecidableEq, Repr, Inhabited

/-- The memory system but for memory itself. -/
structure MemSys where
  l1 : Tab (Tab L1Tag) := []
  /-- By core and line: the bytes, the last use and the way (15_instruction_formats.md R303). -/
  icache : Tab (Tab (List Byte × Nat × Nat)) := []
  /-- Instruction lines asked of the host and not yet used: core, line and bytes (13_host_and_system.md R257, 14_determinism_and_debug.md R270). -/
  ifetch : List (Nat × Nat × List Byte) := []
  l2 : Tab L2Line := []
  hostLines : Tab HostLine := []
  tags : Tab W32 := []
  /-- The vector clock of the writes applied to a line (05 R122). -/
  lineVc : Tab (List Nat) := []
  releases : List Release := []
  /-- Blocks owned by a core (R123): first byte, core and length. -/
  owners : Tab (Nat × Nat) := []
  /-- Ownership asked for and recalled: the core that asks, the key, and whether the recall has been answered. -/
  ownWait : List (Nat × Nat × Bool) := []
  /-- Copies of lines by die (R121). -/
  copies : Tab (Tab (List Byte)) := []
  forwards : Vector (List Forward) 8 := Vector.replicate 8 []
  vc : Vector (List Nat) 8 := Vector.replicate 8 [0, 0, 0, 0, 0, 0, 0, 0]
  /-- MODEL: the later of the clocks of the synchronising releases at .pkg so far (R129, log 74). -/
  syncVc : List Nat := []
  posted : List Posted := []
  /-- The tag that the last acknowledgement returned to a thread, by 32 places of its warp and its lane (R111). -/
  ackTag : Tab W32 := []
  /-- Drains asked of a core for what was dirty at a cycle, and those done and not acknowledged (R118). -/
  drainReq : List (Nat × Nat) := []
  drainAck : List (Nat × Nat) := []
  tlb : Tab (List TlbEntry) := []
  tcache : Vector (List TlbEntry) 8 := Vector.replicate 8 []
  walks : Vector (List Walk) 8 := Vector.replicate 8 []
  damage : List Damage := []
  /-- What the slices and the vaults count in a sampling interval (14_determinism_and_debug.md R285), by 64 places of the die and the slice, and
  by 16 of the die and the vault: local and lateral accesses. -/
  sliceN : Tab SliceCounts := []
  vaultN : Tab (Nat × Nat) := []
  /-- Errors without a requester, found at an eviction or a drain and not yet recorded: code, die and line; and the damaged L1 lines that
  are retained, by core (11_traps_and_preemption.md R229). -/
  found : List (Nat × Nat × Nat) := []
  l1Kept : List (Nat × Nat) := []
  deriving DecidableEq, Repr, Inhabited

/-! ### The fault queue (11_traps_and_preemption.md R227, R228) -/

/-- A fault record (Table 11.3). -/
structure FaultRec where
  code : Nat
  kind : Nat
  recov : Bool := false
  lanes : W32 := 0
  addr : W64 := 0
  ipc : W64 := 0
  rgnpc : W64 := 0
  rgnctr : W32 := 0
  ctx : Nat := 0
  core : Nat := 0
  slot : Nat := 0
  quad : Nat := 0
  inh : Bool := false
  obj : Nat := 0
  cycle : Nat := 0
  seq : Nat := 0
  /-- The engine, copy or collective command that stopped (not part of the record's bytes). -/
  cmd : Option Nat := none
  /-- The group of a record of KIND 0, 2 or 3. -/
  gid : Nat := 0
  /-- A save of the group has ended the record before it was written (R234). -/
  ended : Bool := false
  deriving DecidableEq, Repr, Inhabited

/-- The fault queue of a die (Table 11.4). -/
structure FaultQ where
  base : W64 := 0
  en : Bool := false
  ie : Bool := false
  full : Bool := false
  derr : Bool := false
  size : Nat := 0
  tail : W32 := 0
  head : W32 := 0
  next : W32 := 1
  /-- Records of the present cycle, which are put in their order at its end (R227). -/
  fresh : List FaultRec := []
  waiting : List FaultRec := []
  outstanding : List FaultRec := []
  deriving DecidableEq, Repr, Inhabited

/-! ### Tenure (06_tile_tenure.md) -/

/-- A store or atomic held at its home until a tenure ends (R140): its thread, the keys, the bytes of a store, or the operation of
an atomic with its destination, and whether it lies in the spill region (R138). -/
structure HeldStore where
  id : Nat
  w : WKey
  lane : Nat
  gid : Nat
  keys : List Nat
  bytes : List Byte
  /-- An atomic: operation (none for ACAS), format, operand, ACAS new value; and its order and scope. -/
  atomic : Option (Option RedOp × Fmt × Nat × Nat × Opd) := none
  ord : Order := .none
  sc : Scope := .grp
  vc : List Nat := []
  spilled : Bool := false
  /-- It goes to a page with SC = 1 (05_consistency.md R124). -/
  strict : Bool := false
  /-- The cycle in which it was made. -/
  at_ : Nat := 0
  /-- The engine, copy or collective command that wrote it. -/
  cmd : Option Nat := none
  deriving DecidableEq, Repr, Inhabited

/-- A tenure of a footprint (R133 to R140): queued, held or releasing, with the shadow bytes of a write holder. -/
structure Tenure where
  gid : Nat
  /-- The handle; 64 for a command's implicit tenure. -/
  handle : Nat
  write : Bool
  /-- 0 queued, 1 held, 2 releasing. -/
  st : Nat
  /-- Physical blocks of 512 bytes, as (first byte, length). -/
  foot : List (Nat × Nat)
  shadow : Tab Byte := []
  held : List HeldStore := []
  /-- The holder's writes that wait at the home for spill room, oldest first, with their vector clocks (R138). -/
  wait : List (List Host.Cell × List Nat) := []
  /-- The tiled pages of the footprint: first byte, length and tile size (04_memory_hierarchy.md R107). -/
  tiled : List (Nat × Nat × Nat) := []
  /-- The releases that stand behind the release of a releasing tenure (05_consistency.md R118). -/
  seen : List (Nat × Nat) := []
  /-- The place in tenure order (R134). -/
  order : Nat := 0
  scope : Scope := .pkg
  core : Nat := 0
  /-- The engine command or copy command that holds it implicitly (R143). -/
  cmd : Option Nat := none
  vc : List Nat := []
  /-- What a releasing handle becomes: Bound, or Unbound. -/
  toBound : Bool := false
  /-- TENR.try granted it: the cycle, the path's warp and threads, and the destination (R134, log 77). -/
  tryBy : Option (Nat × WKey × W32 × Opd) := none
  deriving DecidableEq, Repr, Inhabited

/-! ### Engines (08_tensor_engines.md) -/

/-- An engine command: a tile instruction, or a tile task (R176, R179, R187). -/
structure ECmd where
  id : Nat
  /-- Table 8.4's OP: 1 TMMA, 2 TLDACC, 3 TSTACC, 4 TZACC, 5 TCVT; 6 the MMA of a task. -/
  op : Nat
  /-- Copies of the entries named: A or the source; B; the target of TSTACC, TCVT or a task. -/
  a : BitVec 1024 := 0
  b : BitVec 1024 := 0
  d : BitVec 1024 := 0
  m0 : Nat := 0
  n0 : Nat := 0
  k0 : Nat := 0
  klen : Nat := 0
  m1 : Nat := 0
  n1 : Nat := 0
  acc : Nat := 0
  fmt : Fmt := .f32
  sat : Bool := false
  ldc : Bool := false
  fl : EFlags := { sc := .grp, acq := false, rel := false, it := false }
  ctx : Nat := 0
  gid : Nat := 0
  user : Bool := false
  /-- The issuing path. -/
  w : WKey := { core := 0, quad := 0, slot := 0 }
  lanes : W32 := 0
  pc : W64 := 0
  done : Nat := 0
  nstep : Nat := 1
  started : Bool := false
  stopped : Bool := false
  /-- The cycle from which its next step may complete. -/
  due : Nat := 0
  /-- The task-table index of a tile task. -/
  task : Option Nat := none
  hint : BitVec 2 := 1
  deriving DecidableEq, Repr, Inhabited

/-- The matrix engine of a core: the group that holds the reservation (R175), its commands, oldest first, s.rprog (Table 8.4), the
accumulators as their elements other than +0 by 128 m + n, and the scale cache (R172) by line key with last use. -/
structure Engine where
  owner : Option Nat := none
  queue : List ECmd := []
  done : Nat := 0
  nstep : Nat := 0
  op : Nat := 0
  stop : Bool := false
  acc : Vector (Tab W32) 4 := Vector.replicate 4 []
  scale : Tab (List Byte × Nat) := []
  deriving DecidableEq, Repr, Inhabited

/-- An entry of a die's task table (R185 to R187): the record, its context, the issuer, its place in push order, what it is doing
(0 queued, 1 granted, 2 stopped at a fault) and the steps completed. -/
structure Task where
  rcd : BitVec 512
  ctx : Nat
  gid : Nat
  core : Nat
  user : Bool
  seq : Nat
  st : Nat := 0
  /-- The command, with its copies of the entries, once the task has started. -/
  cmd : Option ECmd := none
  deriving DecidableEq, Repr, Inhabited

/-- A failed task, for TWAITK (R188). -/
structure TaskFail where
  die : Nat
  ctx : Nat
  tag : Nat
  seq : Nat
  code : Nat
  deriving DecidableEq, Repr, Inhabited

/-! ### Copies (09_copies_and_channels.md) -/

/-- A copy command (R190): ACOPY (kind 0), ACOPYT (1), ACOPYR (2). -/
structure CCmd where
  id : Nat
  kind : Nat
  gid : Nat
  ctx : Nat
  user : Bool
  /-- The issuing path's place and instruction. -/
  w : WKey
  pc : W64
  /-- The completion header's scratch offset (R191). -/
  hdr : Nat
  /-- ACOPY: the destination and source of each lane, their size and spaces, and the chunk bit; and the requests, by their place, that an
  operation of an earlier command has carried (R195). -/
  reqs : List (Nat × Nat) := []
  moved : List Nat := []
  size : Nat := 0
  dsp : Space := .virt
  ssp : Space := .virt
  bit : Nat := 0
  /-- ACOPYT and ACOPYR: the entry's copy, the origin, the local address and format, and the direction. -/
  t : BitVec 1024 := 0
  org : List Nat := []
  loc : Nat := 0
  vlt : Bool := false
  lfmt : Option Fmt := none
  sat : Bool := false
  toMem : Bool := false
  op : RedOp := .add
  fl : EFlags := { sc := .grp, acq := false, rel := false, it := false }
  hint : BitVec 2 := 1
  prio : Nat := 0
  started : Bool := false
  /-- Stopped at a recoverable fault (R192). -/
  stopped : Bool := false
  /-- Held for a saved group (R193). -/
  kept : Bool := false
  /-- The next chunk; a chunk whose writes are made and whose bit is not set, with the cycle of its COUNT addition. -/
  next : Nat := 0
  pend : Option (Nat × Option Nat) := none
  due : Nat := 0
  /-- Source bytes that the host's responses bring: the chunk is moved when they are there (14_determinism_and_debug.md R270). -/
  got : Tab Byte := []
  deriving DecidableEq, Repr, Inhabited

/-- A saved group (R234, R238), by its save area: what the area does not show, which is device-private, beside the group and warps as
they were. -/
structure Saved where
  gid : Nat
  ctx : Nat
  area : W64
  lti : Nat
  group : Group
  warps : List (WKey × Warp)
  /-- The engine's commands, when the group holds the reservation. -/
  engine : Option Engine
  coal : List CCmd
  deriving DecidableEq, Repr, Inhabited

/-! ### The fabric (10_halyard_collectives.md, 12_pennants.md) -/

/-- A port (Table 10.1, HPSTATn). -/
structure HPort where
  up : Bool := false
  downev : Bool := false
  nover : Bool := false
  ver : Nat := 0
  lanes : Nat := 0
  retry : Nat := 0
  /-- Retries of the flit last sent again that have failed (R203). -/
  failed : Nat := 0
  deriving DecidableEq, Repr, Inhabited

/-- A collective command of a die (R206 to R212): its descriptor, its entry's copy, its ordinal, and its progress. -/
structure HCmd where
  id : Nat
  /-- 0 HLRED, 1 HLGATH, 2 HLROT. -/
  kind : Nat
  dsc : BitVec 512
  ent : BitVec 512
  succ : Nat
  ordinal : Nat
  ctx : Nat
  gid : Nat
  user : Bool
  w : WKey
  pc : W64
  hint : BitVec 2 := 1
  started : Bool := false
  stopped : Bool := false
  alt : Bool := false
  reroutes : Nat := 0
  /-- Chunks of its own that it has sent, the next sequence number, and the chunks not acknowledged, with the cycle of sending. -/
  own : Nat := 0
  seq : Nat := 0
  unacked : List (ChunkMsg × Nat) := []
  /-- Sequence numbers accepted from the predecessor, and the cycle of the last arrival. -/
  seen : List Nat := []
  last : Nat := 0
  deriving DecidableEq, Repr, Inhabited

/-- The status of a completed or failed collective command (R213); a later copy of one of its chunks is acknowledged again. -/
structure HStatus where
  die : Nat
  collid : Nat
  ordinal : Nat
  ctx : Nat
  tag : Nat
  id : Nat
  code : Nat
  reroutes : Nat
  deriving DecidableEq, Repr, Inhabited

/-- Who made a pennant send. -/
inductive SendSrc where
  | thread (w : WKey) (lane gid : Nat)
  | host (hq status : Nat)
  | fabric (port pkg die seq : Nat)
  deriving DecidableEq, Repr, Inhabited

/-- A pennant send (12_pennants.md R243 to R246): to this package's home die `die`, or, with `remote`, from the sending die to another
package; settled when `status` holds a value. -/
structure Send where
  id : Nat
  src : SendSrc
  die : Nat
  sender : W32
  pkg : Nat
  ctx : Nat
  lti : Nat
  grp : Nat
  num : Nat
  payload : W64
  wake : Bool
  remote : Bool := false
  seq : Nat := 0
  at_ : Nat
  status : Option Nat := none
  deriving DecidableEq, Repr, Inhabited

/-- MODEL: what the package has sent to the fabric. -/
inductive FabOut where
  | chunk (m : ChunkMsg)
  /-- Link control: the bitmap of the versions supported (R204). -/
  | versions (port map : Nat)
  | ack (port collid ordinal seq : Nat)
  | pennant (port : Nat) (m : PennantMsg)
  | timeRequest (port : Nat) (t1 : W64)
  | timeReply (port : Nat) (t1 t2 t3 : W64)
  deriving DecidableEq, Repr, Inhabited

/-! ### Host link (13_host_and_system.md) -/

/-- MSI-X (R262). The reset values are PRESUMED from PCI Express (log 12). -/
structure Msix where
  enable : Bool := false
  fmask : Bool := false
  mask : BitVec 16 := -1
  pend : BitVec 16 := 0
  /-- Messages sent, newest first. -/
  sent : List Nat := []
  deriving DecidableEq, Repr, Inhabited

/-! ### Gates, images, trace and sampling (14_determinism_and_debug.md) -/

/-- An arrival at a stamping gate (R273, Table 14.1): its kind, address, length of the request, payload, and the step it makes; a
memory read or write of the host makes its step from the other fields. -/
structure Arrival where
  kind : Nat
  addr : W64
  reqlen : Nat
  data : List Byte
  deriving DecidableEq, Repr, Inhabited

/-- A stamping gate (Table 14.2): its registers, the crossing queue, the arrivals that have crossed with their crossing and applied
cycles, and the live arrivals held while the gate replays without payload (R278). -/
structure Gate where
  base : W64 := 0
  en : Bool := false
  payload : Bool := true
  size : Nat := 0
  ovf : Bool := false
  tail : W32 := 0
  head : W32 := 0
  drops : W32 := 0
  gap : Bool := false
  queue : List Arrival := []
  crossed : List (Nat × Nat × Arrival) := []
  held : List Arrival := []
  deriving DecidableEq, Repr, Inhabited

/-- The trace of a die (Table 14.4, R283, R284): `last` is the cycle that the next DELTA counts from, `effect` the cycle of a trigger's
effect, `left` the records still written after it, `by_` the capability under which the trigger was armed. -/
structure Trace where
  base : W64 := 0
  en : Bool := false
  brs : Bool := false
  trs : Bool := false
  src : BitVec 3 := 0
  stopped : Bool := false
  size : Nat := 0
  post : W32 := 0
  cores : W64 := 0
  code : BitVec 9 := 0
  cyc : W64 := 0
  wr : W32 := 0
  last : Nat := 0
  effect : Option Nat := none
  left : Option Nat := none
  /-- Records lost since the last one that was written (R276, R284). -/
  lost : Nat := 0
  by_ : Option Nat := none
  deriving DecidableEq, Repr, Inhabited

/-- What a core counts in a sampling interval (R285, Table 14.6): issues on port A and B, parked thread-cycles, cycles with the matrix
engine and the copy engine busy. -/
structure Counts where
  portA : Nat := 0
  portB : Nat := 0
  parked : Nat := 0
  matrix : Nat := 0
  copy : Nat := 0
  deriving DecidableEq, Repr, Inhabited

/-- Tide-table sampling (Table 14.5): registers, the start of the interval, its held cycles and the cores' counts. -/
structure Tide where
  k : Nat := 0
  en : Bool := false
  base : W64 := 0
  rows : W32 := 0
  seq : W32 := 0
  start : Nat := 0
  heldCycles : Nat := 0
  counts : Tab Counts := []
  deriving DecidableEq, Repr, Inhabited

/-- The CXL.cache requests that the device issues (R257). -/
inductive HostKind where | rdShared | rdOwn | rdCurr | wrCur | dirtyEvict | cleanEvict
  deriving DecidableEq, Repr, Inhabited

/-- A message to the host: a reply (R27, R256 to R259), or a request of a 64-byte line with the bytes it carries (R257). -/
inductive HostReply where
  | request (kind : HostKind) (addr : Nat) (cells : List Host.Cell)
  | retry (tag : Nat)
  | unsupported (tag : Nat)
  | abort (tag : Nat)
  | config (tag : Nat) (val : W32)
  | read (off : Nat) (val : W64)
  /-- The management port's read of the image region (14_determinism_and_debug.md R280). -/
  | management (addr : Nat) (data : List Byte)
  | snoop (kind : SnoopKind) (line : Nat) (data : List Byte)
  deriving DecidableEq, Repr, Inhabited

/-- A request that waits for its response (R257): the address of its 64-byte line, and the thread or the engine or copy command that waits. -/
structure HostReq where
  kind : HostKind
  addr : Nat
  own : Option (WKey × Nat) := none
  cmd : Option Nat := none
  /-- The host queue whose agent made it (03_work_scheduling.md R79). -/
  hq : Option Nat := none
  deriving DecidableEq, Repr, Inhabited

/-! ### The package -/

/-- Everything that the flip-flops of the package hold: what an image keeps (14_determinism_and_debug.md R281). -/
structure Package where
  /-- The package cycle count (R271), modulo 2^64. -/
  cycle : Nat := 0
  /-- MODEL: how many cycles so far were held at the power cap (01_device_overview.md R25). -/
  heldN : Nat := 0
  warps : Tab Warp := []
  groups : Tab Group := []
  /-- The last slot that issued on port A in each quadrant, 7 after reset (02 R41); absent means 7. -/
  lastSlot : Tab Nat := []
  issue : List Issue := []
  nextId : Nat := 0
  sched : Vector DieSched 8 := Vector.replicate 8 {}
  hq : Vector HostQueue 16 := Vector.replicate 16 {}
  grow : Tab (List GrowReq) := []
  ssets : Tab SSet := []
  ctxs : Tab Ctx := []
  ctxRefused : Bool := false
  ctxFull : Bool := false
  ctxBadId : Bool := false
  ctxSel : W32 := 0
  ms : MemSys := {}
  fq : Vector FaultQ 8 := Vector.replicate 8 {}
  preempt : W32 := 0
  preemptWin : W32 := 0x01000040#32
  preTargets : List Nat := []
  preSuspend : Option Nat := none
  saved : List Saved := []
  ten : Tab Tenure := []
  /-- TNSPILLBASE, TNSPILLSIZE and TNSTAT.SPFULL of each die (06_tile_tenure.md Table 6.1). -/
  spillBase : Vector W64 8 := Vector.replicate 8 0
  spillSize : Vector W32 8 := Vector.replicate 8 0
  spillFull : Vector Bool 8 := Vector.replicate 8 false
  engines : Tab Engine := []
  /-- The task table of each die (R185), the failures that TWAITK reports, and TKSPILLBASE (Table 8.2). -/
  tasks : Vector (Tab Task) 8 := Vector.replicate 8 []
  taskFails : List TaskFail := []
  tkspill : Vector W64 8 := Vector.replicate 8 0
  /-- The coalescer of each core (R195), oldest first; the copy table of each die (R190); and the table index that a core's copy engine
  runs. -/
  coal : Tab (List CCmd) := []
  ctab : Vector (Tab CCmd) 8 := Vector.replicate 8 []
  crun : Tab Nat := []
  /-- Flushed groups that wait to start again: record, context, frames and age (11_traps_and_preemption.md R235). -/
  flushed : List (BitVec 256 × Nat × List (Nat × Nat) × Nat) := []
  /-- The power-cap step in effect, PWRCTL.CUR (13 Table 13.1). -/
  pwrCur : BitVec 2 := 0
  msix : Msix := {}
  /-- MBXBASE (R260, Table 13.1). -/
  mbxbase : W64 := 0
  /-- The ports, the fabric identity, the collective tables and the time-alignment registers (Table 10.1). -/
  ports : Vector HPort 32 := Vector.replicate 32 {}
  hlpkgid : BitVec 16 := 0
  hlctbase : Vector W64 8 := Vector.replicate 8 0
  hltctl : W32 := 0
  hltoff : W64 := 0
  hltdly : W32 := 0
  /-- The collective commands of each die (R207, R208), oldest first; commands issued on each entry by 256 die + CE; statuses; and
  chunks held back by link credits. -/
  coll : Vector (List HCmd) 8 := Vector.replicate 8 []
  collOrd : Tab Nat := []
  collStat : List HStatus := []
  collHeld : List ChunkMsg := []
  /-- Pennant sends not yet settled or taken, the last sequence number of each die, and numbers seen from peers (12 R245, R246). -/
  sends : List Send := []
  pnSeq : Vector Nat 8 := Vector.replicate 8 0
  pnSeen : List (Nat × Nat × Nat) := []
  /-- PNHQSEL (12 Table 12.3). -/
  pnhqsel : BitVec 16 := 0
  /-- The power cap (13_host_and_system.md Table 13.1): PWRCYC, STEP, the command that waits with its cycle, THERM and the cycle of the step
  that a thermal trip commands. -/
  pwrcyc : W64 := 0
  pwrStep : BitVec 2 := 0
  pwrCmd : Option (BitVec 2 × Nat) := none
  therm : Bool := false
  thermAt : Option Nat := none
  /-- The attestation request in progress, with the index its result carries (R266). -/
  att : Option (W64 × W32) := none
  /-- Message addresses and data of the MSI-X table, by word (R262). -/
  msixWords : Tab W32 := []
  /-- The replaying gates, REPLAYSTAT's NOREPLAY, SOFT and DIVERGE, NRCYC and the gates (14_determinism_and_debug.md Tables 14.2, 14.3). -/
  replay : W64 := 0
  noReplay : Bool := false
  soft : Bool := false
  diverge : Bool := false
  nrcyc : W64 := 0
  gates : Vector Gate 34 := Vector.replicate 34 {}
  /-- Requests to the host that wait for their responses, oldest first; and while gate 0 replays, the bytes that logged responses have given
  (14_determinism_and_debug.md R277). -/
  hostReqs : List HostReq := []
  hostLog : Memory := []
  /-- BAR0's base address (R258). -/
  bar0 : W64 := 0
  /-- The refreshes of each Scarp stack, two stacks a die (R272). -/
  refreshes : Vector Nat 16 := Vector.replicate 16 0
  trace : Vector Trace 8 := Vector.replicate 8 {}
  /-- Records of a die that wait for the log path (14_determinism_and_debug.md R276). -/
  logWait : Vector Nat 8 := Vector.replicate 8 0
  /-- Branches taken by the instruction being executed: lane and target (R284). -/
  branched : List (Nat × W64) := []
  tide : Tide := {}
  /-- DCAPBASE; revocations that take effect at a cycle (R288); the capability under which the next DBGHALT event acts. -/
  dcapbase : W64 := 0
  revoked : List (Nat × Nat) := []
  dbgBy : Option Nat := none
  /-- Events that take effect at a later cycle. -/
  timed : List (Nat × Instr) := []
  /-- MODEL: the events due in the present cycle and not yet taken (log 5). -/
  agenda : List Instr := []
  /-- MODEL: selects the next free value (log 4). -/
  freeCtr : Nat := 0
  /-- The path whose instruction is being executed. -/
  cur : Option Cursor := none
  deriving DecidableEq, Repr, Inhabited

/-- An image (14_determinism_and_debug.md R281): the stop cycle's package state, and the bytes of the vaults and of the L2's lines. -/
structure Image where
  pkg : Package
  data : Memory
  deriving DecidableEq, Repr, Inhabited

/-- The machine: the package, memory, and what a package reset keeps. -/
structure State extends Package where
  /-- Scarp memory at its physical address, host memory from 2^52, the vaults from 2^53: the values at their ordering points. -/
  mem : Memory := []
  /-- MODEL: a device structure lies at an address that does not exist (log 10). -/
  stop : Option Fault := none
  /-- MODEL: what has been sent to the fabric, newest first. -/
  fabOut : List FabOut := []
  /-- REPLAYCTL, REPLAYEND, SLACKSTOP, SWSTAT, IMGBASE and IMGSIZE, which a package reset keeps (14_determinism_and_debug.md R282). -/
  replayCtl : W64 := 0
  replayEnd : W64 := 0
  slackStop : W64 := 0
  swState : BitVec 2 := 0
  swErr : BitVec 2 := 0
  imgBase : W64 := 0
  imgSize : W32 := 0
  /-- MODEL: the images written: what they hold (R281). -/
  images : List Image := []
  /-- HEAD and TAIL of the gates when RESTORE was written (22_programs_calls_and_replay.md R413). -/
  restoreGates : List (W32 × W32) := []
  /-- Power applied, held in reset, completed steps of the start-up sequence, and BOOTSTAT (01_device_overview.md R26, 13 Table 13.1);
  whether the firmware has been verified or refused. -/
  power : Bool := true
  inReset : Bool := false
  startup : Nat := 0
  ready : Bool := false
  /-- MODEL: the first cycle after the package reported ready, cycle 0, has begun. -/
  began : Bool := false
  verified : Bool := false
  bootErr : BitVec 2 := 0
  /-- The boot controller has finished, and what it found: 0 for a verified image (R266). -/
  bootDone : Bool := false
  bootRes : BitVec 2 := 0
  /-- Reference-clock steps after the 128th in which boundaries still train (01_device_overview.md R26). -/
  training : Nat := 0
  /-- MODEL: what verification will find (Table 13.1, ERR) and the image's security version: inputs. -/
  firmware : BitVec 2 := 0
  fwVersion : Nat := 0
  /-- Fuses: the security-version floor, and counter fuses burnt (R266). -/
  secFloor : Nat := 0
  attUsed : Nat := 0
  /-- The host link's trained width and rate (R256), and the version negotiated at link-up (R265). -/
  linkWidth : Nat := 16
  linkRate : Nat := 128
  linkVer : Nat := 7
  /-- MODEL: messages that the links will deliver: gate, cycle and arrival, oldest first (log 5). -/
  link : List (Nat × Nat × Arrival) := []
  /-- MODEL: replies to the host, newest first. -/
  hostOut : List HostReply := []
  deriving DecidableEq, Repr, Inhabited

/-- The machine right after reset. -/
def State.reset : State := {}

end Sys2Proof.Machine

/-! ### Free values of the machine's types -/

/-- Byte b of section i of an image (14_determinism_and_debug.md R281; log 8). DESIGN CHOICE: the contents are device-private. -/
opaque Sys2Proof.Config.sectionByte : Sys2Proof.Machine.Image → Nat → Nat → Sys2Proof.Byte
/-- What a restore loads from an image region that the device did not write, all of whose CRCs are right (R282; log 45). DESIGN CHOICE. -/
opaque Sys2Proof.Config.otherImage : Sys2Proof.Machine.Memory → Sys2Proof.Machine.Image
end

