-- ==== Sys2Proof/Machine/Ops.lean ====
section
/-! DEFINITION. Named operations over tables, memory at its ordering points, warps and threads; posting a fault record; taking
a trap and returning from one (11_traps_and_preemption.md R220 to R223, R227). -/
namespace Sys2Proof.Machine

/-! ### Tables and memory -/

namespace Tab
/-- The entry of a key. -/
def get? {α : Type} : Tab α → Nat → Option α
  | [], _ => none
  | (j, x) :: t, k => if j = k then some x else get? t k
/-- The entry of a key, or a default. -/
def getD {α : Type} (t : Tab α) (k : Nat) (d : α) : α := (get? t k).getD d
/-- Sets the entry of a key, keys rising. -/
def put {α : Type} : Tab α → Nat → α → Tab α
  | [], k, x => [(k, x)]
  | (j, y) :: t, k, x => if j < k then (j, y) :: put t k x else if j = k then (k, x) :: t else (k, x) :: (j, y) :: t
/-- Removes the entry of a key. -/
def del {α : Type} (t : Tab α) (k : Nat) : Tab α := t.filter fun e => e.1 != k
/-- The lowest natural number that is no key, from k on. -/
def freeFrom {α : Type} (t : Tab α) : Nat → Nat → Nat
  | 0, k => k
  | n + 1, k => if (get? t k).isSome then freeFrom t n (k + 1) else k
end Tab

namespace Memory
/-- The byte at an address; an unlisted address reads zero (log 1). -/
def get : Memory → Nat → Byte
  | [], _ => 0
  | (j, x) :: t, k => if j = k then x else get t k
/-- Writes one byte and keeps the canonical form. -/
def put : Memory → Nat → Byte → Memory
  | [], k, x => if x = 0 then [] else [(k, x)]
  | (j, y) :: t, k, x =>
    if j < k then (j, y) :: put t k x
    else if j = k then (if x = 0 then t else (k, x) :: t)
    else if x = 0 then (j, y) :: t else (k, x) :: (j, y) :: t
/-- Writes each cell in turn. -/
def putAll (m : Memory) (cs : List Host.Cell) : Memory := cs.foldl (fun m c => m.put c.1 c.2) m
/-- n bytes from an address. -/
def read (m : Memory) (a n : Nat) : List Byte := (List.range n).map fun i => m.get (a + i)
/-- The cells of bytes laid from an address. -/
def cells (a : Nat) (bs : List Byte) : List Host.Cell := (List.range bs.length).zip bs |>.map fun p => (a + p.1, p.2)
/-- Keys rise strictly from a bound and no byte is zero. -/
def wfFrom : Nat → Memory → Bool
  | _, [] => true
  | lo, (k, x) :: t => decide (lo ≤ k) && x != 0 && wfFrom (k + 1) t
/-- The canonical form. -/
def wf (m : Memory) : Bool := wfFrom 0 m
end Memory

/-- The outcome of a meaning: the machine stops when a device structure lay at an address that does not exist (log 10). -/
def done (s : State) : Host.Outcome State Fault Refusal :=
  match s.stop with
  | some f => .fault f
  | none => .next s

/-- Takes the next free number (log 4). -/
def free (s : State) : Nat × State := (Config.freeNat s.freeCtr, { s with freeCtr := s.freeCtr + 1 })

/-- Places an event at the front of the agenda. -/
def due (s : State) (i : Instr) : State := { s with agenda := i :: s.agenda }
/-- Places an event at the end of the agenda of the present cycle. -/
def lastly (s : State) (i : Instr) : State := { s with agenda := s.agenda ++ [i] }
/-- The same, where the cycle does not hold it yet. -/
def once (s : State) (i : Instr) : State := if s.agenda.contains i then s else lastly s i

/-! ### Physical keys -/

/-- The key of a host physical address. -/
def hostKey (a : Nat) : Nat := 2 ^ 52 + a
/-- The key of a vault address (04_memory_hierarchy.md R101). -/
def vaultKey (a : Nat) : Nat := 2 ^ 53 + a
/-- The key names host memory. -/
def isHost (k : Nat) : Bool := 2 ^ 52 ≤ k && k < 2 ^ 53
/-- The key names a vault. -/
def isVault (k : Nat) : Bool := 2 ^ 53 ≤ k
/-- The home die of a key (R90, R101, R107). -/
def homeDie (k : Nat) : Nat := if isVault k then natBits (k - 2 ^ 53) 32 30 else if isHost k then 0 else natBits k 39 37
/-- The package address of a structure exists (R90). -/
def scarpOk (a : Nat) : Bool := a < 2 ^ 40

/-- The six-bit fields of R107. -/
def sliceXor (pa : Nat) : Nat → Nat
  | 0 => 0
  | n + 1 => Nat.xor (sliceXor pa n) (natBits pa (min (6 * n + 14) 51) (6 * n + 9))
/-- The home slice of a physical address (R107). -/
def sliceOf (pa : Nat) (tiled : Bool) (ts : Nat) : Nat := if tiled then natBits pa (ts + 5) ts else sliceXor pa 8
/-- The L2 set of a physical address (R104). -/
def l2Set (pa : Nat) : Nat := Nat.xor (natBits pa 15 7) (natBits pa 24 16)

/-- The key lies inside the mailbox window (13_host_and_system.md R260). -/
def inWindow (s : State) (k : Nat) : Bool :=
  s.mbxbase.getLsbD 0 && isHost k && natBits (k - 2 ^ 52) 51 28 == bits s.mbxbase 51 28

/-! ### The home image -/

/-- A byte of host memory: while gate 0 replays, what the logged responses gave (14_determinism_and_debug.md R277). -/
def hostByte (s : State) (k : Nat) : Byte := if s.replay.getLsbD 0 then s.hostLog.get k else s.mem.get k

/-- The byte at its ordering point: D0's line of a host page when it holds one (05_consistency.md R125), else memory. -/
def homeByte (s : State) (k : Nat) : Byte :=
  if isHost k then
    match s.ms.hostLines.get? (k / 128) with
    | some h => h.data.getD (k % 128) 0
    | none => hostByte s k
  else s.mem.get k
/-- n bytes at their ordering point. -/
def homeRead (s : State) (k n : Nat) : List Byte := (List.range n).map fun i => homeByte s (k + i)

/-! ### Copies and lines of the L2 (R121, 04_memory_hierarchy.md R104 to R106) -/

/-- The key of a die's copy of a line in the table of L2 lines; a home line has its own number as key. -/
def copyKey (die line : Nat) : Nat := 2 ^ 48 * (die + 1) + line
/-- The key of a shadow line (06_tile_tenure.md R138) in the table of L2 lines. -/
def shadowKey (line : Nat) : Nat := 2 ^ 52 + line
/-- The line that a key of the table of L2 lines stands for. -/
def l2LineOf (key : Nat) : Nat := key % 2 ^ 48
/-- The die whose L2 holds it. -/
def l2Die (key : Nat) : Nat := if 2 ^ 48 ≤ key ∧ key < 2 ^ 52 then key / 2 ^ 48 - 1 else homeDie (l2LineOf key * 128)

/-- A die's copy of a line goes, and with it the writes that were forwarded to it (R121): a copy made afresh from the home has them. -/
def dropCopy (s : State) (die line : Nat) : State :=
  { s with
    ms.copies := s.ms.copies.put die ((s.ms.copies.getD die []).del line)
    ms.forwards := s.ms.forwards.setIfInBounds die ((s.ms.forwards.getD die []).filter fun f => f.line != line)
    ms.l2 := s.ms.l2.del (copyKey die line) }
/-- The dies that hold a copy of a line. -/
def copyDies (s : State) (line : Nat) : List Nat := (List.range 8).filter fun d => ((s.ms.copies.getD d []).get? line).isSome
/-- Every die's copy of a line goes. -/
def dropCopies (s : State) (line : Nat) : State := (copyDies s line).foldl (fun s d => dropCopy s d line) s

/-- Entry j of a gate's log (14_determinism_and_debug.md R275, Table 14.1). -/
def logEntry (s : State) (n j : Nat) : BitVec 1024 :=
  let g := s.gates.getD n {}
  BitVec.ofNat 1024 (ofBytes (homeRead s (g.base.toNat + 128 * (j % 2 ^ (g.size + 2))) 128))

/-- The request reads its line. -/
def HostKind.reads : HostKind → Bool
  | .rdShared | .rdOwn | .rdCurr => true
  | .wrCur | .dirtyEvict | .cleanEvict => false

/-- The logged response that a read of a host line will draw while gate 0 replays (R277): the first that no earlier read awaits. -/
def loggedReply (s : State) (a : Nat) : Option (List Byte) :=
  let g := s.gates.getD 0 {}
  let es := (List.range (g.tail - g.head).toNat).map fun i => logEntry s 0 (g.head.toNat + i)
  -- an entry with data answers a read, one without a write
  let mine := es.filter fun e => bits e 143 136 == 6 && bits e 255 192 == a && bits e 150 144 != 0
  let before := (s.hostReqs.filter fun q => q.addr == a && q.kind.reads).length
  (mine[before]?).map fun e => toBytes 64 (bits e 767 256)

/-- A request of a 64-byte line of host memory leaves (R257): its response is an arrival at gate 0 (R273). The data of a read is what host memory
holds now. While gate 0 replays the request is discarded: a write changes nothing, and the data of a read is that of the logged response
(log 3). -/
def hostSend (s : State) (kind : HostKind) (a : Nat) (cs : List Host.Cell) : State :=
  let r := free s
  let reqs := s.hostReqs ++ [{ kind := kind, addr := a }]
  if s.replay.getLsbD 0 then
    let bs := if kind.reads then (loggedReply s a).getD [] else []
    { r.2 with hostReqs := reqs, hostLog := s.hostLog.putAll (Memory.cells (hostKey a) bs) }
  else
    let m : Arrival := { kind := 6, addr := BitVec.ofNat 64 a, reqlen := 0, data := if kind.reads then s.mem.read (hostKey a) 64 else [] }
    { r.2 with
      hostReqs := reqs, mem := if kind.reads then s.mem else s.mem.putAll cs
      hostOut := .request kind a cs :: s.hostOut, link := s.link ++ [(0, s.cycle + r.1, m)] }

/-- A read of a line that the home does not keep (R257). -/
def hostAsk (s : State) (a : Nat) : State := hostSend s .rdCurr a []

/-- The 64-byte halves of a line of host memory, by address. -/
def hostHalves (line : Nat) : List Nat := [line * 128 - 2 ^ 52, line * 128 + 64 - 2 ^ 52]
/-- Some cells of a line go to the host, a request for each half that one lies in. -/
def hostPut (s : State) (kind : HostKind) (line : Nat) (cs : List Host.Cell) : State :=
  (hostHalves line).foldl (fun s a =>
    let mine := cs.filter fun c => hostKey a ≤ c.1 && c.1 < hostKey a + 64
    if mine.isEmpty then s else hostSend s kind a mine) s

/-- The dirty bytes of D0's line of a host page. -/
def HostLine.cells (h : HostLine) (line : Nat) : List Host.Cell :=
  (List.range 128).filterMap fun i => if h.dirty.getD i false then some (line * 128 + i, h.data.getD i 0) else none

/-- D0's line of a host page goes, and the copies of the other dies with it, so that the host's next store finds D0 to snoop (R125). -/
def hostForget (s : State) (line : Nat) : State :=
  let s := dropCopies s line
  { s with ms.hostLines := s.ms.hostLines.del line }

/-- Writes the dirty bytes of D0's line of a host page back to the host (R257, R261): outside the window each half by one WrCur, and the line stays;
a line of the window is held by CXL.cache, and leaves by DirtyEvict and CleanEvict. -/
def hostWriteBack (s : State) (line : Nat) : State :=
  match s.ms.hostLines.get? line with
  | none => s
  | some h =>
    let cs := h.cells line
    if cs.isEmpty then s
    else if !inWindow s (line * 128) then
      let s := hostPut s .wrCur line cs
      { s with ms.hostLines := s.ms.hostLines.put line { h with dirty := List.replicate 128 false } }
    else
      let clean := (hostHalves line).filter fun a => !cs.any fun c => hostKey a ≤ c.1 && c.1 < hostKey a + 64
      hostForget (clean.foldl (fun s a => hostSend s .cleanEvict a []) (hostPut s .dirtyEvict line cs)) line

/-- Drops D0's line of a host page after writing it back; a clean line of the window leaves by CleanEvict. -/
def hostDrop (s : State) (line : Nat) : State :=
  let s := hostWriteBack s line
  let s := if (s.ms.hostLines.get? line).isSome && inWindow s (line * 128) then
      (hostHalves line).foldl (fun s a => hostSend s .cleanEvict a []) s
    else s
  hostForget s line

/-- The 64-byte lines of host memory that some keys lie in, but for those that D0 holds, are read. -/
def hostAsks (s : State) (ks : List Nat) : State :=
  let need := ks.filter fun k => isHost k && (s.ms.hostLines.get? (k / 128)).isNone
  ((need.map fun k => (k - 2 ^ 52) / 64 * 64).eraseDups).foldl hostAsk s

/-- The 64-byte line of host memory with a key, while the response to a read of it is on its way. -/
def hostAwaited (s : State) (k : Nat) : Option Nat :=
  if isHost k then (s.hostReqs.find? fun q => q.kind.reads && q.addr == (k - 2 ^ 52) / 64 * 64).map (·.addr) else none

/-- The requests made since the first `n` belong to a thread, or to a command. -/
def markAsks (s : State) (n : Nat) (f : HostReq → HostReq) : State :=
  if s.hostReqs.length = n then s else { s with hostReqs := s.hostReqs.take n ++ (s.hostReqs.drop n).map f }
/-- The requests made since the first `n` belong to a thread. -/
def ownAsks (s : State) (n : Nat) (w : WKey) (l : Nat) : State := markAsks s n fun q => { q with own := some (w, l) }
/-- The requests made since the first `n` belong to a command. -/
def cmdAsks (s : State) (n id : Nat) : State := markAsks s n fun q => { q with cmd := some id }
/-- The requests of the threads of some warps belong to no thread any more: the warps have left their slots. -/
def disown (s : State) (p : WKey → Bool) : State :=
  { s with hostReqs := s.hostReqs.map fun q => if (q.own.map fun o => p o.1).getD false then { q with own := none } else q }
/-- A request of a command has no response yet. -/
def cmdWaits (s : State) (id : Nat) : Bool := s.hostReqs.any fun q => q.cmd == some id

/-- D0 takes a line of a host page from the host, in a CXL.cache state inside the window (R125, R257): RdShared, RdOwn to own it, and RdCurr outside
the window. -/
def hostFill (s : State) (line cxl : Nat) : State :=
  let ask := fun (s : State) (kind : HostKind) => (hostHalves line).foldl (fun s a => hostSend s kind a []) s
  match s.ms.hostLines.get? line with
  | some h =>
    let s := match h.shared with
      | some a => if 2 ≤ cxl then hostSend s .rdOwn a [] else s
      | none => s
    let h := if 2 ≤ cxl then { h with shared := none } else h
    if h.cxl < cxl then
      let s := if h.cxl < 2 ∧ 2 ≤ cxl then ask s .rdOwn else s
      { s with ms.hostLines := s.ms.hostLines.put line { h with cxl := cxl } }
    else { s with ms.hostLines := s.ms.hostLines.put line h }
  | none =>
    let s := ask s (if !inWindow s (line * 128) then .rdCurr else if 2 ≤ cxl then .rdOwn else .rdShared)
    let h : HostLine := { data := homeRead s (line * 128) 128, dirty := List.replicate 128 false, cxl := cxl }
    { s with ms.hostLines := s.ms.hostLines.put line h }

/-- The retention class that a victim choice counts (R105): an aged line of class 10b counts as 01b. -/
def countedClass (l : L2Line) : Nat := if l.cls = 2 ∧ l.aged then 1 else l.cls.toNat

/-- The lines of the L2 set and slice that a key maps to. -/
def l2Ways (s : State) (key slice : Nat) : List (Nat × L2Line) :=
  s.ms.l2.filter fun e =>
    e.2.slice == slice && l2Die e.1 == l2Die key && l2Set (l2LineOf e.1 * 128) == l2Set (l2LineOf key * 128)

/-- The victim among unpinned ways (R105). -/
def l2Victim (ws : List (Nat × L2Line)) : Option Nat :=
  let us := ws.filter fun e => !e.2.pinned && !e.2.retained
  us.foldl (fun (best : Option (Nat × L2Line)) e =>
      match best with
      | none => some e
      | some b =>
        let kb := (countedClass b.2, b.2.use, b.2.way)
        let ke := (countedClass e.2, e.2.use, e.2.way)
        if ke.1 < kb.1 ∨ (ke.1 = kb.1 ∧ (ke.2.1 < kb.2.1 ∨ (ke.2.1 = kb.2.1 ∧ ke.2.2 < kb.2.2))) then some e else some b) none
    |>.map (·.1)

/-- An L2 line leaves its way: a home line of a host page is written back, a copy is forgotten. -/
def l2Drop (s : State) (key : Nat) : State :=
  if key < 2 ^ 48 then
    let s := hostDrop s key
    { s with ms.l2 := s.ms.l2.del key }
  else dropCopy s (l2Die key) (l2LineOf key)

/-- An uncorrectable error of a home line, found as the line would leave its way: the line is retained, and a record of KIND 5 follows
(11_traps_and_preemption.md R229). -/
def l2Found (s : State) (key : Nat) : State :=
  { s with
    ms.l2 := match s.ms.l2.get? key with | some l => s.ms.l2.put key { l with retained := true } | none => s.ms.l2
    ms.found := s.ms.found ++ [(0x08C, l2Die key, key)] }

/-- A home line of the L2 is damaged. -/
def l2Damaged (s : State) (key : Nat) : Bool := s.ms.damage.any fun d => match d with | .l2 ln _ => ln == key | _ => false

/-- The way that a new line takes in its set (R105): the lowest invalid one, else that of the victim, which leaves it; none when every way
is pinned. -/
def l2Way (s : State) (key slice : Nat) : Nat → State × Option Nat
  | 0 => (s, none)
  | n + 1 =>
    let ws := l2Ways s key slice
    match (List.range 16).find? fun w => !(ws.map (·.2.way)).contains w with
    | some w => (s, some w)
    | none =>
      match l2Victim ws with
      | none => (s, none)
      | some v => l2Way (if l2Damaged s v then l2Found s v else l2Drop s v) key slice n

/-- A line takes a way of its set, unless every way is pinned. -/
def l2Alloc (s : State) (key slice : Nat) (x : L2Line) : State :=
  match l2Way s key slice 18 with
  | (s, some w) => { s with ms.l2 := s.ms.l2.put key { x with way := w, slice := slice } }
  | (s, none) => s

/-- A slice of a die counts while the tide table samples (14_determinism_and_debug.md R285). -/
def countSlice (s : State) (die slice : Nat) (f : SliceCounts → SliceCounts) : State :=
  if s.tide.en then { s with ms.sliceN := s.ms.sliceN.put (64 * die + slice) (f (s.ms.sliceN.getD (64 * die + slice) {})) } else s

/-- The hint of an access whose instruction does not have RH read (15_instruction_formats.md R293): the default, 01b (01_device_overview.md). -/
def plainHint : BitVec 2 := 1

/-- An access to a line of an L2 slice with a retention hint (R104, R105, R106). -/
def l2Access (s : State) (key slice : Nat) (hint : BitVec 2) : State :=
  let hit := (s.ms.l2.get? key).isSome
  let s := countSlice s (l2Die key) slice fun n => if hit then { n with hits := n.hits + 1 } else { n with misses := n.misses + 1 }
  match s.ms.l2.get? key with
  | some l => { s with ms.l2 := s.ms.l2.put key { l with use := s.cycle, cls := if hint = 3 then l.cls else hint, aged := false } }
  | none => if hint = 3 then s else l2Alloc s key slice { cls := hint, use := s.cycle }

/-- The slice of a line: that of its place in the L2, or of an untiled page. -/
def lineSlice (s : State) (line : Nat) : Nat := ((s.ms.l2.get? line).map (·.slice)).getD (sliceOf (line * 128 % 2 ^ 52) false 0)

/-- The lines that a list of cells touches. -/
def linesOf (cs : List Host.Cell) : List Nat := (cs.map (·.1 / 128)).eraseDups

/-- Bytes laid over a line held as a list. -/
def overlay (line : Nat) (data : List Byte) (cs : List Host.Cell) : List Byte :=
  (List.range 128).map fun i =>
    match cs.reverse.find? (fun c => c.1 == line * 128 + i) with
    | some c => c.2
    | none => data.getD i 0

/-- The vector clock of a die (R122). -/
def vcOf (s : State) (d : Nat) : List Nat := s.ms.vc.getD d []
/-- A release at .pkg or .sys on die d (R122). -/
def vcTick (s : State) (d : Nat) : State :=
  { s with ms.vc := s.ms.vc.setIfInBounds d ((vcOf s d).set d (((vcOf s d).getD d 0 + 1) % 2 ^ 32)) }
/-- a is entrywise at most b, modulo 2^32 (R122). -/
def vcLe (a b : List Nat) : Bool := (a.zip b).all fun p => (p.2 + 2 ^ 32 - p.1) % 2 ^ 32 < 2 ^ 31
/-- The entrywise later of two clocks (modulo 2^32). -/
def vcMax (a b : List Nat) : List Nat :=
  if a.isEmpty then b else if b.isEmpty then a else (a.zip b).map fun p => if (p.2 + 2 ^ 32 - p.1) % 2 ^ 32 < 2 ^ 31 then p.2 else p.1

/-- What a die has acquired stands before its later writes (R122): its clock takes in the clock acquired. -/
def vcMerge (s : State) (d : Nat) (vc : List Nat) : State :=
  if vc.isEmpty then s else { s with ms.vc := s.ms.vc.setIfInBounds d (vcMax (vcOf s d) vc) }

/-- The bytes of a unit that are good after a write to some of its cells. -/
def goodAfter (unit size good : Nat) (ks : List Nat) : Nat :=
  ks.foldl (fun g k => if k / size == unit then Nat.lor g (2 ^ (k % size)) else g) good

/-- Drops a unit's damage once every byte of it has been covered (11_traps_and_preemption.md R229). -/
def keepBad (size good : Nat) (d : Damage) : Option Damage := if good == 2 ^ size - 1 then none else some d

/-- The damage of home lines after a write to some keys. -/
def healHome (ds : List Damage) (ks : List Nat) : List Damage :=
  ds.filterMap fun d =>
    match d with
    | .l2 ln g => keepBad 128 (goodAfter ln 128 g ks) (.l2 ln (goodAfter ln 128 g ks))
    | .vault ln g => keepBad 128 (goodAfter ln 128 g ks) (.vault ln (goodAfter ln 128 g ks))
    | .scarp ln g => keepBad 128 (goodAfter ln 128 g ks) (.scarp ln (goodAfter ln 128 g ks))
    | d => some d

/-- A line whose damage has been covered is no longer retained (11_traps_and_preemption.md R229). -/
def unretain (s : State) (line : Nat) : State :=
  match s.ms.l2.get? line with
  | some l => if l.retained && !l2Damaged s line then { s with ms.l2 := s.ms.l2.put line { l with retained := false } } else s
  | none => s

/-- One line's part of a write made in a cycle: the line takes its next tag (R111), D0's host line takes the bytes, and the write is
forwarded to every other die that holds a copy (R121). -/
def homeLine (at_ : Nat) (vc : List Nat) (cs : List Host.Cell) (s : State) (line : Nat) : State :=
  let mine := cs.filter fun c => c.1 / 128 == line
  let tag := s.ms.tags.getD line 0 + 1
  let s := { s with
    ms.tags := s.ms.tags.put line tag
    ms.lineVc := if vc.isEmpty then s.ms.lineVc else s.ms.lineVc.put line (vcMax (s.ms.lineVc.getD line []) vc) }
  let s := if s.ms.damage.isEmpty then s else unretain { s with ms.damage := healHome s.ms.damage (mine.map Prod.fst) } line
  let s := if isHost (line * 128) && inWindow s (line * 128) && (s.ms.hostLines.get? line).isSome then hostFill s line 3 else s
  let s := match s.ms.hostLines.get? line with
    | some h =>
      let h' : HostLine :=
        { data := overlay line h.data mine, cxl := if inWindow s (line * 128) then 3 else h.cxl
          dirty := (List.range 128).map fun i => h.dirty.getD i false || mine.any fun c => c.1 == line * 128 + i }
      { s with ms.hostLines := s.ms.hostLines.put line h' }
    | none => if isHost (line * 128) then hostPut s .wrCur line mine else { s with mem := s.mem.putAll mine }
  let fw := (copyDies s line).foldl (fun (f : Vector (List Forward) 8) d =>
      f.setIfInBounds d (f.getD d [] ++ [{ line := line, tag := tag, bytes := mine, vc := vc, at_ := at_ }])) s.ms.forwards
  { s with ms.forwards := fw }

/-- A write of some cycle applied at its ordering point (R110, R111). -/
def homeWriteAt (s : State) (at_ : Nat) (vc : List Nat) (cs : List Host.Cell) : State := (linesOf cs).foldl (homeLine at_ vc cs) s
/-- A write applied at its ordering point in its own cycle. -/
def homeWrite (s : State) (vc : List Nat) (cs : List Host.Cell) : State := homeWriteAt s s.cycle vc cs

/-- The device writes bytes of its own structure at a package physical address (log 10). -/
def devWrite (s : State) (a : Nat) (bs : List Byte) : State :=
  if scarpOk (a + bs.length - 1) then homeWrite s [] (Memory.cells a bs) else { s with stop := some .noSuchAddress }
/-- The device reads bytes of its own structure at a package physical address. -/
def devRead (s : State) (a n : Nat) : List Byte := homeRead s a n
/-- A structure at a package physical address exists; otherwise the machine stops (log 10). -/
def devCheck (s : State) (a n : Nat) : State := if scarpOk (a + n - 1) then s else { s with stop := some .noSuchAddress }

/-! ### Warps, threads and groups -/

/-- The key of a warp's place (02_execution_model.md R30). -/
def wIdx (w : WKey) : Nat := w.core * 32 + w.quad * 8 + w.slot
/-- The place of a key. -/
def wKeyOf (i : Nat) : WKey := { core := i / 32, quad := i / 8 % 4, slot := i % 8 }
/-- The warp at a place. -/
def warpAt (s : State) (w : WKey) : Option Warp := s.warps.get? (wIdx w)
/-- Sets the warp at a place. -/
def setWarp (s : State) (w : WKey) (x : Warp) : State := { s with warps := s.warps.put (wIdx w) x }
/-- Changes the warp at a place, if there is one. -/
def updWarp (s : State) (w : WKey) (f : Warp → Warp) : State :=
  match warpAt s w with
  | some x => setWarp s w (f x)
  | none => s
/-- The thread of a warp. -/
def Warp.thr (x : Warp) (l : Nat) : Thread := x.th.getD l {}
/-- The thread at a place and lane. -/
def thrAt (s : State) (w : WKey) (l : Nat) : Thread := ((warpAt s w).map (·.thr l)).getD {}
/-- The thread runs: it is in no wait and not parked behind an engine command. -/
def Thread.runs (t : Thread) : Bool := t.st == .running && t.parkedBy.isNone
/-- The thread takes part in a vote (02_execution_model.md R39): it runs, or an instruction of its own is still executing, which is no wait of
R39's table: EXIT (17_reference_d_l.md R333), a release of tenure, an access that is not performed yet, or a send of its path (log 35). -/
def Thread.votes (t : Thread) : Bool :=
  t.parkedBy.isNone && match t.st with
    | .running | .exiting | .stall (.trel _) | .stall (.beside _) => true
    | .stall (.reissue y) => match y with | .room _ => false | _ => true
    | _ => false
/-- The address at which a thread votes: past an instruction that is still executing. -/
def Thread.votePc (t : Thread) : W64 :=
  match t.st with
  | .stall (.reissue (.fetch _)) => t.pc
  | .stall _ => t.pc + 12
  | _ => t.pc
/-- The thread is Parked, by a trap or behind an engine command (08_tensor_engines.md R183, 11_traps_and_preemption.md R223). -/
def Thread.isParked (t : Thread) : Bool := t.parkedBy.isSome || match t.st with | .parked | .engineParked _ => true | _ => false
/-- A cycle is held at the step in effect (R25). -/
def heldCycle (s : State) (c : Nat) : Bool := (s.pwrCur == 1 && c % 4 == 3) || (s.pwrCur == 2 && c % 2 == 1)
/-- A bound of n cycles from a cycle is reached in this cycle, or in the next one when that is held (01_device_overview.md R25). -/
def boundOver (s : State) (at_ n : Nat) : Bool := at_ + n ≤ s.cycle + (if heldCycle s (s.cycle + 1) then 1 else 0)
/-- The cycles so far that no power step held (01_device_overview.md R25). -/
def State.work (s : State) : Nat := s.cycle - s.heldN
/-- Changes a thread. -/
def updThr (s : State) (w : WKey) (l : Nat) (f : Thread → Thread) : State :=
  updWarp s w fun x => { x with th := x.th.setIfInBounds l (f (x.thr l)) }
/-- The group of a warp. -/
def groupOf (s : State) (w : WKey) : Option (Nat × Group) :=
  match warpAt s w with
  | some x => (s.groups.get? x.gid).map fun g => (x.gid, g)
  | none => none
/-- The group of a warp, or an empty one. -/
def grp (s : State) (w : WKey) : Group := ((groupOf s w).map (·.2)).getD {}
/-- The number of the group of a warp. -/
def gidOf (s : State) (w : WKey) : Nat := ((warpAt s w).map (·.gid)).getD 0
/-- Changes a group. -/
def updGroup (s : State) (gid : Nat) (f : Group → Group) : State :=
  match s.groups.get? gid with
  | some g => { s with groups := s.groups.put gid (f g) }
  | none => s
/-- The die of a core (01_device_overview.md R17). -/
def dieOf (core : Nat) : Nat := core / 64
/-- The cluster of a core on its die. -/
def clusterOf (core : Nat) : Nat := core / 4 % 16
/-- The context registers of a context (Table 18.1). -/
def ctxOf (s : State) (c : Nat) : Ctx := s.ctxs.getD c {}
/-- Changes the registers of a known context. -/
def updCtx (s : State) (c : Nat) (f : Ctx → Ctx) : State :=
  match s.ctxs.get? c with
  | some x => { s with ctxs := s.ctxs.put c (f x) }
  | none => s
/-- The scheduler of a die. -/
def schedOf (s : State) (d : Nat) : DieSched := s.sched.getD d {}
/-- Changes the scheduler of a die. -/
def updSched (s : State) (d : Nat) (f : DieSched → DieSched) : State :=
  { s with sched := s.sched.setIfInBounds d (f (schedOf s d)) }
/-- The launch-table entry of an LTI (03_work_scheduling.md R75): the die in bits 15:13. -/
def launchOf (s : State) (lti : Nat) : Option Launch := (schedOf s (lti / 8192)).launches.get? (lti % 8192)
/-- Changes a launch-table entry. -/
def updLaunch (s : State) (lti : Nat) (f : Launch → Launch) : State :=
  match launchOf s lti with
  | some x => updSched s (lti / 8192) fun d => { d with launches := d.launches.put (lti % 8192) (f x) }
  | none => s
/-- Bits hi:lo of a launch record (Table 3.2). -/
def Launch.f (l : Launch) (hi lo : Nat) : Nat := bits l.rcd hi lo
/-- Bits hi:lo of the launch record of a group; zero when the launch is gone. -/
def lrec (s : State) (g : Group) (hi lo : Nat) : Nat := ((launchOf s g.lti).map (·.f hi lo)).getD 0
/-- The member of a mask. -/
def hasLane (m : W32) (l : Nat) : Bool := m.getLsbD l
/-- The mask of the lanes that satisfy a test. -/
def maskOf (f : Nat → Bool) : W32 := BitVec.ofNat 32 ((List.range 32).foldl (fun a l => if f l then a + 2 ^ l else a) 0)
/-- The lanes of a mask in increasing order. -/
def lanesOf (m : W32) : List Nat := (List.range 32).filter fun l => hasLane m l
/-- Lanes whose thread has not exited (02 Table 2.1, s.live). -/
def liveMask (x : Warp) : W32 := maskOf fun l => (x.thr l).st != .exited

/-! ### Outbound messages, MSI-X and the fault queue -/

/-- A message leaves through a fabric port; a replaying gate discards it (14_determinism_and_debug.md R277). -/
def emit (s : State) (port : Nat) (m : FabOut) : State := if s.replay.getLsbD (port + 1) then s else { s with fabOut := m :: s.fabOut }

/-- An MSI-X message on a vector (13_host_and_system.md R262). -/
def msixRaise (s : State) (v : Nat) : State :=
  if !s.msix.enable then s
  else if s.msix.fmask || s.msix.mask.getLsbD v then { s with msix.pend := s.msix.pend ||| BitVec.ofNat 16 (2 ^ v) }
  else if s.replay.getLsbD 0 then s
  else { s with msix.sent := v :: s.msix.sent }

/-- The 64 bytes of a fault record (Table 11.3). -/
def FaultRec.bytes (r : FaultRec) : List Byte :=
  toBytes 2 r.code ++ toBytes 1 r.kind ++ toBytes 1 (if r.recov then 1 else 0) ++ toBytes 4 r.lanes.toNat ++
  toBytes 8 r.addr.toNat ++ toBytes 8 r.ipc.toNat ++ toBytes 8 r.rgnpc.toNat ++ toBytes 4 r.rgnctr.toNat ++ toBytes 2 r.ctx ++
  toBytes 2 r.core ++ toBytes 4 (r.slot + 8 * r.quad + (if r.inh then 32 else 0)) ++ toBytes 4 r.obj ++ toBytes 8 r.cycle ++
  toBytes 4 r.seq ++ toBytes 4 0

/-- The fault queue of a die. -/
def fqOf (s : State) (d : Nat) : FaultQ := s.fq.getD d {}
/-- Changes the fault queue of a die. -/
def updFq (s : State) (d : Nat) (f : FaultQ → FaultQ) : State := { s with fq := s.fq.setIfInBounds d (f (fqOf s d)) }
/-- Records the ring of a die holds (Table 11.4). -/
def FaultQ.ring (q : FaultQ) : Nat := 2 ^ (q.size + 6)
/-- The ring has room. -/
def FaultQ.room (q : FaultQ) : Bool := (q.tail - q.head).toNat < q.ring

/-- Writes the oldest waiting record of a die when its queue is enabled and has room (R227); FULL is set when it has none. -/
def fqPump (s : State) (d : Nat) : State :=
  let q := fqOf s d
  match q.waiting with
  | [] => s
  | r :: rs =>
    if !q.en then s
    else if !q.room then updFq s d fun q => { q with full := true }
    else
      let s := devWrite s (q.base.toNat / 4096 * 4096 + 64 * (q.tail.toNat % q.ring)) r.bytes
      let s := updFq s d fun q => { q with
        waiting := rs, tail := q.tail + 1
        outstanding := if r.kind ≤ 3 && !r.ended then q.outstanding ++ [r] else q.outstanding }
      if q.ie then msixRaise s d else s

/-- A record is raised in the present cycle (R227). -/
def postFault (s : State) (d : Nat) (r : FaultRec) : State :=
  updFq s d fun q => { q with fresh := q.fresh ++ [{ r with cycle := s.cycle }] }

/-- The order of records within a cycle (R227): threads in s.core and then lane order, then the others as they came. DEDUCED (log 67): a record of
KIND 0 stands among the threads, a tile instruction's too. -/
def FaultRec.rank (r : FaultRec) : Nat := if r.kind = 0 then r.core * 32 + ((lanesOf r.lanes).headD 0) else 512 * 32
/-- A record placed behind those that stand before it. -/
def putFresh (r : FaultRec) : List FaultRec → List FaultRec
  | [] => [r]
  | q :: qs => if r.rank < q.rank then r :: q :: qs else q :: putFresh r qs

/-- A record is given its sequence number and written, or waits in the die (R227). -/
def fqTake (d : Nat) (s : State) (r : FaultRec) : State :=
  let r := { r with seq := (fqOf s d).next.toNat }
  fqPump (updFq s d fun q => { q with waiting := q.waiting ++ [r], next := q.next + 1 }) d

/-- At the end of a cycle, each die takes the records of the cycle in their order (R227). -/
def fqFlush (s : State) : State :=
  (List.range 8).foldl (fun s d =>
    match (fqOf s d).fresh with
    | [] => s
    | rs => ((rs.foldl (fun qs r => putFresh r qs) []).foldl (fqTake d) (updFq s d fun q => { q with fresh := [] }))) s

/-! ### Trace (14_determinism_and_debug.md R283, R284) -/

/-- The trace of a die. -/
def traceOf (s : State) (d : Nat) : Trace := s.trace.getD d {}
/-- Changes the trace of a die. -/
def updTrace (s : State) (d : Nat) (f : Trace → Trace) : State := { s with trace := s.trace.setIfInBounds d (f (traceOf s d)) }
/-- Capture goes on. -/
def Trace.live (t : Trace) : Bool := t.en && !t.stopped && t.left != some 0

/-- Records of a die wait for the log path: k more of them (R276). -/
def logTake (s : State) (d k : Nat) : State := { s with logWait := s.logWait.setIfInBounds d (s.logWait.getD d 0 + k) }
/-- The buffer before the log path has room for k records (R276). -/
def logRoom (s : State) (d k : Nat) : Bool := s.logWait.getD d 0 + k ≤ 64

/-- Writes one record of 16 bytes, the base of the next DELTA; the last record after a trigger ends capture. A record that finds the buffer
of the log path full is lost (R276). -/
def tracePut (s : State) (d rcd base : Nat) : State :=
  let t := traceOf s d
  if !t.live then s
  else if !logRoom s d 1 then updTrace s d fun t => { t with lost := t.lost + 1 }
  else
    let s := logTake s d 1
    let s := devWrite s (t.base.toNat / 4096 * 4096 + 16 * (t.wr.toNat % 2 ^ (t.size + 8))) (toBytes 16 rcd)
    let s := updTrace s d fun t => { t with wr := t.wr + 1, last := base, left := t.left.map (· - 1) }
    if t.left == some 1 then due s (.traceCaptureEnd d) else s

/-- A record with a cycle field, its own base. -/
def tracePutCycle (s : State) (d kind cyc extra : Nat) : State := tracePut s d (kind + cyc % 2 ^ 64 * 2 ^ 32 + extra * 2 ^ 96) cyc
/-- A record with DELTA; a TIME record stands before it when DELTA would pass 4,095. -/
def tracePutDelta (s : State) (d rcd : Nat) : State :=
  let s := if 4095 < s.cycle - (traceOf s d).last then tracePutCycle s d 0 s.cycle 0 else s
  tracePut s d (rcd + 16 * (s.cycle - (traceOf s d).last)) s.cycle
/-- A LOSS record counts the records lost since the previous one, once the buffer has room. -/
def traceLoss (s : State) (d : Nat) : State :=
  let n := (traceOf s d).lost
  if n = 0 ∨ !(traceOf s d).live ∨ !logRoom s d 2 then s
  else tracePutDelta (updTrace s d fun t => { t with lost := 0 }) d (6 + n % 2 ^ 32 * 2 ^ 32)
/-- A record of a kind with a cycle field. -/
def traceCycle (s : State) (d kind cyc extra : Nat) : State := tracePutCycle (traceLoss s d) d kind cyc extra
/-- A record of another kind. -/
def traceWrite (s : State) (d rcd : Nat) : State := tracePutDelta (traceLoss s d) d rcd
/-- The place of a warp in a record. -/
def tracePlace (w : WKey) : Nat := w.core * 2 ^ 16 + w.quad * 2 ^ 25 + w.slot * 2 ^ 27
/-- The core of a warp is traced. -/
def traced (s : State) (w : WKey) : Bool :=
  let t := traceOf s (dieOf w.core)
  t.live && t.cores.getLsbD (w.core % 64)

/-- A trigger (R283) on each die whose registers answer to it; a second one before the end of capture has no effect. -/
def trigger (s : State) (test : Trace → Bool) : State :=
  let arm := fun (t : Trace) => if t.live && t.effect.isNone && t.left.isNone && test t then { t with effect := some (s.cycle + 8) } else t
  { s with trace := s.trace.map arm }

/-- Codes of uncorrectable soft errors (11_traps_and_preemption.md R218). -/
def isSoft (code : Nat) : Bool := 0x088 ≤ code && code ≤ 0x090
/-- The run is not replayable from a cycle (14_determinism_and_debug.md R275). -/
def markNoReplay (s : State) (c : Nat) : State := if s.noReplay then s else { s with noReplay := true, nrcyc := BitVec.ofNat 64 c }
/-- An uncorrectable soft error is reported (R272). -/
def markSoft (s : State) : State := { markNoReplay s s.cycle with soft := true }

/-! ### Taking a trap -/

/-- Codes that always park, with a fault record (R220). -/
def alwaysParks (code : Nat) : Bool := code == 0x060 || code == 0x148 || code == 0x161 || code == 0x162

/-- A trap of one thread: the lane, the code, the value for s.taddr, and, inside a PBLK block, the address of the PBLK
(15_instruction_formats.md R300). -/
structure TrapOf where
  lane : Nat
  code : Nat
  addr : W64
  blk : Option W64 := none
  deriving DecidableEq, Repr, Inhabited

/-- The trap parks its thread (R220). -/
def parks (s : State) (w : WKey) (t : TrapOf) : Bool :=
  alwaysParks t.code || (thrAt s w t.lane).inh || bits (ctxOf s (grp s w).ctx).trapentry 56 2 == 0

/-- The code a parked thread's record reports: 163h for a trap in a handler (R220, R223). -/
def parkCode (s : State) (w : WKey) (t : TrapOf) : Nat :=
  if (thrAt s w t.lane).inh && !alwaysParks t.code then 0x163 else t.code

/-- The trap state a delivery writes (R220, R221, R223): `pc` is the address of the instruction. -/
def deliver (s : State) (w : WKey) (pc : W64) (t : TrapOf) : State :=
  let entry := (ctxOf s (grp s w).ctx).trapentry
  let park := parks s w t
  let pc := t.blk.getD pc
  updThr s w t.lane fun h =>
    let h := { h with pc := if park then pc else entry &&& 0x01FFFFFFFFFFFFFC#64, blk := none, parkedBy := none, sstep := h.sstep && !park }
    if h.inh then
      { h with st := .parked, taddr := if alwaysParks t.code then h.taddr else BitVec.ofNat 64 t.code }
    else
      { h with
        cause := BitVec.ofNat 9 t.code, tepc := pc, taddr := t.addr
        st := if park then .parked else .running
        inh := !park, gate := !park, wait := if park then h.wait else 0 }

/-- The fault record of the lanes of one instruction that park with one code (R226, R227): ADDR, RGNPC and RGNCTR are those of
the lowest lane. -/
def parkRecord (s : State) (w : WKey) (pc : W64) (code : Nat) (inh : Bool) (ls : List Nat) (addr : W64) : FaultRec :=
  let h := thrAt s w (ls.headD 0)
  { code := code, kind := 0, recov := code == 0x060 || code == 0x148, lanes := maskOf ls.contains, addr := addr, ipc := pc
    rgnpc := h.rgnpc, rgnctr := h.rgnctr, ctx := (grp s w).ctx, core := w.core, slot := w.slot, quad := w.quad, inh := inh, gid := gidOf s w }

/-- Posts one record for each code and handler state among the parked lanes, in lane order (log 2). -/
def postParks (w : WKey) (pc : W64) (s0 : State) : Nat → List TrapOf → State → State
  | 0, _, s => s
  | _, [], s => s
  | n + 1, t :: ts, s =>
    let key := fun (u : TrapOf) => (parkCode s0 w u, (thrAt s0 w u.lane).inh)
    let same := (t :: ts).filter fun u => key u == key t
    let rest := ts.filter fun u => key u != key t
    let addr := if (thrAt s0 w t.lane).inh && !alwaysParks t.code then BitVec.ofNat 64 t.code else t.addr
    postParks w pc s0 n rest
      (postFault s (dieOf w.core) (parkRecord s0 w (t.blk.getD pc) (parkCode s0 w t) (thrAt s0 w t.lane).inh (same.map (·.lane)) addr))

/-- The code under which a trap is taken. -/
def takenCode (s : State) (w : WKey) (t : TrapOf) : Nat := if parks s w t then parkCode s w t else t.code

/-- What the traps of one instruction show to trace and replay (14_determinism_and_debug.md R272, R283, R284): `s0` is the state before
they are taken. -/
def noteTraps (s0 : State) (w : WKey) (pc : W64) (ts : List TrapOf) (s : State) : State :=
  let codes := (ts.map fun t => (takenCode s0 w t, (t.blk.getD pc).toNat)).eraseDups
  let s := if codes.any fun c => isSoft c.1 then markSoft s else s
  codes.foldl (fun s c =>
    let s := if traced s w && (traceOf s (dieOf w.core)).trs then
        traceWrite s (dieOf w.core) (2 + tracePlace w + c.1 * 2 ^ 32 + c.2 % 2 ^ 57 * 2 ^ 41)
      else s
    trigger s fun t => t.src.getLsbD 1 && t.code.toNat == c.1) s

/-- MODEL: the code by which a walk tells that a page table lies at an address that does not exist; no trap has it (log 10). -/
def noTableCode : Nat := 0x200

/-- Taking traps: the threads of one instruction at `pc` trap (R10, R220 to R223, R226, R227). -/
def takeTraps (s : State) (w : WKey) (pc : W64) (ts : List TrapOf) : State :=
  if ts.any (·.code == noTableCode) then { s with stop := some .noSuchAddress }
  else
  let s' := ts.foldl (fun s t => deliver s w pc t) s
  noteTraps s w pc ts (postParks w pc s ts.length (ts.filter (parks s w)) s')

/-- Returning from a handler (R222): `nx` resumes after the trapping instruction. INH clears; s.tcause keeps the code. -/
def handlerReturn (s : State) (w : WKey) (l : Nat) (nx : Bool) : State :=
  updThr s w l fun h => { h with inh := false, pc := if nx then h.tepc + 12 else h.tepc }

end Sys2Proof.Machine
end

