-- ==== Sys2Proof/Machine/Operands.lean ====
section
/-! DEFINITION. Operand forms: the registers an instruction names, reading and writing them (15_instruction_formats.md R290,
R296, R297, 02_execution_model.md R34, R35, R37), and the frame that every instruction shares: guard, checks 10 and 11 of R290,
lanes in order, trap delivery, region ends and the scoreboard (R291, R292, 11_traps_and_preemption.md R224). -/
namespace Sys2Proof.Machine

/-- A run of n registers from an operand, read or written. -/
structure Use where
  o : Opd
  n : Nat
  w : Bool
  /-- The instruction makes its own check against the warp's allocation (18_reference_m_s.md R372). -/
  late : Bool
  deriving DecidableEq, Repr

/-- A source of one register or a pair. -/
def rd (o : Opd) (n : Nat := 1) : Use := ⟨o, n, false, false⟩
/-- A destination of one register or more. -/
def wr (o : Opd) (n : Nat := 1) : Use := ⟨o, n, true, false⟩
/-- Registers of a type. -/
def rn (ty : Fmt) : Nat := if ty.is64 then 2 else 1
/-- Registers of an address operand (R294). -/
def addrUse (a : AddrOps) : Use := ⟨a.a, match a.sp with | .virt | .vlt => 2 | _ => 1, false, false⟩
/-- Predicates that a compare writes, or one register. -/
def cmpUse (d : Opd) (n : Nat) : Use := match d with | .p _ => ⟨d, n, true, false⟩ | _ => ⟨d, 1, true, false⟩

/-- The registers an instruction reads and writes (R290 step 10, R292). -/
def Instr.uses : Instr → List Use
  | .iadd _ o | .isub _ o | .imul _ o | .imin _ o | .imax _ o | .and _ o | .or _ o | .xor _ o =>
    [wr o.d (rn o.ty), rd o.a (rn o.ty), rd o.b (rn o.ty)]
  | .iaddImm _ o | .isubImm _ o | .imulImm _ o | .iminImm _ o | .imaxImm _ o | .andImm _ o | .orImm _ o | .xorImm _ o
  | .shlImm _ o | .shrImm _ o | .rotImm _ o | .bfxImm _ o => [wr o.d (rn o.ty), rd o.a (rn o.ty)]
  | .imad _ o => [wr o.d (rn o.ty), rd o.a (rn o.ty), rd o.b (rn o.ty), rd o.c (rn o.ty)]
  | .imadImm _ o | .bfiImm _ o => [wr o.d (rn o.ty), rd o.a (rn o.ty), rd o.b (rn o.ty)]
  | .iabs _ o | .not _ o | .brev _ o | .mov _ o => [wr o.d (rn o.ty), rd o.a (rn o.ty)]
  | .shl _ o | .shr _ o | .rot _ o | .bfx _ o => [wr o.d (rn o.ty), rd o.a (rn o.ty), rd o.b]
  | .bfi _ o => [wr o.d (rn o.ty), rd o.a (rn o.ty), rd o.b (rn o.ty), rd o.c]
  | .popc _ o | .clz _ o => [wr o.d, rd o.a (rn o.ty)]
  | .icmp _ o => [cmpUse o.d 3, rd o.a (rn o.ty), rd o.b (rn o.ty)]
  | .icmpImm _ o => [cmpUse o.d 3, rd o.a (rn o.ty)]
  | .sel _ o => [wr o.d (rn o.ty), rd o.a, rd o.b (rn o.ty), rd o.c (rn o.ty)]
  | .selImm _ o => [wr o.d (rn o.ty), rd o.a, rd o.b (rn o.ty)]
  | .lea _ o => [wr o.d (rn o.ty), rd o.a (rn o.ty), rd o.b, rd o.c]
  | .leaImm _ o => [wr o.d (rn o.ty), rd o.a (rn o.ty), rd o.b]
  | .movi _ o => [wr o.d (rn o.ty)]
  | .cvt _ o | .cvtf _ o => [wr o.d (rn o.ty), rd o.a (rn o.sty)]
  | .fadd _ o | .fsub _ o | .fmul _ o | .fmin _ o | .fmax _ o | .vadd2 _ o | .vmul2 _ o => [wr o.d, rd o.a, rd o.b]
  | .faddImm _ o | .fsubImm _ o | .fmulImm _ o | .fminImm _ o | .fmaxImm _ o => [wr o.d, rd o.a]
  | .ffma _ o | .vfma2 _ o => [wr o.d, rd o.a, rd o.b, rd o.c]
  | .ffmaImm _ o => [wr o.d, rd o.a, rd o.b]
  | .fcmp _ o => [cmpUse o.d 4, rd o.a, rd o.b]
  | .fcmpImm _ o => [cmpUse o.d 4, rd o.a]
  | .fabs _ o | .fneg _ o | .fclass _ o | .frcp _ o | .frsq _ o | .fsqrt _ o | .fexp2 _ o | .flog2 _ o | .fsin _ o
  | .fcos _ o => [wr o.d, rd o.a]
  | .plop _ o => [wr o.d, rd o.a, rd o.b]
  | .pblk _ o => [rd o.d]
  | .jmpr _ a | .callr _ a => [rd a 2]
  | .wsync _ c => [rd c]
  | .swt _ a _ => [rd a]
  | .vote _ o => [wr o.d, rd o.a, rd o.c]
  | .shfl _ o => [wr o.d (rn o.ty), rd o.a (rn o.ty), rd o.b, rd o.c]
  | .wred _ o | .wscan _ o => [wr o.d (rn o.ty), rd o.a (rn o.ty), rd o.c]
  | .ld _ o | .ldacq _ o => [wr o.d (rn o.fmt), addrUse o.addr]
  | .st _ o | .strel _ o => [addrUse o.addr, rd o.b (rn o.fmt)]
  | .ldq _ o => [wr o.d 4, addrUse o.addr]
  | .stq _ o => [addrUse o.addr, rd o.b 4]
  | .pref _ o => [rd o.a 2]
  | .flush _ o | .inval _ o => [rd o.a 2, rd o.b]
  | .atom _ o | .red _ o => [wr o.d (rn o.fmt), addrUse o.addr, rd o.b (rn o.fmt)]
  | .acas _ o => [wr o.d (rn o.fmt), addrUse o.addr, rd o.b (2 * rn o.fmt)]
  | .marm _ o => [addrUse o]
  | .mwait _ d => [wr d]
  | .nbar _ o => [rd o.b]
  | .pinw _ o | .unpinw _ o => [wr o.d, rd o.a 2, rd o.b]
  | .thopen _ o => [rd o.a, rd o.b]
  | .tenr _ o => [wr o.d]
  | .tsplit _ o => [rd o.b]
  | .ttest _ d _ => [wr d]
  | .tidset _ _ a | .tidget _ _ a | .scaleb _ _ a => [rd a 2]
  | .mrsv _ d => [wr d]
  | .tmma _ o => [wr o.d, rd o.a 4, rd o.b]
  | .tldacc _ o => [wr o.d, rd o.a 2]
  | .tstacc _ o => [rd o.a, rd o.b 2]
  | .tzacc _ d => [wr d]
  | .tcvt _ o => [rd o.a 4, rd o.b]
  | .ttask _ d a => [wr d, rd a 2]
  | .twaitk _ d a => [wr d, rd a]
  | .rgrow _ d _ => [{ wr d with late := true }]
  | .rshrink _ d _ => [wr d]
  | .spawn _ d a _ | .joindec _ d a _ | .launch _ d a _ => [wr d, rd a 2]
  | .acopy _ o => [rd o.d (if o.dsp == .scr then 1 else 2), rd o.a (if o.ssp == .scr then 1 else 2), rd o.b]
  | .acopyt _ o | .acopyr _ o => [rd o.d, rd o.a, rd o.b]
  | .cmwait _ o | .cmtest _ o => [wr o.d, rd o.a, rd o.b, rd o.c]
  | .csend _ d _ b | .crecv _ d _ b => [wr d, rd b]
  | .cpoll _ _ d _ => [wr d]
  | .hlred _ d a | .hlgath _ d a | .hlrot _ d a => [wr d, rd a 2]
  | .hlwait _ d a | .hlstat _ d a => [wr d, rd a]
  | .pnsend _ _ _ d a b => [wr d, rd a 2, rd b 2]
  | .pnmask _ d a => [wr d 2, rd a 2]
  | .pnpend _ _ d => [wr d 2]
  | .pnack _ d _ => [wr d 3]
  | .pnwait _ d a => [wr d, rd a 2]
  | .srd _ o => [wr o.r 2, rd o.b]
  | .swr _ o => [rd o.r 2, rd o.b]
  | .tlbi _ _ a b => [rd a 2, rd b]
  | .dcap _ _ d a b c => [wr d, rd a, rd b, rd c]
  | _ => []

/-- One more than the highest g register of the uses; 0 when there is none. -/
def gTop (us : List Use) : Nat :=
  us.foldl (fun m u => match u.o with | .g n => if u.late then m else max m (n.val + u.n) | _ => m) 0
/-- A use writes a special register (R297). -/
def writesS (us : List Use) : Bool := us.any fun u => u.w && (match u.o with | .s _ => true | _ => false)
/-- A use reads a special register. -/
def readsS (us : List Use) (r : SReg) : Bool := us.any fun u => !u.w && u.o == .s r
/-- The operand codes of the g, k, p and acc registers of a use. -/
def Use.codes (u : Use) : List Nat :=
  match u.o with
  | .g _ | .k _ | .p _ | .acc _ => (List.range u.n).map fun i => u.o.toCode.toNat + i
  | _ => []

/-- The operand codes of the destinations of an instruction (15_instruction_formats.md R292). -/
def Instr.dests (i : Instr) : List Nat := ((Instr.uses i).filter (·.w)).flatMap Use.codes

/-! ### Reading and writing -/

/-- A predicate; p7 reads true (R291, R297). -/
def Thread.pred (h : Thread) (n : Fin 8) : Bool := n == 7 || h.p.get n
/-- Writes a predicate; a write to p7 is discarded (R297). -/
def Thread.setPred (h : Thread) (n : Nat) (v : Bool) : Thread :=
  if n < 7 then { h with p := h.p.setIfInBounds n v } else h

/-- A general register. -/
def Thread.reg (h : Thread) (n : Nat) : W32 := h.g.getD n 0
/-- Writes a general register. -/
def Thread.setReg (h : Thread) (n : Nat) (v : W32) : Thread := { h with g := h.g.setIfInBounds n v }
/-- A warp-uniform register. -/
def Warp.kreg (x : Warp) (n : Nat) : W32 := x.k.getD n 0

/-- A 32-bit number. -/
def w32 (n : Nat) : W32 := BitVec.ofNat 32 n
/-- A 64-bit number. -/
def w64 (n : Nat) : W64 := BitVec.ofNat 64 n

/-- s.rprog (08_tensor_engines.md Table 8.4): the engine's value for the reserving group, 0 for any other. -/
def rprog (s : State) (core gid : Nat) : W32 :=
  match s.engines.get? core with
  | some e => if e.owner == some gid then w32 (e.done + 256 * e.nstep + 65536 * e.op + (if e.stop then 0x80000 else 0)) else 0
  | none => 0

/-- s.sstep (04_memory_hierarchy.md R102): the step of the launch's superstep set, 0 outside any set. -/
def sstep (s : State) (g : Group) : W32 :=
  if lrec s g 152 152 = 1 then (s.ssets.getD (lrec s g 151 148) {}).step else 0

/-- The value of a special register (Tables 2.1, 11.1, 8.4, R97, R102, R241, R269), for a thread at a place. -/
def sreg (s : State) (w : WKey) (path : W32) (l : Nat) (r : SReg) : W32 :=
  let x := (warpAt s w).getD {}
  let h := x.thr l
  let g := (s.groups.get? x.gid).getD {}
  match r with
  | .lane => w32 l
  | .quad => w32 w.quad
  | .slot => w32 w.slot
  | .warp => w32 x.num
  | .nwarps => w32 g.nwarps
  | .tid => w32 (x.num * 32 + l)
  | .grpx => w32 g.x
  | .grpy => w32 g.y
  | .grpz => w32 g.z
  | .gridx => w32 (lrec s g 79 64 + 1)
  | .gridy => w32 (lrec s g 95 80 + 1)
  | .gridz => w32 (lrec s g 111 96 + 1)
  | .stage => w32 g.stage
  | .nstages => w32 (lrec s g 123 120 + 1)
  | .core => w32 w.core
  | .die => w32 (dieOf w.core)
  | .cycle => w32 (h.issued.getD s.cycle)
  | .cycleh => h.cych.getD (w32 (h.issued.getD s.cycle / 2 ^ 32))
  | .path => path
  | .live => liveMask x
  | .wstat => if h.xm then 1 else 0
  | .privhwm => w32 x.hwm
  | .sstep => sstep s g
  | .rprog => rprog s w.core x.gid
  | .tcause => w32 (h.cause.toNat + (if h.inh then 512 else 0))
  | .tepcl => lo32 h.tepc
  | .tepch => hi32 h.tepc
  | .taddrl => lo32 h.taddr
  | .taddrh => hi32 h.taddr
  | .rgnctr => h.rgnctr
  | .rgnpcl => lo32 h.rgnpc
  | .rgnpch => hi32 h.rgnpc
  | .pnpendl => lo32 ((g.pn.map (·.pend)).getD 0)
  | .pnpendh => hi32 ((g.pn.map (·.pend)).getD 0)
  | .pwrstep => w32 s.pwrCur.toNat

/-- One 32-bit register of an operand, i places after the one it names; a predicate reads 1 or 0; zero reads 0 (R296). -/
def srcAt (s : State) (c : Cursor) (l : Nat) (o : Opd) (i : Nat) : W32 :=
  match o with
  | .g n => (thrAt s c.w l).reg (n.val + i)
  | .k n => (c.ks.getD ((warpAt s c.w).getD {}).k).getD (n.val + i) 0
  | .s r => sreg s c.w c.lanes l r
  | .p n => if (thrAt s c.w l).pred n then 1 else 0
  | _ => 0

/-- A source of one register or, with `wide`, a pair (R4). -/
def src (s : State) (c : Cursor) (l : Nat) (o : Opd) (wide : Bool) : Nat :=
  (srcAt s c l o 0).toNat + (if wide then (srcAt s c l o 1).toNat * 2 ^ 32 else 0)

/-- A predicate source; 3FFh reads false (R365, R402). -/
def srcP (s : State) (c : Cursor) (l : Nat) (o : Opd) : Bool :=
  match o with
  | .p n => (thrAt s c.w l).pred n
  | _ => false

/-- The code names a k register, which a warp has once for all its threads (02_execution_model.md R36, 15_instruction_formats.md R296). -/
def isKCode (code : Nat) : Bool := 0x080 ≤ code && code < 0x0C0
/-- The damage of a k register of a warp. -/
def Damage.isK (d : Damage) (w : WKey) (code : Nat) : Bool :=
  match d with
  | .reg w' _ n => w' == w && n == code && isKCode code
  | _ => false

/-- Writes one 32-bit register of a destination: a k register takes the value of the lowest-numbered executing thread (R37); 3FFh
discards. -/
def dstAt (s : State) (c : Cursor) (l : Nat) (o : Opd) (i : Nat) (v : W32) : State :=
  match o with
  | .g n =>
    let s := if s.ms.damage.isEmpty then s else { s with ms.damage := s.ms.damage.filter (· != .reg c.w l (o.toCode.toNat + i)) }
    updThr s c.w l fun h => h.setReg (n.val + i) v
  | .k n =>
    if ((s.cur.map (·.kfree)).getD true) then
      let s := if s.ms.damage.isEmpty then s else { s with ms.damage := s.ms.damage.filter (!·.isK c.w (o.toCode.toNat + i)) }
      updWarp s c.w fun x => { x with k := x.k.setIfInBounds (n.val + i) v }
    else s
  | _ => s

/-- Writes a destination of one register or, with `wide`, a pair. -/
def dst (s : State) (c : Cursor) (l : Nat) (o : Opd) (wide : Bool) (v : Nat) : State :=
  let s := dstAt s c l o 0 (w32 v)
  if wide then dstAt s c l o 1 (w32 (v / 2 ^ 32)) else s

/-- Writes a predicate destination, i places after the one it names; 3FFh discards (R297, R365). -/
def dstP (s : State) (c : Cursor) (l : Nat) (o : Opd) (i : Nat) (v : Bool) : State :=
  match o with
  | .p n => updThr s c.w l fun h => h.setPred (n.val + i) v
  | _ => s

/-- A destination written outside its instruction, by a wake. -/
def wakeDst (s : State) (w : WKey) (l : Nat) (o : Opd) (v : W32) : State :=
  match o with
  | .g n => updThr s w l fun h => h.setReg n.val v
  | .k n => updWarp s w fun x => { x with k := x.k.setIfInBounds n.val v }
  | _ => s

/-! ### The frame of an instruction -/

/-- What one thread's execution comes to: done, a trap (R10), or a wait at the instruction in a state of R39. -/
inductive LRes where
  | ok (s : State)
  | trap (code : Nat) (addr : W64)
  /-- A trap after which what the instruction has already done stays (17_reference_d_l.md R341, 18_reference_m_s.md R364). -/
  | fail (s : State) (code : Nat) (addr : W64)
  | wait (st : TState) (s : State)

/-- The guard of a thread (R291). -/
def guardOf (h : Thread) (g : Guard) : Bool := h.pred g.p != g.neg

/-- A PBLK block lets the thread execute the covered instruction (R298). -/
def Block.lets (b : Block) : Bool := b.on && (b.pat.getLsbD b.idx == b.val)

/-- The block after one covered instruction has issued. -/
def Block.advance (b : Block) : Option Block :=
  if b.left ≤ 1 then none else some { b with left := b.left - 1, idx := b.idx + 1, code := b.code.drop 1 }

/-- A thread of the path issues: the counter advances, the yield mark is set, lookahead windows shrink (R46, R292, R379). -/
def Thread.issue (h : Thread) (c : Cursor) (yh : Bool) : Thread :=
  { h with
    pc := c.pc + 12, yield := h.yield || yh, fromUser := some c.user, gate := false, issued := none
    pend := h.pend.map fun p => { p with left := p.left - 1 }
    blk := h.blk.bind Block.advance }

/-- The threads of the path that execute (R291, R298). -/
def activeLanes (s : State) (c : Cursor) (h : Hdr) : List Nat :=
  (lanesOf c.lanes).filter fun l =>
    let t := thrAt s c.w l
    guardOf t h.grd && (match t.blk with | some b => b.lets | none => true)

/-- Every thread of the path issues. -/
def issuePath (s : State) (c : Cursor) (h : Hdr) : State :=
  (lanesOf c.lanes).foldl (fun s l => updThr s c.w l fun t => t.issue c h.yh) s

/-- A completed read of s.cycle keeps the high half of the count at its issue (R35). -/
def keepCycle (i : Instr) (s : State) (w : WKey) (l : Nat) : State :=
  if readsS (Instr.uses i) .cycle then updThr s w l fun t => { t with cych := some (w32 (t.issued.getD s.cycle / 2 ^ 32)) } else s

/-- One thread has completed the instruction: the region ends (R224), but for a tile instruction, whose command completes later, and for SSB,
which completes with its generation; the scoreboard takes an entry (R292), and the k destination is taken (R37). The successor of SVC is the
instruction after it (log 73). -/
def completeLane (i : Instr) (h : Hdr) (c : Cursor) (due : Nat) (l : Nat) (s : State) : State :=
  let s := keepCycle i s c.w l
  let s := if i.endsRegion then updGroup s (gidOf s c.w) fun g => { g with tainted := true } else s
  let s := if i.endsRegion && !i.endsLater then updThr s c.w l fun t => { t with rgnpc := c.pc + 12, rgnSeq := s.nextId } else s
  let s := if i.portB then s
    else updThr s c.w l fun t =>
      if t.st == .running then
        { t with pend := t.pend ++ [{ regs := Instr.dests i, left := h.la.toNat, due := s.cycle + due }] }
      else t
  { s with cur := s.cur.map fun c => { c with kfree := false } }

/-- A thread waits at the instruction. -/
def waitLane (c : Cursor) (l : Nat) (st : TState) (s : State) : State :=
  updThr s c.w l fun t => { t with st := st, pc := c.pc, fromUser := some c.user, gate := false }

/-- The first damaged register that an instruction reads in a thread, by operand code (11_traps_and_preemption.md R218: 088h): every thread that
reads a damaged k register meets it. -/
def regDamage (s : State) (c : Cursor) (us : List Use) (l : Nat) : Option Nat :=
  if s.ms.damage.isEmpty then none
  else
    let codes := (us.filter (!·.w)).flatMap Use.codes
    codes.find? fun n => s.ms.damage.any fun d => d == .reg c.w l n || d.isK c.w n

/-- The guard predicate of an instruction as a use; p7 is no register (R291, R297). -/
def guardUse (h : Hdr) : List Use := if h.grd.p == 7 then [] else [rd (.p h.grd.p)]

/-- The threads that meet a damaged register, with the code 088h (R229, R300): every thread of the path reads its guard. -/
def damaged (s : State) (c : Cursor) (h : Hdr) (us : List Use) (act : List Nat) : List TrapOf :=
  if s.ms.damage.isEmpty then []
  else (lanesOf c.lanes).filterMap fun l =>
    (regDamage s c (guardUse h ++ if act.contains l then us else []) l).map fun n =>
      { lane := l, code := 0x088, addr := BitVec.ofNat 64 n, blk := (thrAt s c.w l).blk.map (·.at_) }

/-- The traps of the executing threads with one code, beside those of other threads of the path. -/
def allTrap (act : List Nat) (code : Nat) (bad : List TrapOf) : List TrapOf :=
  act.map (fun l => { lane := l, code := code, addr := 0 }) ++ bad.filter fun t => !act.contains t.lane

/-- The executing threads in increasing order; a trapping thread's writes are discarded (R9, R10). -/
def runLanes (i : Instr) (h : Hdr) (c : Cursor) (due : Nat) (body : State → Nat → LRes) :
    List Nat → State → List TrapOf → State × List TrapOf
  | [], s, ts => (s, ts)
  | l :: ls, s, ts =>
    match body s l with
    | .ok s' => runLanes i h c due body ls (completeLane i h c due l s') ts
    | .trap code addr => runLanes i h c due body ls s (ts ++ [{ lane := l, code := code, addr := addr }])
    | .fail s' code addr => runLanes i h c due body ls s' (ts ++ [{ lane := l, code := code, addr := addr }])
    | .wait st s' => runLanes i h c due body ls (waitLane c l st s') ts

/-- Some threads that have made their single step, by the instruction at `pc`, park with 161h and go on after it when they are resumed
(18_reference_m_s.md R380). -/
def stepPark (s : State) (w : WKey) (pc : W64) (ls : List Nat) : State :=
  let s := ls.foldl (fun s l => updThr s w l fun t => { t with sstep := false }) s
  let back := ls.map fun l => (l, (thrAt s w l).pc)
  let s := takeTraps s w pc (ls.map fun l => { lane := l, code := 0x161, addr := 0 })
  back.foldl (fun s p => updThr s w p.1 fun t => { t with pc := p.2 }) s

/-- The thread has made its single step: it is marked, runs, and is in no block (R380, 15_instruction_formats.md R300). -/
def Thread.stepped (t : Thread) : Bool := t.sstep && t.blk.isNone && t.st == .running

/-- A thread marked for a single step parks with 161h once it has issued (18_reference_m_s.md R380), at a block's end (R300). A thread that the
instruction leaves in a wait parks when the wait ends (log 42). -/
def singleStep (s : State) (c : Cursor) : State :=
  stepPark s c.w c.pc ((lanesOf c.lanes).filter fun l => (thrAt s c.w l).stepped)

/-- BRANCH records of an instruction (14_determinism_and_debug.md R284): one for each target, with the lanes that take it. -/
def flushBranches (s : State) (w : WKey) : State :=
  if s.branched.isEmpty then s
  else
    let bs := s.branched
    ((bs.map (·.2)).eraseDups).foldl (fun s pc =>
      let lanes := maskOf ((bs.filter fun b => b.2 == pc).map (·.1)).contains
      traceWrite s (dieOf w.core) (1 + tracePlace w + pc.toNat % 2 ^ 57 * 2 ^ 32 + lanes.toNat * 2 ^ 89)) { s with branched := [] }

/-- The end of an instruction: its traps, at the PBLK's address for 088h inside a block (R300), and what trace records. -/
def endTraps (s : State) (c : Cursor) (ts : List TrapOf) : State :=
  let s := flushBranches s c.w
  singleStep (if ts.isEmpty then s else takeTraps s c.w c.pc ts) c

/-- Checks 10 and 11 of R290: a register at or above the warp's allocation, then a special-register destination. -/
def operandTrap (us : List Use) (alloc : Nat) : Option Nat :=
  if gTop us > alloc then some 0x022 else if writesS us then some 0x023 else none

/-- The cursor while some threads of the path act: their sources are read before any of them writes (00_scope.md R9). -/
def actAs (s : State) (c : Cursor) (act : List Nat) : Cursor :=
  { c with lanes := maskOf act.contains, kfree := true, lat := Config.freeNat s.freeCtr + 1, ks := some ((warpAt s c.w).getD {}).k }

/-- The address operand and the size of a load, store or atomic of scratch. -/
def scrAddr : Instr → Option (AddrOps × Nat)
  | .ld _ o | .ldacq _ o => if o.addr.sp == .scr then some (o.addr, o.size.bytes) else none
  | .st _ o | .strel _ o => if o.addr.sp == .scr then some (o.addr, o.size.bytes) else none
  | .ldq _ o => if o.addr.sp == .scr then some (o.addr, 16) else none
  | .stq _ o => if o.addr.sp == .scr then some (o.addr, 16) else none
  | .atom _ o | .red _ o => if o.addr.sp == .scr then some (o.addr, o.size.bytes) else none
  | .acas _ o => if o.addr.sp == .scr then some (o.addr, o.size.bytes) else none
  | _ => none

/-- The cycles that the banks of scratch take for an instruction: one for each distinct word in its most-used bank, of 64 banks of 4 bytes
(04_memory_hierarchy.md R100). -/
def bankCycles (s : State) (c : Cursor) (act : List Nat) (i : Instr) : Nat :=
  match scrAddr i with
  | none => 1
  | some (a, n) =>
    if act.length ≤ 1 then 1
    else
      let at_ := fun (l : Nat) => (src s c l a.a false : Int) + signExt a.off.toNat 24
      let ok := act.filter fun l => decide (0 ≤ at_ l) && (at_ l).toNat % n == 0 && (at_ l).toNat + n ≤ (grp s c.w).scr * 256
      let words := (ok.flatMap fun l => (List.range ((n + 3) / 4)).map fun j => (at_ l).toNat / 4 + j).eraseDups
      words.foldl (fun m w => max m (words.filter fun v => v % 64 == w % 64).length) 1

/-- The cycles in which the instruction being executed completes: a free number (log 4), and for an access to scratch the cycles that its banks
take. -/
def latency (s : State) (i : Instr) (h : Hdr) : Nat :=
  match s.cur with
  | some c =>
    let act := activeLanes s c h
    Config.freeNat s.freeCtr + (if (scrAddr i).isSome then bankCycles (issuePath s c h) (actAs s c act) act i else 0)
  | none => Config.freeNat s.freeCtr

/-- The frame of an instruction whose executing threads act one after another. -/
def perLane (i : Instr) (h : Hdr) (s : State) (body : Cursor → State → Nat → LRes) : Host.Outcome State Fault Refusal :=
  match s.cur with
  | none => done s
  | some c =>
    let act := activeLanes s c h
    let us := Instr.uses i
    let s1 := issuePath s c h
    let bad := damaged s c h us act
    match operandTrap us ((warpAt s c.w).getD {}).alloc with
    | some code => done (endTraps s1 c (allTrap act code bad))
    | none =>
      let c' := { actAs s c act with lat := Config.freeNat s.freeCtr + bankCycles s1 (actAs s c act) act i }
      let act := act.filter fun l => !bad.any (·.lane == l)
      let r := runLanes i h c (latency s i h) (body c') act { s1 with cur := some c', freeCtr := s.freeCtr + 1 } bad
      done (endTraps r.1 c r.2)

/-- A path waits at its instruction, which issues again: its threads wait together. A single step that the instruction was is still to be made
(18_reference_m_s.md R380). -/
def pathWait (s : State) (c : Cursor) (y : Why) : State :=
  let step := (lanesOf c.lanes).any fun l => (thrAt s c.w l).sstep && (thrAt s c.w l).blk.isNone
  let s := (lanesOf c.lanes).foldl (fun s l => updThr s c.w l fun t =>
    { t with st := .stall (.reissue y), sstep := t.sstep && t.blk.isSome }) s
  if step then updWarp s c.w fun x => { x with step1 := true } else s

/-- The frame of an instruction whose path waits while `need` answers for some executing thread; `need` also answers the state
with what it asks for. -/
def perLaneW (i : Instr) (h : Hdr) (s : State) (need : Cursor → State → Nat → Option (Why × State))
    (body : Cursor → State → Nat → LRes) : Host.Outcome State Fault Refusal :=
  match s.cur with
  | none => done s
  | some c =>
    let act := activeLanes s c h
    match operandTrap (Instr.uses i) ((warpAt s c.w).getD {}).alloc with
    | some _ => perLane i h s body
    | none =>
      match act.findSome? fun l => need (actAs s c act) s l with
      | some (y, s') => done (pathWait s' c y)
      | none => perLane i h s body

/-- The frame of an instruction that acts once for its path: the body runs once with the executing threads, and answers for all
of them. -/
def perPath (i : Instr) (h : Hdr) (s : State) (body : Cursor → List Nat → State → LRes) : Host.Outcome State Fault Refusal :=
  match s.cur with
  | none => done s
  | some c =>
    let act := activeLanes s c h
    let us := Instr.uses i
    let s1 := issuePath s c h
    let bad := damaged s c h us act
    if act.isEmpty then done (endTraps s1 c bad)
    else match operandTrap us ((warpAt s c.w).getD {}).alloc with
    | some code => done (endTraps s1 c (allTrap act code bad))
    | none =>
      let act := act.filter fun l => !bad.any (·.lane == l)
      let c' := actAs s c act
      if act.isEmpty then done (endTraps s1 c bad)
      else match body c' act { s1 with cur := some c', freeCtr := s.freeCtr + 1 } with
      | .ok s2 => done (endTraps (act.foldl (fun s l => completeLane i h c (Config.freeNat s1.freeCtr) l s) s2) c bad)
      | .trap code addr => done (endTraps s1 c (bad ++ act.map fun l => { lane := l, code := code, addr := addr }))
      | .fail s2 code addr => done (endTraps s2 c (bad ++ act.map fun l => { lane := l, code := code, addr := addr }))
      | .wait st s2 => done (endTraps (act.foldl (fun s l => waitLane c l st s) s2) c bad)

/-- A register result of one type for each executing thread: 040h for a type that the instruction does not accept (R290 step 12). DEDUCED
(log 73): a covered instruction of a PBLK block raises it too, when it executes and at its own address; R299 does not check it at the PBLK. -/
def result (i : Instr) (h : Hdr) (s : State) (okTy : Bool) (d : Opd) (wide : Bool) (val : Cursor → State → Nat → Nat) :
    Host.Outcome State Fault Refusal :=
  perLane i h s fun c s l => if okTy then .ok (dst s c l d wide (val c s l)) else .trap 0x040 0

end Sys2Proof.Machine
end

