-- ==== Sys2Proof/Machine/Memory.lean ====
section
/-! DEFINITION. Addresses, translation and the memory hierarchy: page walks and TLBs (04_memory_hierarchy.md R86 to R97), the L1
(R103), drains, leases and releases (05_consistency.md R117 to R126), watches (02_execution_model.md R55), and loads and stores
by space (17_reference_d_l.md R352, 18_reference_m_s.md R384). -/
namespace Sys2Proof.Machine

/-! ### Translation -/

/-- The levels of the page table: level, lowest VA bit, index bits (R88). -/
def levels : List (Nat × Nat × Nat) := [(0, 48, 9), (1, 39, 9), (2, 30, 9), (3, 21, 9), (4, 16, 5)]

/-- A valid leaf is malformed at a level (R89). -/
def leafBad (e level : Nat) : Bool :=
  level < 2 || natBits e 63 52 != 0 || natBits e 6 5 == 3 ||
  (if natBit e 10 then natBits e 15 11 < 9 || natBits e 15 11 > 20 || natBit e 8 else natBits e 15 11 != 0) ||
  (!natBit e 8 && natBits e 51 40 != 0) || (level == 3 && natBits e 20 16 != 0) || (level == 2 && natBits e 29 16 != 0)

/-- A table pointer is malformed at a level (R89). -/
def ptrBad (e level : Nat) : Bool :=
  level == 4 || natBits e 7 2 != 0 || natBits e 63 52 != 0 || (level < 3 && natBits e 11 8 != 0)

/-- The page of a leaf (Table 4.1). -/
def leafPage (ctx va e lo : Nat) : Page :=
  { ctx := ctx, va := va / 2 ^ lo * 2 ^ lo, size := 2 ^ lo
    pa := (if natBit e 8 then 2 ^ 52 else 0) + natBits e 51 16 * 65536
    w := natBit e 2, x := natBit e 3, u := natBit e 4, grain := 32 * 4 ^ natBits e 6 5, sc := natBit e 7, host := natBit e 8
    c := natBit e 9, tiled := natBit e 10, ts := natBits e 15 11 }

/-- The outcome of a walk. -/
inductive WalkRes where
  | page (p : Page)
  | fail (code : Nat)
  | noTable

/-- The walk from one table on, with the lines it reads (R88, R89). -/
def walkFrom (s : State) (ctx va : Nat) : List (Nat × Nat × Nat) → Nat → List Nat → WalkRes × List Nat
  | [], _, ls => (.fail 0x060, ls)
  | (lv, lo, n) :: rest, tbl, ls =>
    let a := tbl + 8 * (va / 2 ^ lo % 2 ^ n)
    if !scarpOk (a + 7) then (.noTable, ls)
    else
      let e := ofBytes (homeRead s a 8)
      let ls := ls ++ [a / 128]
      if !natBit e 0 then (.fail 0x060, ls)
      else if natBit e 1 then
        if ptrBad e lv then (.fail 0x062, ls) else walkFrom s ctx va rest (natBits e 51 8 * 256) ls
      else if leafBad e lv then (.fail 0x062, ls) else (.page (leafPage ctx va e lo), ls)

/-- A page covers an address. -/
def Page.covers (p : Page) (ctx va : Nat) : Bool := p.ctx == ctx && p.va ≤ va && va < p.va + p.size
/-- The key of an address in its page. -/
def Page.key (p : Page) (va : Nat) : Nat := p.pa + (va - p.va)

/-- The index of the entry with the oldest last use, the lowest among equals. -/
def oldest (es : List TlbEntry) : Nat :=
  ((List.range es.length).foldl (fun b i => if (es.getD i default).use < (es.getD b default).use then i else b) 0)

/-- A core TLB takes an entry (R93). DESIGN CHOICE (log 50): the spec numbers no entry after an invalidation; a new entry takes the number after
the last one kept, and the entries kept are numbered anew in their order. -/
def tlbPut (s : State) (core : Nat) (p : Page) : State :=
  let es := s.ms.tlb.getD core []
  let e : TlbEntry := { page := p, use := s.cycle }
  { s with ms.tlb := s.ms.tlb.put core (if es.length < 256 then es ++ [e] else es.set (oldest es) e) }

/-- The set of a page in a translation cache: VA bits 26:16 of a 64 KiB page, and the corresponding bits of a larger one (R93). -/
def tcacheSet (p : Page) : Nat := p.va / p.size % 2048

/-- A die's translation cache takes an entry: 2,048 sets of 8 ways (R93), numbered as those of a core TLB (log 50). -/
def tcachePut (s : State) (die : Nat) (p : Page) : State :=
  let es := s.ms.tcache.getD die []
  let e : TlbEntry := { page := p, use := s.cycle }
  let mine := (List.range es.length).filter fun i => tcacheSet (es.getD i default).page == tcacheSet p
  let es' := if mine.length < 8 then es ++ [e]
    else es.set (mine.foldl (fun b i => if (es.getD i default).use < (es.getD b default).use then i else b) (mine.headD 0)) e
  { s with ms.tcache := s.ms.tcache.setIfInBounds die es' }

/-- Marks the last use of the entries that cover an address. -/
def touch (es : List TlbEntry) (now ctx va : Nat) : List TlbEntry :=
  es.map fun e => if e.page.covers ctx va then { e with use := now } else e

/-- An uncorrectable soft error of the array that serves a home line: its place in the L2 (08Ch), or, where the L2 does not hold it, Scarp memory
(08Eh); a vault's line (08Dh). `bad` tells which bytes matter (11_traps_and_preemption.md R218, R229). -/
def homeHurt (s : State) (line : Nat) : Option Nat :=
  if s.ms.damage.isEmpty then none
  else s.ms.damage.findSome? fun d =>
    match d with
    | .l2 ln _ => if ln == line then some 0x08C else none
    | .vault ln _ => if ln == line then some 0x08D else none
    | .scarp ln _ => if ln == line && (s.ms.l2.get? line).isNone then some 0x08E else none
    | _ => none

/-- Walks the tables of a context; walk reads use the L2 with hint 01b (R93). Walk data that an uncorrectable soft error has damaged raise 090h
(11_traps_and_preemption.md R218). -/
def walk (s : State) (ctx va : Nat) : State × Except Nat Page :=
  let r := walkFrom s ctx va levels (bits (ctxOf s ctx).ttbase 51 12 * 4096) []
  let bad := r.2.any fun ln => (homeHurt s ln).isSome
  let s := r.2.foldl (fun s ln => l2Access s ln (sliceOf (ln * 128) false 0) 1) s
  if bad then (s, .error 0x090)
  else match r.1 with
  | .page p => (s, .ok p)
  | .fail code => (s, .error code)
  | .noTable => ({ s with stop := some .noSuchAddress }, .error noTableCode)

/-- A walk on demand takes one of the die's walkers, unless one walks the page already (R93); a free number gives its duration (log 4). -/
def takeWalker (s : State) (core : Option Nat) (die ctx va size : Nat) : State :=
  let ws := s.ms.walks.getD die []
  if ws.any fun q => q.ctx == ctx && q.va / size == va / size then s
  else
    let q : Walk := { ctx := ctx, va := va, core := core.getD 512, due := s.cycle + Config.freeNat s.freeCtr, pref := none }
    { s with freeCtr := s.freeCtr + 1, ms.walks := s.ms.walks.setIfInBounds die (ws ++ [q]) }

/-- A cached translation is damaged (11_traps_and_preemption.md R218: 090h). -/
def tlbBad (s : State) (p : Page) : Bool :=
  s.ms.damage.any fun d => match d with | .tlb c v => p.covers c v | _ => false

/-- Translates an address for a core, or for the device on a die when `core` is none (R93). -/
def translate (s : State) (core : Option Nat) (die ctx va : Nat) : State × Except Nat Page :=
  let es := match core with | some c => s.ms.tlb.getD c [] | none => []
  match es.find? (·.page.covers ctx va) with
  | some e =>
    let c := core.getD 0
    ({ s with ms.tlb := s.ms.tlb.put c (touch es s.cycle ctx va) }, if tlbBad s e.page then .error 0x090 else .ok e.page)
  | none =>
    let ds := s.ms.tcache.getD die []
    match ds.find? (·.page.covers ctx va) with
    | some e =>
      let s := { s with ms.tcache := s.ms.tcache.setIfInBounds die (touch ds s.cycle ctx va) }
      if tlbBad s e.page then (s, .error 0x090) else (match core with | some c => tlbPut s c e.page | none => s, .ok e.page)
    | none =>
      match walk s ctx va with
      | (s, .error code) => (takeWalker s core die ctx va 65536, .error code)
      | (s, .ok p) =>
        let s := tcachePut (takeWalker s core die ctx va p.size) die p
        (match core with | some c => tlbPut s c p | none => s, .ok p)

/-! ### Tenure of bytes (06_tile_tenure.md R139, R140) -/

/-- The footprint holds a key. -/
def inFoot (f : List (Nat × Nat)) (k : Nat) : Bool := f.any fun r => r.1 ≤ k && k < r.1 + r.2
/-- An access for a group, by the engine command `cmd` or by a thread, is a holder access of a tenure: that of one of the group's handles,
or the command's own (R139). -/
def Tenure.heldBy (t : Tenure) (gid : Nat) (cmd : Option Nat) : Bool := t.gid == gid && (t.cmd.isNone || t.cmd == cmd)
/-- The write tenure that holds a key, held or releasing. -/
def writeTenure (s : State) (k : Nat) : Option (Nat × Tenure) :=
  s.ten.find? fun e => e.2.write && e.2.st != 0 && inFoot e.2.foot k
/-- A key lies under a write tenure that is not the accessor's. -/
def foreign (s : State) (gid : Nat) (cmd : Option Nat) (k : Nat) : Bool :=
  match writeTenure s k with
  | some e => !e.2.heldBy gid cmd
  | none => false
/-- The tenure under which a non-holder's store to a key is held (R140): a write tenure, or a read tenure. -/
def heldUnder (s : State) (gid : Nat) (cmd : Option Nat) (k : Nat) : Option (Nat × Tenure) :=
  s.ten.find? fun e => e.2.st != 0 && !e.2.heldBy gid cmd && inFoot e.2.foot k
/-- A handle of the group holds read tenure of a key (R139). -/
def readOnly (s : State) (gid k : Nat) : Bool :=
  s.ten.any fun e => !e.2.write && e.2.st == 1 && e.2.gid == gid && e.2.cmd.isNone && inFoot e.2.foot k
/-- The home slice of a byte of a tenure (04_memory_hierarchy.md R107). -/
def Tenure.slice (t : Tenure) (k : Nat) : Nat :=
  match t.tiled.find? fun p => p.1 ≤ k && k < p.1 + p.2.1 with
  | some p => sliceOf k true p.2.2
  | none => sliceOf k false 0
/-- What a write holder has written to a byte under its tenure, a write that waits for spill room among them (R138). -/
def Tenure.byte? (t : Tenure) (k : Nat) : Option Byte :=
  match t.wait.reverse.findSome? fun x => (x.1.reverse.find? fun c => c.1 == k).map (·.2) with
  | some b => some b
  | none => t.shadow.get? k

/-! ### Watches -/

/-- Records an event on every armed watch of a core whose block holds a key that satisfies a test (02_execution_model.md R55). -/
def watchHit (s : State) (core : Nat) (hit : Watch → Bool) : State :=
  { s with warps := s.warps.map fun e =>
      if (wKeyOf e.1).core == core then
        (e.1, { e.2 with th := e.2.th.map fun t =>
          match t.watch with
          | some w => if w.event.isNone && hit w then { t with watch := some { w with event := some s.cycle } } else t
          | none => t })
      else e }
/-- A watch of the core is armed on a block that holds the key. -/
def watched (s : State) (core k : Nat) : Bool :=
  s.warps.any fun e => (wKeyOf e.1).core == core &&
    e.2.th.toList.any fun t => match t.watch with | some w => w.block ≤ k && k < w.block + w.len | none => false
/-- A watch of the core is armed on a block that meets the 32 bytes from an address. -/
def watched32 (s : State) (core a : Nat) : Bool :=
  s.warps.any fun e => (wKeyOf e.1).core == core &&
    e.2.th.toList.any fun t => match t.watch with | some w => a < w.block + w.len && w.block < a + 32 | none => false
/-- A watch's block meets a list of keys. -/
def Watch.meets (w : Watch) (ks : List Nat) : Bool := ks.any fun k => w.block ≤ k && k < w.block + w.len

/-! ### The L1 -/

/-- The tags of a core's L1. -/
def l1Of (s : State) (core : Nat) : Tab L1Tag := s.ms.l1.getD core []
/-- Sets the tags of a core's L1. -/
def setL1 (s : State) (core : Nat) (t : Tab L1Tag) : State := { s with ms.l1 := s.ms.l1.put core t }
/-- Changes one tag, if present. -/
def updTag (s : State) (core blk : Nat) (f : L1Tag → L1Tag) : State :=
  match (l1Of s core).get? blk with
  | some t => setL1 s core ((l1Of s core).put blk (f t))
  | none => s

/-- Lines of the spill region of a die in use (06_tile_tenure.md R138): one for each held store or atomic, and one for each shadow line
that has no way in the L2. DESIGN CHOICE (log 75): R138 gives the region's size in lines and no layout: a held store takes one line, and the
bytes of the region at TNSPILLBASE are left as memory has them. -/
def spillUsed (s : State) (die : Nat) : Nat :=
  let held := (s.ten.flatMap fun e => e.2.held).filter fun h => h.spilled && homeDie (h.keys.headD 0) == die
  let lines := ((s.ten.flatMap fun e => e.2.shadow.map (·.1 / 128)).eraseDups).filter fun ln => homeDie (ln * 128) == die
  held.length + (lines.filter fun ln => (s.ms.l2.get? (shadowKey ln)).isNone).length

/-- A shadow line has its place (R138): a way of its set, where it counts as pinned, or a line of the spill region. -/
def shadowPlace (s : State) (t : Tenure) (line : Nat) : Option State :=
  if (s.ten.any fun e => e.2.shadow.any fun c => c.1 / 128 == line) || (s.ms.l2.get? (shadowKey line)).isSome then some s
  else
    let s' := l2Alloc s (shadowKey line) (t.slice (line * 128)) { cls := 2, use := s.cycle, pinned := true }
    let die := homeDie (line * 128)
    if (s'.ms.l2.get? (shadowKey line)).isSome || spillUsed s' die < (s.spillSize.getD die 0).toNat then some s' else none

/-- One line's part of a holder's write goes to its shadow line and takes the line's next tag (05_consistency.md R111), or waits at the home for room, behind the line's earlier writes; SPFULL is
set then (R138). -/
def shadowLine (id : Nat) (vc : List Nat) (cs : List Host.Cell) (s : State) (line : Nat) : State :=
  let mine := cs.filter fun c => c.1 / 128 == line
  match s.ten.get? id with
  | none => s
  | some t =>
    let place := if t.wait.any fun x => x.1.any fun c => c.1 / 128 == line then none else shadowPlace s t line
    match place with
    | some s =>
      { s with
        ten := s.ten.put id { t with shadow := mine.foldl (fun h c => h.put c.1 c.2) t.shadow }
        ms.tags := s.ms.tags.put line (s.ms.tags.getD line 0 + 1) }
    | none =>
      { s with
        ten := s.ten.put id { t with wait := t.wait ++ [(mine, vc)] }
        spillFull := s.spillFull.setIfInBounds (homeDie (line * 128)) true }

/-- The tenure whose shadow takes a byte that an accessor writes. -/
def shadowOf (s : State) (gid : Nat) (cmd : Option Nat) (k : Nat) : Option Nat :=
  match writeTenure s k with
  | some e => if e.2.heldBy gid cmd then some e.1 else none
  | none => none

/-- The write holder's bytes go to its shadow (06 R138), every other byte to its home: a write made in cycle `at_`. -/
def homeOrShadow (s : State) (gid : Nat) (cmd : Option Nat) (at_ : Nat) (vc : List Nat) (cs : List Host.Cell) : State :=
  let own := cs.filter fun c => (shadowOf s gid cmd c.1).isSome
  let ids := (own.filterMap fun c => shadowOf s gid cmd c.1).eraseDups
  let s' := ids.foldl (fun s' id =>
    let mine := own.filter fun c => shadowOf s gid cmd c.1 == some id
    (linesOf mine).foldl (shadowLine id vc mine) s') s
  homeWriteAt s' at_ vc (cs.filter fun c => (shadowOf s gid cmd c.1).isNone)

/-- A forwarded write may be applied on a die: nothing destined for it precedes it (R121, R122). -/
def forwardReady (fs : List Forward) (i : Nat) : Bool :=
  let f := fs.getD i default
  (List.range fs.length).all fun j =>
    let g := fs.getD j default
    j == i || ((g.vc == f.vc || !vcLe g.vc f.vc || g.vc.isEmpty) && (g.line != f.line || i < j))

/-- Applies one forwarded write to a die's copy. -/
def applyForward (s : State) (d i : Nat) : State :=
  let fs := s.ms.forwards.getD d []
  let f := fs.getD i default
  let cs := s.ms.copies.getD d []
  let s := match cs.get? f.line with
    | some data => { s with ms.copies := s.ms.copies.put d (cs.put f.line (overlay f.line data f.bytes)) }
    | none => s
  { s with ms.forwards := s.ms.forwards.setIfInBounds d (fs.eraseIdx i) }

/-- A forwarded write, or an older one that it stands for, has a clock of at most a clock. -/
def Forward.within (f : Forward) (vc : List Nat) : Bool := (f.vc :: f.olds).any fun v => vcLe v vc

/-- The forwarded write that a die applies next on its way to a clock: one at most that clock, or one that stands before it; when each waits
for another, the one that came first. -/
def catchNext (fs : List Forward) (vc : List Nat) : Nat :=
  let is := List.range fs.length
  match is.find? fun i => (fs.getD i default).within vc && forwardReady fs i with
  | some i => i
  | none => (is.find? (forwardReady fs)).getD 0

/-- A die applies every forwarded write that is, or stands for a write that is, at most a clock, and what stands before them (R122). -/
def catchUp (s : State) (d : Nat) (vc : List Nat) : Nat → State
  | 0 => s
  | n + 1 =>
    let fs := s.ms.forwards.getD d []
    if fs.any fun f => f.within vc then catchUp (applyForward s d (catchNext fs vc)) d vc n else s

/-- The writes to lines of some keys are applied to the copies of a core's die, the writes before them first: what the core has written or
read at the home is not followed by an older value from the copy (R114, R122). -/
def ownSees (s : State) (core : Nat) (ks : List Nat) : State :=
  let d := dieOf core
  (ks.map (· / 128)).eraseDups.foldl (fun s ln =>
    let fs := (s.ms.forwards.getD d []).filter (·.line == ln)
    fs.foldl (fun s f => catchUp s d f.vc (s.ms.forwards.getD d []).length) s) s

/-- A byte as a die sees it (R121): its copy's, or the home's. -/
def dieByte (s : State) (die k : Nat) : Byte :=
  if homeDie k == die then homeByte s k
  else
    match (s.ms.copies.getD die []).get? (k / 128) with
    | some data => data.getD (k % 128) 0
    | none => homeByte s k

/-- A byte as the L1 of a core may hold it: of the shadow, where a group of the core holds it (06_tile_tenure.md R138), else as the die sees it. -/
def coreByte (s : State) (core k : Nat) : Byte :=
  match writeTenure s k with
  | some e => if e.2.core == core && e.2.cmd.isNone then (e.2.byte? k).getD (homeByte s k) else homeByte s k
  | none => dieByte s (dieOf core) k

/-- The clean sectors of a core that satisfy a test, by address, go; in the block of an armed watch they take their bytes anew instead and keep
their lease, and a changed byte is a watch event (02_execution_model.md R55). -/
def dropSectors (s : State) (core : Nat) (gone : Nat → Bool) : State :=
  let seen := fun (a : Nat) => gone a && watched32 s core a
  let fresh := fun (a : Nat) => (List.range 32).map fun j => coreByte s core (a + j)
  let hit := (l1Of s core).flatMap fun t => (t.2.clean.filter fun e =>
    seen (t.1 * 512 + e.1 * 32) && fresh (t.1 * 512 + e.1 * 32) != e.2.data).map fun e => t.1 * 512 + e.1 * 32
  let keep := fun (a : Nat) (e : Nat × Sector) => if seen a then some (e.1, { e.2 with data := fresh a }) else if gone a then none else some e
  let s' := setL1 s core ((l1Of s core).map fun t => (t.1, { t.2 with clean := t.2.clean.filterMap fun e => keep (t.1 * 512 + e.1 * 32) e }))
  if hit.isEmpty then s' else watchHit s' core fun w => hit.any fun a => a < w.block + w.len && w.block < a + 32

/-- A core's clean sectors that hold one of some keys. -/
def dropClean (s : State) (core : Nat) (ks : List Nat) : State :=
  dropSectors s core fun a => ks.any fun k => a ≤ k && k < a + 32

/-- After an access of a core at the home, its plain loads see nothing older (R114). -/
def seeHome (s : State) (core : Nat) (ks : List Nat) : State := dropClean (ownSees s core ks) core ks

/-- The core's own clean sectors of a block give way to the block it owns; its watches see the write (R55). -/
def refreshOwn (s : State) (core b len : Nat) (ks : List Nat) (wrote : Bool) : State :=
  let s := dropSectors s core fun a => a < b + len && b < a + 32
  if wrote then watchHit s core fun w => w.meets ks else s

/-- A line of an L1 is damaged, and the dirty byte at a key is not one that a store has covered since (11_traps_and_preemption.md R229). -/
def l1Bad (s : State) (core k : Nat) : Bool :=
  s.ms.damage.any fun d => match d with | .l1 c ln good => c == core && ln == k / 128 && !natBit good (k % 128) | _ => false

/-- The damaged lines among some keys of a core, which a drain or an eviction has come upon: each is retained, with a record of KIND 5 the
first time (R229). -/
def l1Found (s : State) (core : Nat) (ks : List Nat) : State :=
  let new := ((ks.filter (l1Bad s core)).map (· / 128)).eraseDups.filter fun ln => !s.ms.l1Kept.contains (core, ln)
  if new.isEmpty then s
  else { s with
    ms.l1Kept := s.ms.l1Kept ++ new.map fun ln => (core, ln)
    ms.found := s.ms.found ++ new.map fun ln => (0x089, dieOf core, ln) }

/-- The write just made to a line, where it is forwarded, stands for older writes too. -/
def standFor (s : State) (line : Nat) (olds : List (List Nat)) : State :=
  if olds.isEmpty then s
  else { s with ms.forwards := s.ms.forwards.map fun fs => fs.map fun f =>
    if f.line == line && f.tag == s.ms.tags.getD line 0 then { f with olds := olds } else f }

/-- What one drain carries to the home: dirty bytes of one line, one group, one clock and one hint, with the cycle of the oldest. DESIGN CHOICE (log
75): a byte that its core stored before another group's tenure was granted, and that drains while the tenure is held, goes to the image at once,
as what it is: a write older than the grant. -/
def drainPart (core : Nat) (slice : Nat → Nat) (s : State) (g : List (Nat × Dirty)) : State :=
  match g with
  | [] => s
  | (k, d) :: _ =>
    let s := if isVault k then s else l2Access (countSlice s (homeDie k) (slice k) fun n => { n with drains := n.drains + 1 }) (k / 128) (slice k) d.hint
    let at_ := g.foldl (fun a e => min a e.2.at_) d.at_
    ownSees (standFor (homeOrShadow s d.gid none at_ d.vc (g.map fun e => (e.1, e.2.val))) (k / 128) d.olds) core [k]

/-- Dirty bytes, by the line, the group, the clocks and the hint that one drain carries (R103: the hint of the grain unit). -/
def drainParts (ds : List (Nat × Dirty)) : List (List (Nat × Dirty)) :=
  let part := fun (e : Nat × Dirty) => (e.1 / 128, e.2.gid, e.2.vc, e.2.olds, e.2.hint)
  ((ds.map part).eraseDups).map fun p => ds.filter fun e => part e == p

/-- The home slice of a byte of an L1 tag (04_memory_hierarchy.md R107). -/
def L1Tag.slice (t : L1Tag) (k : Nat) : Nat :=
  match t.ts with
  | some ts => sliceOf (k % 2 ^ 52) true ts
  | none => sliceOf (k % 2 ^ 52) false 0

/-- Drains the dirty bytes of one tag that satisfy a test (R103, R117). -/
def drainTag (s : State) (core blk : Nat) (sel : Nat → Dirty → Bool) : State :=
  match (l1Of s core).get? blk with
  | none => s
  | some t =>
    let all := (t.dirty.map fun e => (blk * 512 + e.1, e.2)).filter fun e => sel e.1 e.2
    let s := if s.ms.damage.isEmpty then s else l1Found s core (all.map (·.1))
    let gone := if s.ms.damage.isEmpty then all else all.filter fun e => !l1Bad s core e.1
    if gone.isEmpty then s
    else
      let clean := t.clean.map fun e =>
        let newByte := fun (i : Nat) => ((Tab.get? gone (blk * 512 + e.1 * 32 + i)).map (·.val)).getD (e.2.data.getD i 0)
        (e.1, { e.2 with data := (List.range 32).map newByte })
      let left := t.dirty.filter fun e => (Tab.get? gone (blk * 512 + e.1)).isNone
      let s := setL1 s core ((l1Of s core).put blk { t with clean := clean, dirty := left })
      (drainParts gone).foldl (drainPart core t.slice) s

/-- Drains the dirty bytes of a core that satisfy a test (R117). -/
def drainCore (s : State) (core : Nat) (sel : Nat → Dirty → Bool) : State :=
  (l1Of s core).foldl (fun s e => drainTag s core e.1 sel) s
/-- Posted vault stores on their way that satisfy a test arrive and are applied (04_memory_hierarchy.md R101), each with its tag (R111). -/
def applyPosted (s : State) (sel : Posted → Bool) : State :=
  (List.range s.ms.posted.length).foldl (fun s i =>
    match s.ms.posted[i]? with
    | none => s
    | some p =>
      if p.wait && sel p then
        let s := homeWrite s p.vc p.bytes
        let tag := s.ms.tags.getD ((p.bytes.headD (0, 0)).1 / 128) 0
        { s with ms.posted := s.ms.posted.set i { p with wait := false, tag := tag } }
      else s) s

/-- What a core wrote up to a cycle reaches its ordering points: dirty bytes and vault stores on their way. -/
def drainUpTo (s : State) (core at_ : Nat) : State :=
  applyPosted (drainCore s core fun _ d => d.at_ ≤ at_) fun p => p.w.core == core && p.at_ ≤ at_
/-- Drains every dirty byte of a core. -/
def drainAll (s : State) (core : Nat) : State := applyPosted (drainCore s core fun _ _ => true) fun p => p.w.core == core

/-- Removes a tag from an L1 after draining it (R103); a watch on it records an event. -/
def evictTag (s : State) (core blk : Nat) : State :=
  let s := drainTag s core blk fun _ _ => true
  watchHit (setL1 s core ((l1Of s core).del blk)) core fun w => w.block / 512 == blk

/-- A tag holds a dirty byte of a damaged line, which keeps it in its way (11_traps_and_preemption.md R229). -/
def tagKept (s : State) (core : Nat) (e : Nat × L1Tag) : Bool := e.2.dirty.any fun d => l1Bad s core (e.1 * 512 + d.1)

/-- The victim of a set: the tag with the oldest last use, ties to the lowest way (R103). -/
def l1Victim (ts : List (Nat × L1Tag)) : Nat :=
  (ts.foldl (fun b e => if e.2.use < b.2.use ∨ (e.2.use = b.2.use ∧ e.2.way < b.2.way) then e else b) (ts.headD (0, {}))).1

/-- A tag for a block of a core, evicting the victim of its set when it needs a way (R103). DESIGN CHOICE (log 51): a set whose tags are all
kept by damaged lines takes one tag more. -/
def l1Alloc (s : State) (core blk : Nat) (p : Page) : State :=
  match (l1Of s core).get? blk with
  | some t => setL1 s core ((l1Of s core).put blk { t with use := s.cycle })
  | none =>
    let set := (l1Of s core).filter fun e => e.1 % 32 == blk % 32
    let free := set.filter fun e => s.ms.damage.isEmpty || !tagKept s core e
    let s' := if set.length < 8 then s
      else
        let v := l1Victim set
        let s := if s.ms.damage.isEmpty then s
          else l1Found s core ((((l1Of s core).getD v {}).dirty).map fun d => v * 512 + d.1)
        if free.isEmpty then s else evictTag s core (l1Victim free)
    let used := ((l1Of s' core).filter fun e => e.1 % 32 == blk % 32).map (·.2.way)
    let way := ((List.range 9).find? fun w => !used.contains w).getD 0
    setL1 s' core ((l1Of s' core).put blk
      { grain := p.grain, ts := if p.tiled then some p.ts else none, way := way, use := s.cycle })

/-- Ownership of the block leaves another core (R123): its write takes its tag as the block returns. -/
def recallFrom (s : State) (core k : Nat) : State :=
  { s with ms.owners := s.ms.owners.filter fun e => !(e.1 ≤ k && k < e.1 + e.2.2 && e.2.1 != core) }

/-- The home slice of a byte of a page (R107). -/
def Page.slice (p : Page) (k : Nat) : Nat := sliceOf (k % 2 ^ 52) p.tiled p.ts

/-- Prepares the home line for a read or write: the line takes its place in the L2, and D0 takes a host line that found one, in its
CXL.cache state (R104 to R106, R125). With C = 0 the access is performed at the host, and a line that D0 holds through another mapping leaves it
first (R91). -/
def homeTouch (s : State) (p : Page) (k : Nat) (hint : BitVec 2) (write : Bool) : State :=
  if !p.c then if p.host && (s.ms.hostLines.get? (k / 128)).isSome then hostDrop s (k / 128) else s
  else
    let s := l2Access s (k / 128) (p.slice k) hint
    if !p.host || (write && !inWindow s k) || (s.ms.l2.get? (k / 128)).isNone then s
    else hostFill s (k / 128) (if inWindow s k then (if write then 3 else 1) else 0)

/-- A plain read of a line on a die: at the home, or at the die's copy in its own L2, which is made when the L2 takes the line (R121). -/
def viewTouch (s : State) (die : Nat) (p : Page) (k : Nat) (hint : BitVec 2) : State :=
  let ln := k / 128
  if homeDie k == die then homeTouch s p k hint false
  else if ((s.ms.copies.getD die []).get? ln).isSome then l2Access s (copyKey die ln) (p.slice k) hint
  else
    let s := l2Access (homeTouch s p k hint false) (copyKey die ln) (p.slice k) hint
    if (s.ms.l2.get? (copyKey die ln)).isSome then
      { s with ms.copies := s.ms.copies.put die ((s.ms.copies.getD die []).put ln (homeRead s (ln * 128) 128)) }
    else s

/-- The byte that fills an L1: a write holder of the core reads its shadow (06_tile_tenure.md R138). -/
def fillByte (s : State) (core gid k : Nat) : Byte :=
  match writeTenure s k with
  | some e => if e.2.heldBy gid none then (e.2.byte? k).getD (homeByte s k) else homeByte s k
  | none => dieByte s (dieOf core) k

/-- Another group of the core holds a byte under write tenure: the core's L1 has that group's bytes, and takes none of the image
(06_tile_tenure.md R140). -/
def heldHere (s : State) (core gid k : Nat) : Bool :=
  match writeTenure s k with
  | some e => !e.2.heldBy gid none && e.2.core == core
  | none => false

/-- The sectors of a grain unit, filled for a group. -/
def fillSectors (s : State) (core gid u grain : Nat) : Tab (List Byte) :=
  ((List.range (grain / 32)).filter fun i => !(List.range 32).any fun j => heldHere s core gid (u + 32 * i + j)).map fun i =>
    (u % 512 / 32 + i, (List.range 32).map fun j => fillByte s core gid (u + 32 * i + j))

/-- A load miss fills the grain unit that holds a key (R103); a refill that changes a byte is a watch event (R55). -/
def l1Fill (s : State) (core gid : Nat) (p : Page) (k : Nat) (hint : BitVec 2) : State :=
  let u := k / p.grain * p.grain
  let s := recallFrom s core k
  let s := (List.range ((p.grain + 127) / 128)).foldl (fun s i => viewTouch s (dieOf core) p (u + 128 * i) hint) s
  let s := l1Alloc s core (k / 512) p
  let old := (((l1Of s core).get? (k / 512)).map (·.clean)).getD []
  let secs := fillSectors s core gid u p.grain
  let changed := secs.any fun e => match Tab.get? old e.1 with | some o => o.data != e.2 | none => false
  let s := updTag s core (k / 512) fun t =>
    { t with clean := secs.foldl (fun c e => c.put e.1 { data := e.2, fill := s.cycle }) t.clean }
  if changed then watchHit s core fun w => w.block ≤ k && k < w.block + w.len else s

/-- The byte an L1 holds: dirty, or in a clean sector whose lease has not ended (R103, R119). -/
def l1Byte (s : State) (core k : Nat) : Option Byte :=
  match (l1Of s core).get? (k / 512) with
  | none => none
  | some t =>
    match t.dirty.get? (k % 512) with
    | some d => some d.val
    | none =>
      match t.clean.get? (k % 512 / 32) with
      | some c => if s.cycle < c.fill + 4096 then some (c.data.getD (k % 32) 0) else none
      | none => none
/-- The dirty byte an L1 holds. -/
def l1Dirty (s : State) (core k : Nat) : Option Dirty := ((l1Of s core).get? (k / 512)).bind fun t => t.dirty.get? (k % 512)

/-- The byte at its home as a core of a group sees it: its own dirty byte, the holder's shadow, then the home image. -/
def homeView (s : State) (core gid k : Nat) : Byte :=
  let home := match writeTenure s k with
    | some e => if e.2.heldBy gid none then (e.2.byte? k).getD (homeByte s k) else homeByte s k
    | none => homeByte s k
  match l1Dirty s core k with
  | some d => if d.gid == gid || !foreign s gid none k then d.val else homeByte s k
  | none => home

/-- The whole grain unit of a key is clean or dirty in an L1 (18_reference_m_s.md R357). -/
def unitPresent (s : State) (core : Nat) (p : Page) (k : Nat) : Bool :=
  (List.range (p.grain / 32)).all fun i =>
    match ((l1Of s core).get? (k / 512)).bind fun t => t.clean.get? (k / p.grain * p.grain % 512 / 32 + i) with
    | some c => s.cycle < c.fill + 4096
    | none => false

/-! ### Addresses of an access -/

/-- A checked address: the key of each byte (an offset in scratch), its page, and the address reported by a trap. -/
structure Acc where
  sp : Space
  keys : List Nat
  page : Option Page
  va : W64
  deriving Repr

/-- The offset of an address operand. -/
def offInt (off : BitVec 24) : Int := signExt off.toNat 24

/-- The 57-bit bound (R87). -/
def tooHigh (va : Nat) : Bool := 2 ^ 57 ≤ va

/-- A vault address is valid for a context (R101). -/
def vaultOk (s : State) (ctx a : Nat) : Bool := a % 2 ^ 26 < 0x3000000 && a < 2 ^ 33 && (ctxOf s ctx).vlten

/-- The virtual address of byte o of a thread's private slice (R96). -/
def privVa (s : State) (w : WKey) (l o : Nat) : Nat :=
  let x := (warpAt s w).getD {}
  let r := ctxOf s (grp s w).ctx
  (r.pfbase.toNat + x.frame * 2 ^ (bits r.pfctl 4 0) + o / 4 * 128 + l * 4 + o % 4) % 2 ^ 64

/-- The address of a private access of `size` bytes at offset o (R96, R97): 0ACh, 148h, 061h, 060h, 062h. -/
def privAcc (s : State) (w : WKey) (l o size : Nat) : State × Except (Nat × W64) Acc :=
  let x := (warpAt s w).getD {}
  let g := grp s w
  let va := privVa s w l o
  if o + size > 2 ^ (bits (ctxOf s g.ctx).pfctl 4 0 - 6) then (s, .error (0x0AC, w64 va))
  else if o + size > x.hwm * 2048 then (s, .error (0x148, w64 va))
  else if tooHigh va then (s, .error (0x061, w64 va))
  else
    match translate s (some w.core) (dieOf w.core) g.ctx va with
    | (s, .error code) => (s, .error (code, w64 va))
    | (s, .ok p) => (s, .ok { sp := .prv, keys := (List.range size).map fun i => p.key (privVa s w l (o + i)), page := some p, va := w64 va })

/-- The address of a virtual access: 061h, then translation (R352). -/
def virtAcc (s : State) (w : WKey) (va size : Nat) : State × Except (Nat × W64) Acc :=
  if tooHigh va then (s, .error (0x061, w64 va))
  else
    match translate s (some w.core) (dieOf w.core) (grp s w).ctx va with
    | (s, .error code) => (s, .error (code, w64 va))
    | (s, .ok p) => (s, .ok { sp := .virt, keys := (List.range size).map fun i => p.key va + i, page := some p, va := w64 va })

/-- The address of a scratch access (R99): 0AAh outside the group's SCR bytes. -/
def scrAcc (s : State) (w : WKey) (o : Int) (size : Nat) : Except (Nat × W64) Acc :=
  if o < 0 ∨ o.toNat + size > (grp s w).scr * 256 then .error (0x0AA, w64 (wrap o 64))
  else .ok { sp := .scr, keys := (List.range size).map fun i => o.toNat + i, page := none, va := w64 o.toNat }

/-- The address of a vault access (R101): 0ABh. -/
def vltAcc (s : State) (w : WKey) (a size : Nat) : Except (Nat × W64) Acc :=
  if vaultOk s (grp s w).ctx a then
    .ok { sp := .vlt, keys := (List.range size).map fun i => vaultKey a + i, page := none, va := w64 a }
  else .error (0x0AB, w64 a)

/-- The address of an FM access: its alignment, its range and its translation, in the order of R352. -/
def resolve (s : State) (c : Cursor) (l : Nat) (a : AddrOps) (size : Nat) : State × Except (Nat × W64) Acc :=
  let pairA := wrap ((src s c l a.a true : Int) + offInt a.off) 64
  let one := (src s c l a.a false : Int) + offInt a.off
  match a.sp with
  | .virt => if pairA % size != 0 then (s, .error (0x0A0, w64 pairA)) else virtAcc s c.w pairA size
  | .vlt => if pairA % size != 0 then (s, .error (0x0A0, w64 pairA)) else (s, vltAcc s c.w pairA size)
  | .scr => if one % size != 0 then (s, .error (0x0A0, w64 (wrap one 64))) else (s, scrAcc s c.w one size)
  | .prv =>
    if one < 0 then (s, .error (0x0AC, w64 (wrap one 64)))
    else if one % size != 0 then (s, .error (0x0A0, w64 (privVa s c.w l one.toNat)))
    else privAcc s c.w l one.toNat size

/-- Page permission: U for a user access, then W for a store (R95, R379). -/
def permit (a : Acc) (user store : Bool) : Option Nat :=
  match a.page with
  | none => none
  | some p => if user && !p.u then some 0x081 else if store && !p.w then some 0x080 else none

/-- The L1 line of a key has an uncorrectable soft error. -/
def l1Hurt (s : State) (core k : Nat) : Bool :=
  s.ms.damage.any fun d => match d with | .l1 c ln _ => c == core && ln == k / 128 | _ => false

/-- The soft error that a byte of a page meets, of the array that serves it (11_traps_and_preemption.md R218, R229): the L1 that holds it, or the
home; a die's copy has none. -/
def byteDamage (s : State) (core gid : Nat) (p : Page) (k : Nat) : Option Nat :=
  let home := foreign s gid none k || p.sc || !p.c
  if !home && (l1Byte s core k).isSome then if l1Hurt s core k then some 0x089 else none
  else if !home && homeDie k != dieOf core && ((s.ms.copies.getD (dieOf core) []).get? (k / 128)).isSome then none
  else homeHurt s (k / 128)

/-- An uncorrectable soft error met by an access of a core (R218, R229), at its first byte that has one. -/
def damageCode (s : State) (core gid : Nat) (a : Acc) : Option Nat :=
  if s.ms.damage.isEmpty then none
  else
    match a.sp, a.page with
    | .vlt, _ => a.keys.findSome? fun k => homeHurt s (k / 128)
    | .scr, _ => a.keys.findSome? fun k => if s.ms.damage.any fun d => match d with | .scratch g u _ => g == gid && u == k / 256 | _ => false
        then some 0x08B else none
    | _, some p => a.keys.findSome? (byteDamage s core gid p)
    | _, none => none

/-! ### Loads and stores -/

/-- The thread's own held store to a key (06_tile_tenure.md R140). -/
def ownHeld (s : State) (w : WKey) (l k : Nat) : Option Byte :=
  (s.ten.flatMap fun e => e.2.held).reverse.findSome? fun h =>
    if h.w == w && h.lane == l && h.gid == gidOf s w && h.atomic.isNone then
      ((List.range h.keys.length).find? fun i => h.keys.getD i 0 == k).map fun i => h.bytes.getD i 0
    else none

/-- A load of a page goes to its home (R91, R116, R121, R124). -/
def atHome (p : Page) : Bool := p.sc || !p.c

/-- What a thread sees of a byte of scratch that stores have not all completed to: its own stores, and those of others from the cycle after
they complete (R100). -/
def scrSeen (now thr : Nat) (o : Byte × List (Nat × Nat × Byte)) : Byte :=
  match o.2.reverse.find? fun p => p.1 == thr || decide (p.2.1 < now) with
  | some p => p.2.2
  | none => o.1

/-- A byte of a group's scratch as a thread reads it (R100). -/
def scrByte (s : State) (w : WKey) (l k : Nat) : Byte :=
  let g := grp s w
  if s.cycle ≤ g.scrAt then
    match g.scrWas.get? k with
    | some o => scrSeen s.cycle (wIdx w * 32 + l) o
    | none => g.scratch.get k
  else g.scratch.get k

/-- The cycle in which an earlier scratch store of a thread to one of some bytes completes, which the thread's access waits for (R100). -/
def scrOwn (s : State) (w : WKey) (l : Nat) (ks : List Nat) : Option Nat :=
  let g := grp s w
  if s.cycle < g.scrAt then
    ks.findSome? fun k => (g.scrWas.get? k).bind fun o => (o.2.find? fun p => p.1 == wIdx w * 32 + l && decide (s.cycle < p.2.1)).map (·.2.1)
  else none

/-- The vault stores of a core on their way to some keys stand before its access to them (R114, R101). -/
def vaultOwn (s : State) (core : Nat) (ks : List Nat) : State :=
  if s.ms.posted.any (·.wait) then
    applyPosted s fun p => p.w.core == core && p.bytes.any fun c => ks.contains c.1
  else s

/-- A vault address lies above another cluster or die than the core's own (R101). -/
def lateral (core k : Nat) : Bool := natBits (k - 2 ^ 53) 32 30 != dieOf core || natBits (k - 2 ^ 53) 29 26 != clusterOf core

/-- A vault counts an access while the tide table samples (14_determinism_and_debug.md R285). -/
def countVault (s : State) (core k : Nat) : State :=
  let v := homeDie k * 16 + natBits (k - 2 ^ 53) 29 26
  let n := s.ms.vaultN.getD v (0, 0)
  if s.tide.en then { s with ms.vaultN := s.ms.vaultN.put v (if lateral core k then (n.1, n.2 + 1) else (n.1 + 1, n.2)) } else s

/-- Where a load finds a byte. -/
inductive Where where | image | home | hit | miss
  deriving DecidableEq, Repr

/-- A load of one byte: under another's write tenure it reads the image and keeps nothing of it (06 R140); at its home; in the L1; or by a
fill, or from the die's view with hint 11b. -/
def whereByte (s : State) (w : WKey) (gid : Nat) (p : Page) (home : Bool) (k : Nat) : Where :=
  if foreign s gid none k then .image
  else if home || atHome p then .home
  else if (l1Byte s w.core k).isSome then .hit
  else .miss

/-- A load prepares one byte. -/
def touchByte (s : State) (w : WKey) (gid : Nat) (p : Page) (hint : BitVec 2) (home : Bool) (k : Nat) : State :=
  match whereByte s w gid p home k with
  | .image => s
  | .home => homeTouch (recallFrom s w.core k) p k hint false
  | .hit => updTag s w.core (k / 512) fun t => { t with use := s.cycle }
  | .miss => if hint = 3 then viewTouch (recallFrom s w.core k) (dieOf w.core) p k hint else l1Fill s w.core gid p k hint

/-- The byte that a load returns once it has been prepared. -/
def loadByte (s : State) (w : WKey) (l gid : Nat) (p : Page) (home : Bool) (k : Nat) : Byte :=
  match ownHeld s w l k with
  | some b => b
  | none =>
    if foreign s gid none k then homeByte s k
    else if home || atHome p then homeView s w.core gid k
    else
      match l1Byte s w.core k with
      | some b => b
      | none => fillByte s w.core gid k

/-- The bytes a load returns (R353): scratch, vault, the home, or the core's L1 with a fill; bytes under another group's write
tenure come from the image, or from the thread's own held store (R140). -/
def loadBytes (s : State) (w : WKey) (l : Nat) (a : Acc) (hint : BitVec 2) (home : Bool) : State × List Byte :=
  let gid := gidOf s w
  match a.sp, a.page with
  | .scr, _ => (s, a.keys.map (scrByte s w l))
  | .vlt, _ =>
    let s := countVault (vaultOwn s w.core a.keys) w.core (a.keys.headD 0)
    (s, a.keys.map (homeByte s))
  | _, none => (s, [])
  | _, some p =>
    let asked := s.hostReqs.length
    let ask := a.keys.filter fun k => p.host && whereByte s w gid p home k != .hit
    let far := a.keys.filter fun k => whereByte s w gid p home k == .home || whereByte s w gid p home k == .image
    let s := a.keys.foldl (fun s k => touchByte s w gid p hint home k) s
    let s := if ask.isEmpty then s else hostAsks s ask
    let bs := a.keys.map (loadByte s w l gid p home)
    let s := if far.isEmpty then s else seeHome s w.core far
    (ownAsks s asked w l, bs)

/-- A posted store that awaits its acknowledgement (R101, R103, R111); `wait` tells that it has still to arrive, in a cycle that a free
value gives. -/
def post (s : State) (w : WKey) (l : Nat) (cs : List Host.Cell) (vault : Bool) (sset : Option Nat) (wait : Bool) : State :=
  let s := match sset with
    | some n => { s with ssets := s.ssets.put n { s.ssets.getD n {} with puts := (s.ssets.getD n {}).puts + 1 } }
    | none => s
  let p : Posted :=
    { w := w, lane := l, gid := gidOf s w, bytes := cs, vault := vault, sset := sset, wait := wait, at_ := s.cycle
      due := s.cycle + 1 + Config.freeNat s.freeCtr, vc := vcOf s (dieOf w.core)
      tag := if wait then 0 else s.ms.tags.getD ((cs.headD (0, 0)).1 / 128) 0 }
  { s with freeCtr := s.freeCtr + 1, ms.posted := s.ms.posted ++ [p] }

/-- The superstep set of a group's launch, when it has joined one (R102). -/
def ssetOf (s : State) (g : Group) : Option Nat := if lrec s g 152 152 = 1 then some (lrec s g 151 148) else none

/-- A store makes one byte of a tag dirty: it is as old as the oldest write of it that has not been drained (R117, R120), stands for the writes
that it replaces (R116), and its hint becomes that of every dirty byte of its grain unit (R103). -/
def L1Tag.store (t : L1Tag) (o : Nat) (d : Dirty) : L1Tag :=
  let at_ := match t.dirty.get? o with | some e => min e.at_ d.at_ | none => d.at_
  let olds := match t.dirty.get? o with | some e => (if e.vc == d.vc then e.olds else e.vc :: e.olds).eraseDups | none => []
  let dirty : Tab Dirty := t.dirty.map fun e => if e.1 / t.grain == o / t.grain then (e.1, { e.2 with hint := d.hint }) else e
  { t with dirty := dirty.put o { d with at_ := at_, olds := olds } }

/-- Damage of a core's L1 lines after a store to some keys; a line that no longer is damaged is no longer kept (11_traps_and_preemption.md
R229). -/
def l1Heal (s : State) (core : Nat) (ks : List Nat) : State :=
  let heal := fun (d : Damage) =>
    match d with
    | .l1 c ln g => if c == core then keepBad 128 (goodAfter ln 128 g ks) (.l1 c ln (goodAfter ln 128 g ks)) else some d
    | d => some d
  let ds := s.ms.damage.filterMap heal
  let bad := fun (e : Nat × Nat) => ds.any fun d => match d with | .l1 c ln _ => c == e.1 && ln == e.2 | _ => false
  { s with ms.damage := ds, ms.l1Kept := s.ms.l1Kept.filter bad }

/-- Writes bytes into the core's L1 (R103, R117); the core's watches see it at once. -/
def l1Store (s : State) (w : WKey) (p : Page) (hint : BitVec 2) (cs : List Host.Cell) : State :=
  let s := cs.foldl (fun s c =>
    let s := l1Alloc (recallFrom s w.core c.1) w.core (c.1 / 512) p
    let d : Dirty := { val := c.2, at_ := s.cycle, hint := hint, gid := gidOf s w, vc := vcOf s (dieOf w.core) }
    updTag s w.core (c.1 / 512) fun t => t.store (c.1 % 512) d) s
  let s := if s.ms.damage.isEmpty then s else l1Heal s w.core (cs.map (·.1))
  watchHit s w.core fun wt => wt.meets (cs.map (·.1))

/-- Invalidates the copies of a range of keys in every L1 but one and in every die, after draining them (R123). -/
def probe (s : State) (except : Option Nat) (lo len : Nat) : State :=
  let s := s.ms.l1.foldl (fun s e =>
    if some e.1 == except then s
    else
      let s := drainCore s e.1 fun k _ => lo ≤ k && k < lo + len
      let s := setL1 s e.1 ((l1Of s e.1).map fun t =>
        (t.1, { t.2 with clean := t.2.clean.filter fun c => !(t.1 * 512 + c.1 * 32 < lo + len && lo < t.1 * 512 + c.1 * 32 + 32) }))
      watchHit s e.1 fun wt => wt.block < lo + len && lo < wt.block + wt.len) s
  (List.range ((lo + len - 1) / 128 + 1 - lo / 128)).foldl (fun s i => dropCopies s (lo / 128 + i)) s

/-- Holds a store, or an atomic with its order and scope, of a thread under the first tenure that holds its bytes; it goes to the spill region
when that has room, else SPFULL is set and SPILL_RETRY takes it there (R138, R140). `strict` tells of a page with SC = 1. -/
def holdStore (s : State) (w : WKey) (l gid : Nat) (cs : List Host.Cell) (atomic : Option (Option RedOp × Fmt × Nat × Nat × Opd))
    (ord : Order) (sc : Scope) (strict : Bool := false) : State :=
  match cs with
  | [] => s
  | c :: _ =>
    match heldUnder s gid none c.1 with
    | none => s
    | some e =>
      let die := homeDie c.1
      let room := spillUsed s die < (s.spillSize.getD die 0).toNat
      let h : HeldStore :=
        { id := s.nextId, w := w, lane := l, gid := gid, keys := cs.map (·.1), bytes := cs.map (·.2), atomic := atomic
          ord := ord, sc := sc, vc := vcOf s (dieOf w.core), spilled := room, strict := strict, at_ := s.cycle }
      { s with
        nextId := s.nextId + 1, ten := s.ten.put e.1 { e.2 with held := e.2.held ++ [h] }
        spillFull := if room then s.spillFull else s.spillFull.setIfInBounds die true }

/-- Writes cells of a group's scratch: the bytes, the tag of each line (05_consistency.md R111), and the stores that are not complete, of threads
that complete theirs in cycle `until` (R100); the device writes with no thread, and at once. -/
def Group.scrPut (g : Group) (now until_ : Nat) (thr : Option Nat) (cs : List Host.Cell) : Group :=
  let was := if now ≤ g.scrAt then g.scrWas else []
  let keep := fun (t : Tab (Byte × List (Nat × Nat × Byte))) (c : Host.Cell) =>
    match thr with
    | none => t.del c.1
    | some n =>
      let o := (t.get? c.1).getD (g.scratch.get c.1, [])
      t.put c.1 (o.1, o.2 ++ [(n, until_, c.2)])
  { g with
    scratch := g.scratch.putAll cs, scrAt := if thr.isSome then max g.scrAt until_ else g.scrAt, scrWas := cs.foldl keep was
    scrTags := (linesOf cs).foldl (fun t ln => t.put ln (t.getD ln 0 + 1)) g.scrTags }

/-- Writes cells of a group's scratch, for a thread, whose instruction tells when the store completes (R100), or for the device. -/
def scrStore (s : State) (gid : Nat) (thr : Option Nat) (cs : List Host.Cell) : State :=
  let heal := fun (d : Damage) =>
    match d with
    | .scratch g u b => if g == gid then keepBad 256 (goodAfter u 256 b (cs.map (·.1))) (.scratch g u (goodAfter u 256 b (cs.map (·.1)))) else some d
    | d => some d
  let s := if s.ms.damage.isEmpty then s else { s with ms.damage := s.ms.damage.filterMap heal }
  updGroup s gid fun g => g.scrPut s.cycle (s.cycle + (s.cur.map (·.lat)).getD 0) thr cs

/-- Drains a core's own dirty bytes at some keys: an access of the core at their home stands after them (R114). -/
def drainKeys (s : State) (core : Nat) (ks : List Nat) : State :=
  if ks.any fun k => (l1Dirty s core k).isSome then drainCore s core fun k _ => ks.contains k else s

/-- Stores bytes (R384; `home` sends a release to the home slice, 05 R118): to scratch, a vault (posted), the home at once for SC and C = 0
pages and for hint 11b (posted), or the L1; bytes under another group's write tenure are held at the home (06 R140). -/
def storeBytes (s : State) (w : WKey) (l : Nat) (a : Acc) (hint : BitVec 2) (home : Bool) (bs : List Byte) : State :=
  let gid := gidOf s w
  let cs := a.keys.zip bs
  match a.sp, a.page with
  | .scr, _ => scrStore s gid (some (wIdx w * 32 + l)) cs
  | .vlt, _ =>
    let s := countVault (vaultOwn s w.core a.keys) w.core (a.keys.headD 0)
    if lateral w.core (a.keys.headD 0) then post s w l cs true (ssetOf s (grp s w)) true
    else post (homeWrite s (vcOf s (dieOf w.core)) cs) w l cs true none false
  | _, none => s
  | _, some p =>
    let fr := cs.filter fun c => (heldUnder s gid none c.1).isSome
    let own := cs.filter fun c => (heldUnder s gid none c.1).isNone
    let s := if fr.isEmpty then s else holdStore (drainKeys s w.core (fr.map (·.1))) w l gid fr none .none .grp p.sc
    if own.isEmpty then s
    else if atHome p || home || hint = 3 then
      let ks := own.map (·.1)
      let s := if atHome p then drainKeys s w.core ks else s
      let s := own.foldl (fun s c => homeTouch (recallFrom s w.core c.1) p c.1 hint true) s
      let s := homeOrShadow s gid none s.cycle (vcOf s (dieOf w.core)) own
      let s := own.foldl (fun s c => updTag s w.core (c.1 / 512) fun t => { t with dirty := t.dirty.del (c.1 % 512) }) s
      let s := seeHome s w.core ks
      let s := if atHome p then s else post s w l own false none false
      watchHit s w.core fun wt => wt.meets ks
    else l1Store s w p hint own

/-! ### Acquires and releases -/

/-- The armed watches of a core, with their groups. -/
def watchesOf (s : State) (core : Nat) : List (Nat × Watch) :=
  s.warps.flatMap fun e => if (wKeyOf e.1).core == core then e.2.th.toList.filterMap fun t => t.watch.map fun w => (e.2.gid, w) else []

/-- The grain unit of an armed watch is fetched anew from its home, as a load miss would, once the die's copy has caught up (R119): another core
gives up the block (R123); a byte other than the one it
replaces is an event (02_execution_model.md R55). `old` gives the sectors as they were. -/
def refetch (old : Tab L1Tag) (core : Nat) (s : State) (e : Nat × Watch) : State :=
  let w := e.2
  let s := (List.range ((w.len + 127) / 128)).foldl (fun s i => viewTouch s (dieOf core) w.page (w.block + 128 * i) 1) (recallFrom s core w.block)
  let s := ownSees s core ((List.range ((w.len + 127) / 128)).map fun i => w.block + 128 * i)
  let s := l1Alloc s core (w.block / 512) w.page
  let secs := fillSectors s core e.1 w.block w.len
  let was := ((old.get? (w.block / 512)).map (·.clean)).getD []
  let changed := secs.any fun e => match Tab.get? was e.1 with | some o => o.data != e.2 | none => false
  let s := updTag s core (w.block / 512) fun t => { t with clean := secs.foldl (fun c e => c.put e.1 { data := e.2, fill := s.cycle }) t.clean }
  if changed then watchHit s core fun x => x.block == w.block && x.len == w.len else s

/-- Invalidates the clean sectors of a core's L1, refetching the block of each armed watch (R119). -/
def acquireL1 (s : State) (core : Nat) : State :=
  let old := l1Of s core
  let s := setL1 s core (old.map fun t => (t.1, { t.2 with clean := [] }))
  (watchesOf s core).foldl (refetch old core) s

/-- Scope .die, .pkg or .sys (R114). -/
def wideDie (sc : Scope) : Bool := sc == .die || sc == .pkg || sc == .sys
/-- Scope .pkg or .sys. -/
def widePkg (sc : Scope) : Bool := sc == .pkg || sc == .sys

/-- The release records of other cores for some keys (R118), those of tenures that held one of them among them (R128). -/
def releasesAt (s : State) (core : Nat) (ks : List Nat) : List Release :=
  s.ms.releases.filter fun r => r.core != core && ks.any fun k => k / 128 == r.line || inFoot r.foot k

/-- A core has not drained all that it had written when it released in a cycle (R118): dirty bytes, but for those that a damaged line keeps,
or vault stores on their way. -/
def behind (s : State) (core at_ : Nat) : Bool :=
  ((l1Of s core).any fun t => t.2.dirty.any fun d => d.2.at_ ≤ at_ && !l1Bad s core (t.1 * 512 + d.1)) ||
  s.ms.posted.any fun p => p.wait && p.w.core == core && p.at_ ≤ at_
/-- A store or atomic that a core made up to a cycle is held under a tenure, not one of the group's `gid` (06_tile_tenure.md R140): it happens
before the core's release. DEDUCED (log 76): no acquire waits for a store held under its own group's tenure. -/
def heldBehind (s : State) (gid : Option Nat) (core at_ : Nat) : Bool :=
  s.ten.any fun e => some e.2.gid != gid && e.2.held.any fun h => h.cmd.isNone && h.w.core == core && h.at_ ≤ at_
/-- What a core wrote up to a release of its own has not all reached its ordering points: drains, and stores held under tenures. -/
def openBehind (s : State) (core at_ : Nat) : Bool := behind s core at_ || heldBehind s none core at_
/-- The release records that still have writes behind them. -/
def undrained (s : State) (r : Release) : Bool := openBehind s r.core r.at_

/-- A release record is carried to its slice (R118): a core's earlier record for the line gives way, and a full slice retires its oldest
record by draining its core. -/
def addRecord (s : State) (r : Release) : State :=
  let same := fun (x : Release) => x.line == r.line && x.core == r.core
  let was := s.ms.releases.filter same
  let r := was.foldl (fun (r : Release) x =>
    { r with at_ := max r.at_ x.at_, vc := vcMax r.vc x.vc, foot := (r.foot ++ x.foot).eraseDups, sys := r.sys || x.sys }) r
  let keep := s.ms.releases.filter fun x => !same x
  let place := fun (x : Release) => (homeDie (x.line * 128), x.slice)
  if (keep.filter fun x => place x == place r).length < 1024 then { s with ms.releases := keep ++ [r] }
  else
    match keep.find? fun x => place x == place r with
    | some x =>
      let s := drainUpTo s x.core x.at_
      { s with ms.releases := keep.erase x ++ [r] }
    | none => { s with ms.releases := keep ++ [r] }

/-- The records of one release by a core at a line: its own, and those of the releases that the thread's earlier loads may have read, which
happen before it (R115, R118). -/
def addRecords (s : State) (core line slice : Nat) (foot : List (Nat × Nat)) (seen : List (Nat × Nat)) (sys : Bool) : State :=
  let rec1 := fun (s : State) (q : Nat × Nat) =>
    addRecord s { line := line, slice := slice, foot := foot, core := q.1, at_ := q.2, vc := vcOf s (dieOf core), sys := sys }
  (seen.filter fun q => openBehind s q.1 q.2).foldl rec1 (rec1 s (core, s.cycle))

/-- The release of a thread's write to a key (R118). -/
def addRelease (s : State) (w : WKey) (l : Nat) (x : Acc) (sys : Bool) : State :=
  let k := x.keys.headD 0
  let slice := match x.page with | some p => p.slice k | none => 0
  addRecords s w.core (k / 128) slice [] (thrAt s w l).relSeen sys

/-- Posted stores that satisfy a test are applied and acknowledged, each with its tag (R111). -/
def ackPosted (s : State) (is : Posted → Bool) : State :=
  let sel := s.ms.posted.map is
  let s := if s.ms.posted.any (·.wait) then applyPosted s is else s
  let mine := ((s.ms.posted.zip sel).filter (·.2)).map (·.1)
  let s := mine.foldl (fun s p =>
    let s := { s with ms.ackTag := s.ms.ackTag.put (wIdx p.w * 32 + p.lane) p.tag }
    match p.sset with
    | some n => { s with ssets := s.ssets.put n { s.ssets.getD n {} with puts := (s.ssets.getD n {}).puts - 1 } }
    | none => s) s
  { s with ms.posted := ((s.ms.posted.zip sel).filter (!·.2)).map (·.1) }

/-- Posted stores of a thread that await acknowledgement are acknowledged: FENCE.rel waits for them (R340 step 1). -/
def settlePosted (s : State) (w : WKey) (l : Nat) : State :=
  ackPosted s fun p => p.w == w && p.lane == l && p.gid == gidOf s w

/-- An access of a core to a page with SC = 1 is held under a tenure, and so not complete (R124). -/
def orderOpen (s : State) (core : Nat) : Bool := s.ten.any fun e => e.2.held.any fun h => h.strict && h.cmd.isNone && h.w.core == core

/-- The thread has a store or atomic held under tenure (R340 step 1, R140). -/
def hasHeld (s : State) (w : WKey) (l : Nat) : Bool := s.ten.any fun e => e.2.held.any fun h => h.w == w && h.lane == l && h.gid == gidOf s w

/-- A response of the host to an access of the thread is outstanding; with `reads`, one that brings data (13_host_and_system.md R257). -/
def hostOpen (s : State) (w : WKey) (l : Nat) (reads : Bool) : Bool := s.hostReqs.any fun q => q.own == some (w, l) && (!reads || q.kind.reads)

/-- An earlier access of the thread has not been performed (R340 step 1). -/
def accessOpen (s : State) (w : WKey) (l : Nat) : Bool := hasHeld s w l || hostOpen s w l false

/-- The acquire part of an access that read some keys, on a core (R118, R119, R122): the die applies what stands before the releases read and
before the writes that the thread has read, and its own later writes stand after them. -/
def acquire (s : State) (w : WKey) (l : Nat) (sc : Scope) (ks : List Nat) : State :=
  if !wideDie sc then s
  else
    let d := dieOf w.core
    let lines := (ks.map (· / 128)).eraseDups
    let read := lines.foldl (fun v ln => vcMax v (s.ms.lineVc.getD ln [])) (thrAt s w l).readVC
    let vc := (releasesAt s w.core ks).foldl (fun v r => vcMax v r.vc) read
    let s := updThr s w l fun t => { t with readVC := vc }
    let s := catchUp (vcMerge s d vc) d vc (s.ms.forwards.getD d []).length
    acquireL1 s w.core

/-- The release part before a store of a thread at a scope (R117, R118, R122, R125): what the thread has read stands before the release, and
.sys drains the window bytes of the core. -/
def releaseBefore (s : State) (w : WKey) (l : Nat) (sc : Scope) : State :=
  let s := if sc == .sys then drainCore s w.core fun k _ => inWindow s k else s
  let s := vcMerge s (dieOf w.core) (thrAt s w l).readVC
  if widePkg sc then vcTick s (dieOf w.core) else s

end Sys2Proof.Machine
end

