-- ==== Sys2Proof/Machine/Fetch.lean ====
section
/-! DEFINITION. Fetching the instruction of a path (15_instruction_formats.md R290 steps 1 to 9, R303, 18_reference_m_s.md
R379), the paths of a warp and their ranking (02_execution_model.md R40, R42 to R46), and readiness (R41, R292). -/
namespace Sys2Proof.Machine

/-! ### Fetch -/

/-- The instruction lines of a core. -/
def icacheOf (s : State) (core : Nat) : Tab (List Byte × Nat × Nat) := s.ms.icache.getD core []

/-- A line of instructions is still on its way from the host to a core. -/
def lineComing (s : State) (core line : Nat) : Bool :=
  (s.ms.ifetch.any fun e => e.1 == core && e.2.1 == line) && s.hostReqs.any fun q => q.kind.reads && (hostHalves line).contains q.addr

/-- A line is asked of the host for a core, unless D0 holds it, and noted while a response is awaited. -/
def fetchAsk (s : State) (core line : Nat) (bs : List Byte) : State :=
  let asked := s.hostReqs.length
  let s := hostAsks s [line * 128, line * 128 + 64]
  if s.hostReqs.length = asked then s else { s with ms.ifetch := s.ms.ifetch ++ [(core, line, bs)] }

/-- A line that has come is used. -/
def fetchUse (s : State) (core line : Nat) : State :=
  if s.ms.ifetch.isEmpty || lineComing s core line then s
  else { s with ms.ifetch := s.ms.ifetch.filter fun e => !(e.1 == core && e.2.1 == line) }

/-- A line of the L1 instruction cache, filled from the home with hint 01b when absent (R303), as a request that recalls ownership (R123). A
page with C = 0 takes no line, here or in the L2, and is read at the host (04_memory_hierarchy.md R91; log 71). -/
def icacheLine (s : State) (core : Nat) (p : Page) (line : Nat) : State × List Byte :=
  let cs := icacheOf s core
  if !p.c then
    match s.ms.ifetch.find? fun e => e.1 == core && e.2.1 == line with
    | some e => (fetchUse s core line, e.2.2)
    | none =>
      let s := homeTouch s p (line * 128) 1 false
      let bs := homeRead s (line * 128) 128
      (fetchAsk s core line bs, bs)
  else
  match cs.get? line with
  | some e => ({ fetchUse s core line with ms.icache := s.ms.icache.put core (cs.put line (e.1, s.cycle, e.2.2)) }, e.1)
  | none =>
    let asked := s.hostReqs.length
    let s := homeTouch (recallFrom s 512 (line * 128)) p (line * 128) 1 false
    let s := if s.hostReqs.length = asked then fetchAsk s core line [] else { s with ms.ifetch := s.ms.ifetch ++ [(core, line, [])] }
    let bs := homeRead s (line * 128) 128
    let ways := cs.filter fun e => e.1 % 64 == line % 64
    let v := ways.foldl (fun b e =>
      if e.2.2.1 < b.2.2.1 ∨ (e.2.2.1 = b.2.2.1 ∧ e.2.2.2 < b.2.2.2) then e else b) (ways.headD (0, [], 0, 0))
    let cs' := if ways.length < 8 then cs else cs.del v.1
    let used := (cs'.filter fun e => e.1 % 64 == line % 64).map (·.2.2.2)
    let way := ((List.range 8).find? fun w => !used.contains w).getD 0
    ({ s with ms.icache := s.ms.icache.put core (cs'.put line (bs, s.cycle, way)) }, bs)

/-- The page of a fetched byte, with the failures of step 1 of R290. -/
def fetchPage (s : State) (core ctx va : Nat) : State × Except (Nat × W64) Page :=
  match translate s (some core) (dieOf core) ctx va with
  | (s, .error code) => (s, .error (code, w64 va))
  | (s, .ok p) => (s, if p.x then .ok p else .error (0x0AF, w64 va))

/-- The soft error that the fetch of a line meets (11_traps_and_preemption.md R218, R229): 08Ah in the instruction cache, or that of the array that
fills it. -/
def fetchDamage (s : State) (core : Nat) (p : Page) (line : Nat) : Option Nat :=
  if s.ms.damage.isEmpty then none
  else if s.ms.damage.contains (.icache core line) then some 0x08A
  else if p.c && ((icacheOf s core).get? line).isSome then none
  else homeHurt s line

/-- MODEL: the code by which a fetch tells that a line is on its way from the host; no trap has it. -/
def fetchWait : Nat := 0x201

/-- Twelve bytes at a program counter, and whether their page has U = 1 (R290 step 1, R379). -/
def fetchBytes (s : State) (core ctx : Nat) (pc : W64) : State × Except (Nat × W64) (List Byte × Bool) :=
  let a := pc.toNat
  if tooHigh (a + 11) then (s, .error (0x061, pc))
  else
    match fetchPage s core ctx a with
    | (s, .error e) => (s, .error e)
    | (s, .ok p) =>
      let r := if p.covers ctx (a + 11) then (s, Except.ok p) else fetchPage s core ctx (a + 11)
      match r with
      | (s, .error e) => (s, .error (e.1, w64 (a / 65536 * 65536 + 65536)))
      | (s, .ok q) =>
        let key := fun (i : Nat) => if p.covers ctx (a + i) then p.key (a + i) else q.key (a + i)
        match (fetchDamage s core p (key 0 / 128)).or (fetchDamage s core q (key 11 / 128)) with
        | some code => (s, .error (code, pc))
        | none =>
          let l0 := icacheLine s core p (key 0 / 128)
          let l1 := icacheLine l0.1 core q (key 11 / 128)
          if lineComing l1.1 core (key 0 / 128) then (l1.1, .error (fetchWait, w64 (key 0 / 128)))
          else if lineComing l1.1 core (key 11 / 128) then (l1.1, .error (fetchWait, w64 (key 11 / 128)))
          else
          (l1.1, .ok ((List.range 12).map fun i =>
            if key i / 128 == key 0 / 128 then l0.2.getD (key i % 128) 0 else l1.2.getD (key i % 128) 0, p.u))

/-- The instruction that a covering PBLK has already fetched for a path (R299, R300), with the mode of its page. -/
def heldWord (s : State) (w : WKey) (lanes : W32) : Option (Instr × Bool) :=
  (lanesOf lanes).findSome? fun l => (thrAt s w l).blk.bind fun b => b.code.head?.map fun i => (i, b.user)

/-- Threads of a path whose fetch enters a U = 0 page from a U = 1 page other than through SVC or handler entry (R379). -/
def gateTraps (s : State) (w : WKey) (lanes : W32) (user : Bool) : List Nat :=
  if user then []
  else (lanesOf lanes).filter fun l =>
    let t := thrAt s w l
    t.fromUser == some true && !t.gate

/-- The lanes marked absent from the execution at an address (R59). -/
def Warp.gone (x : Warp) (pc : W64) : W32 := x.absent.getD pc.toNat 0
/-- Marks lanes absent at an address. -/
def markGone (s : State) (w : WKey) (pc : W64) (m : W32) : State :=
  updWarp s w fun x => { x with absent := x.absent.put pc.toNat (x.gone pc ||| m) }
/-- A warp-wide instruction (02_execution_model.md R58). -/
def Instr.warpWide : Instr → Bool
  | .vote _ _ | .shfl _ _ | .wred _ _ | .wscan _ _ | .wsync _ _ => true
  | _ => false

/-- The opcodes of the warp-wide instructions (15_instruction_formats.md Table 15.4). -/
def warpWideOpc (opc : BitVec 10) : Bool := opc == 0x087#10 || (0x0A0 ≤ opc.toNat && opc.toNat ≤ 0x0A3)

/-- Lanes that leave an address by a trap before the instruction is decoded are absent from a warp-wide instruction there (R59). -/
def leaveAt (s : State) (w : WKey) (pc : W64) (bs : List Byte) (m : W32) : State :=
  if warpWideOpc (Raw.ofWord (wordOfBytes bs)).opc then markGone s w pc m else s

/-- The latched path fetches and decodes its instruction: the traps of steps 1 to 9 of R290 are taken, and the instruction and
its cursor are answered for the threads that go on. -/
def fetchPath (s : State) (q : Issue) : State × Option Instr :=
  let ls := (lanesOf q.lanes).filter fun l =>
    let t := thrAt s q.w l
    t.runs && t.pc == q.pc
  let lanes := maskOf ls.contains
  if ls.isEmpty then (s, none)
  else
    match heldWord s q.w lanes with
    | some (i, user) => ({ s with cur := some { w := q.w, lanes := lanes, pc := q.pc, user := user } }, some i)
    | none =>
      match fetchBytes s q.w.core (grp s q.w).ctx q.pc with
      | (s, .error (code, addr)) =>
        if code = fetchWait then (pathWait s { w := q.w, lanes := lanes, pc := q.pc, user := true } (.fetch addr.toNat), none)
        else
        (takeTraps (markGone s q.w q.pc lanes) q.w q.pc (ls.map fun l => { lane := l, code := code, addr := addr }), none)
      | (s, .ok (bs, user)) =>
        let bad := gateTraps s q.w lanes user
        let s := if bad.isEmpty then s else leaveAt s q.w q.pc bs (maskOf bad.contains)
        -- a lane that traps here is absent from a warp-wide instruction at the address (R59)
        let s := if bad.isEmpty then s else takeTraps s q.w q.pc (bad.map fun l => { lane := l, code := 0x081, addr := q.pc })
        let ls := ls.filter fun l => !bad.contains l
        let c : Cursor := { w := q.w, lanes := maskOf ls.contains, pc := q.pc, user := user }
        if ls.isEmpty then (s, none)
        else
          match decode (wordOfBytes bs) with
          | .ok i => ({ s with cur := some c }, some i)
          | .error .guard => (takeTraps (leaveAt s q.w q.pc bs lanes) q.w q.pc (ls.map fun l => { lane := l, code := 0x001, addr := 0 }), none)
          | .error e =>
            let h := (Raw.ofWord (wordOfBytes bs)).hdr
            let act := activeLanes s c h
            let s := issuePath (leaveAt s q.w q.pc bs (maskOf ls.contains)) c h
            (endTraps s c (act.map fun l => { lane := l, code := e.code, addr := 0 }), none)

/-! ### Paths and their ranking -/

/-- A path of a warp: its lanes, program counter, handler state, whether its wait count has reached 256 and whether it is
marked yielded (R40, R44, R46). -/
structure Path where
  lanes : W32
  pc : W64
  inh : Bool
  starved : Bool
  yielded : Bool
  deriving DecidableEq, Repr, Inhabited

/-- The paths of a warp (R40): the threads that take part in a vote (R39) by the address at which they do. -/
def pathsOf (x : Warp) (progress : Bool) : List Path :=
  let run := (List.range 32).filter fun l => (x.thr l).votes
  let keys := (run.map fun l => ((x.thr l).votePc, (x.thr l).inh)).eraseDups
  keys.map fun k =>
    let ls := run.filter fun l => (x.thr l).votePc == k.1 && (x.thr l).inh == k.2
    { lanes := maskOf ls.contains, pc := k.1, inh := k.2
      starved := progress && ls.any fun l => 256 ≤ (x.thr l).wait
      yielded := ls.any fun l => (x.thr l).yield }

/-- The step of R42 that ranks a path. -/
def Path.step (p : Path) : Nat := if p.starved then 1 else if p.yielded then 3 else 2
/-- One path ranks before another (R42); a path outside a handler comes first at one address. -/
def Path.before (p q : Path) : Bool :=
  p.step < q.step || (p.step == q.step && (p.pc.toNat < q.pc.toNat || (p.pc == q.pc && !p.inh && q.inh)))
/-- Puts a path in its rank. -/
def rankIn (p : Path) : List Path → List Path
  | [] => [p]
  | q :: qs => if p.before q then p :: q :: qs else q :: rankIn p qs
/-- The ranking of R42. -/
def rankPaths (ps : List Path) : List Path := ps.foldr rankIn []

/-- The instruction a path would fetch; none when its fetch traps. -/
def peek (s : State) (w : WKey) (p : Path) : Option Instr :=
  match heldWord s w p.lanes with
  | some (i, _) => some i
  | none =>
    match (fetchBytes s w.core (grp s w).ctx p.pc).2 with
    | .error _ => none
    | .ok (bs, _) =>
      match decode (wordOfBytes bs) with
      | .ok i => some i
      | .error _ => none

/-- The registers an instruction reads or writes, its guard among them, by operand code. -/
def Instr.codes (i : Instr) : List Nat :=
  (Instr.uses i).flatMap Use.codes ++ match i.hdr? with | some h => [(Opd.p h.grd.p).toCode.toNat] | none => []

/-- A thread may issue an instruction (R292): it lies in every open window, and no register it reads or writes is awaited. -/
def Thread.ready (t : Thread) (codes : List Nat) : Bool :=
  t.pend.all fun e => 1 ≤ e.left && e.regs.all fun r => !codes.contains r

/-- A path's next instruction is ready (R41): no thread of it is still executing an earlier one that ends in its own time, and the scoreboard lets
it issue. -/
def pathReady (s : State) (w : WKey) (p : Path) : Bool :=
  let x := (warpAt s w).getD {}
  if !(lanesOf p.lanes).all (fun l => (x.thr l).runs) then false
  else if (lanesOf p.lanes).all (fun l => (x.thr l).pend.isEmpty) then true
  else
    match peek s w p with
    | none => (lanesOf p.lanes).all fun l => (x.thr l).pend.all (1 ≤ ·.left)
    | some i => (lanesOf p.lanes).all fun l => (x.thr l).ready (Instr.codes i)

/-- A path's instruction belongs to the port B class (R43). -/
def pathPortB (s : State) (w : WKey) (p : Path) : Bool := ((peek s w p).map Instr.portB).getD false

/-- The progress promise is on for the warp's launch (R45). -/
def progressOn (s : State) (w : WKey) : Bool := lrec s (grp s w) 138 138 == 1

/-- A thread is inside a block that its single step began (R300, 18_reference_m_s.md R380). -/
def Thread.midStep (t : Thread) : Bool := t.sstep && t.blk.isSome

/-- The warp's group is not held by a debug halt, or may issue once (14 R287, R380), a block counting as one instruction (R300). -/
def mayIssue (s : State) (w : WKey) : Bool :=
  !(grp s w).halted || match warpAt s w with | some x => x.step1 || x.th.toList.any Thread.midStep | none => false

/-- The paths of a warp that may issue, ranked: while its group is being saved, only those inside a block (11 R234, R300), and in a halted group that
has made its single step, only those inside the block that the step began. -/
def votePaths (s : State) (w : WKey) : List Path :=
  if s.cycle < (grp s w).readyAt then [] else
  let x := (warpAt s w).getD {}
  let ps := rankPaths (pathsOf x (progressOn s w))
  let ps := if (grp s w).halted && !x.step1 then ps.filter fun p => (lanesOf p.lanes).any fun l => (x.thr l).midStep else ps
  match (grp s w).pre with
  | .saving _ => ps.filter fun p => (lanesOf p.lanes).any fun l => (x.thr l).blk.isSome
  | _ => ps

/-- A warp is eligible (R41). -/
def eligible (s : State) (w : WKey) : Bool :=
  match warpAt s w with
  | none => false
  | some _ =>
    mayIssue s w && match votePaths s w with
      | [] => false
      | p :: _ => pathReady s w p

/-- ISSUE_VOTE (02_execution_model.md R41 to R46): a quadrant chooses an eligible warp round-robin, its paths are ranked, and
port A and port B take theirs. Wait counts and yield marks change in a vote only. -/
def execIssueVote (core quad : Nat) (s : State) : Host.Outcome State Fault Refusal :=
  let q := core * 4 + quad
  let last := s.lastSlot.getD q 7
  match (List.range 8).find? fun i => eligible s ⟨core, quad, (last + 1 + i) % 8⟩ with
  | none => done s
  | some i =>
    let w : WKey := ⟨core, quad, (last + 1 + i) % 8⟩
    let progress := progressOn s w
    let x := (warpAt s w).getD {}
    match votePaths s w with
    | [] => done s
    | a :: rest =>
      let b := rest.head?.filter fun p => pathReady s w p && pathPortB s w p
      let issued := fun (l : Nat) => hasLane a.lanes l || (match b with | some p => hasLane p.lanes l | none => false)
      let voted := fun (l : Nat) (t : Thread) =>
        let t := { t with yield := false }
        if !progress then t
        else if issued l then { t with wait := 0 }
        else if t.votes then { t with wait := min 256 (t.wait + 1) }
        else t
      let once := fun (l : Nat) (t : Thread) => if x.step1 && issued l then { t with sstep := true } else t
      let s := updWarp s w fun x => { x with step1 := false, th := Vector.ofFn fun l : Fin 32 => once l.val (voted l.val (x.thr l.val)) }
      let q2 := match b with | some p => [({ w := w, lanes := p.lanes, pc := p.pc } : Issue)] | none => []
      let n := s.tide.counts.getD core {}
      let s := if s.tide.en then { s with tide.counts := s.tide.counts.put core { n with portA := n.portA + 1, portB := n.portB + q2.length } } else s
      done { s with
        lastSlot := s.lastSlot.put q w.slot
        issue := s.issue ++ { w := w, lanes := a.lanes, pc := a.pc } :: q2 }

end Sys2Proof.Machine
end

