-- ==== Sys2Proof/Machine/Control.lean ====
section
/-! DEFINITION. Predicates and control: PLOP, PBLK, branches and the call stack, YIELD, NOP, SWT, TRET, RGN and BRK
(15_instruction_formats.md R295, R298 to R300, and the entries of 16 to 19). -/
namespace Sys2Proof.Machine

/-- PLOP (18_reference_m_s.md R365). -/
def execPlop (h : Hdr) (o : PlopOps) (s : State) : Host.Outcome State Fault Refusal :=
  perLane (.plop h o) h s fun c s l =>
    .ok (dstP s c l o.d 0 (o.lut.getLsbD ((if srcP s c l o.a then 2 else 0) + if srcP s c l o.b then 1 else 0)))

/-! ### PBLK -/

/-- The fetch and the static checks of the covered words, in address order (R299): the code that concerns every thread of the path,
or the one that concerns the threads whose guard is true, or the instructions and their mode. -/
def coveredWords (s : State) (c : Cursor) : Nat → W64 → State × Except (Bool × Nat × W64) (List Instr × Bool)
  | 0, _ => (s, .ok ([], c.user))
  | n + 1, pc =>
    match fetchBytes s c.w.core (grp s c.w).ctx pc with
    | (s, .error (code, addr)) => (s, .error (true, code, addr))
    | (s, .ok (bs, user)) =>
      if !user && c.user then (s, .error (true, 0x081, pc))
      else
        match decodeCovered (wordOfBytes bs) with
        | .error e => (s, .error (false, e.code, 0))
        | .ok i =>
          let us := Instr.uses i
          match operandTrap us ((warpAt s c.w).getD {}).alloc with
          | some code => (s, .error (false, code, 0))
          | none =>
            match coveredWords s { c with user := user } n (pc + 12) with
            | (s, .error e) => (s, .error e)
            | (s, .ok (is, _)) => (s, .ok (i :: is, user))

/-- PBLK (R298, R299, R363): the predicate is sampled once in each active thread; the other threads of the path execute none of the
covered instructions. DEDUCED (log 73): when covered words fail their checks there is no instruction for the threads whose guard is false to be
inactive for, and they go on after the last covered word. -/
def execPblk (h : Hdr) (o : PblkOps) (s : State) : Host.Outcome State Fault Refusal :=
  match s.cur with
  | none => done s
  | some c =>
    let all := activeLanes s c h
    let s1 := issuePath s c h
    let n := o.cnt.val + 1
    match operandTrap (Instr.uses (.pblk h o)) ((warpAt s c.w).getD {}).alloc with
    | some code => done (endTraps s1 c (allTrap all code (damaged s c h (Instr.uses (.pblk h o)) all)))
    | none =>
      let bad := damaged s c h (Instr.uses (.pblk h o)) all
      let act := all.filter fun l => !bad.any (·.lane == l)
      match coveredWords s1 c n (c.pc + 12) with
      | (s2, .error (whole, code, addr)) =>
        if code = fetchWait then done (pathWait (coveredWords s c n (c.pc + 12)).1 c (.fetch addr.toNat))
        else
        let past := (lanesOf c.lanes).filter fun l => !whole && !all.contains l
        let s2 := past.foldl (fun s l => updThr s c.w l fun t => { t with pc := c.pc + 12 + w64 (12 * n) }) s2
        done (endTraps s2 c ((if whole then lanesOf c.lanes else all).map fun l => { lane := l, code := code, addr := addr }))
      | (s2, .ok (is, user)) =>
        let start := fun (s : State) (l : Nat) => updThr s c.w l fun t =>
          { t with blk := some { left := n, idx := 0, pat := o.pat, val := srcP s c l o.d, on := act.contains l, at_ := c.pc, code := is, user := user } }
        let s3 := (lanesOf c.lanes).foldl start s2
        done (endTraps (act.foldl (fun s l => completeLane (.pblk h o) h c (Config.freeNat s.freeCtr) l s)
          { s3 with freeCtr := s3.freeCtr + 1 }) c bad)

/-! ### Branches -/

/-- The target of a branch in FB form (R295). -/
def branchTarget (pc : W64) (off : W32) : W64 := w64 (wrap ((pc.toNat : Int) + 12 * signExt off.toNat 32) 64)
/-- Sends a thread to an address. -/
def setPc (s : State) (c : Cursor) (l : Nat) (pc : W64) : State :=
  let s := updThr s c.w l fun t => { t with pc := pc }
  if traced s c.w && (traceOf s (dieOf c.w.core)).brs then { s with branched := s.branched ++ [(l, pc)] } else s

/-- BRA (16_reference_a_c.md R320). -/
def execBra (h : Hdr) (off : W32) (s : State) : Host.Outcome State Fault Refusal :=
  perLane (.bra h off) h s fun c s l => .ok (setPc s c l (branchTarget c.pc off))

/-- JMPR (17_reference_d_l.md R349). -/
def execJmpr (h : Hdr) (a : Opd) (s : State) : Host.Outcome State Fault Refusal :=
  perLane (.jmpr h a) h s fun c s l =>
    let t := src s c l a true
    if t % 4 != 0 then .trap 0x0AE 0 else .ok (setPc s c l (w64 t))

/-! ### The call stack (16_reference_a_c.md R323) -/

/-- One checked private access: its address, page permission and soft errors. -/
def privCheck (s : State) (c : Cursor) (l o size : Nat) (store : Bool) : State × Except (Nat × W64) Acc :=
  match privAcc s c.w l o size with
  | (s, .error e) => (s, .error e)
  | (s, .ok a) =>
    match permit a c.user store with
    | some code => (s, .error (code, a.va))
    | none =>
      match damageCode s c.w.core (gidOf s c.w) a with
      | some code => (s, .error (code, a.va))
      | none => (s, .ok a)

/-- A push of a return address (R323): a read and write at offset 0, then the write of the entry. -/
def push (s : State) (c : Cursor) (l : Nat) (ret : W64) : State × Except (Nat × W64) Unit :=
  match privCheck s c l 0 4 true with
  | (s, .error e) => (s, .error e)
  | (s, .ok a0) =>
    let r := loadBytes s c.w l a0 1 false
    let d := ofBytes r.2
    match privCheck r.1 c l (8 + 8 * d) 8 true with
    | (s, .error e) => (s, .error e)
    | (s, .ok a1) => (storeBytes (storeBytes s c.w l a1 1 false (toBytes 8 ret.toNat)) c.w l a0 1 false (toBytes 4 (d + 1)), .ok ())

/-- The pop of RET (18_reference_m_s.md R370). -/
def pop (s : State) (c : Cursor) (l : Nat) : State × Except (Nat × W64) W64 :=
  match privCheck s c l 0 4 true with
  | (s, .error e) => (s, .error e)
  | (s, .ok a0) =>
    let r := loadBytes s c.w l a0 1 false
    let d := ofBytes r.2
    if d = 0 then (r.1, .error (0x14B, 0))
    else
      match privCheck r.1 c l (8 + 8 * (d - 1)) 8 false with
      | (s, .error e) => (s, .error e)
      | (s, .ok a1) =>
        let e := loadBytes s c.w l a1 1 false
        let t := ofBytes e.2
        if t % 4 != 0 then (e.1, .error (0x0AE, 0))
        else (storeBytes e.1 c.w l a0 1 false (toBytes 4 (d - 1)), .ok (w64 t))

/-- CALL (R324). -/
def execCall (h : Hdr) (off : W32) (s : State) : Host.Outcome State Fault Refusal :=
  perLane (.call h off) h s fun c s l =>
    match push s c l (c.pc + 12) with
    | (_, .error (code, addr)) => .trap code addr
    | (s, .ok ()) => .ok (setPc s c l (branchTarget c.pc off))

/-- CALLR (R325). -/
def execCallr (h : Hdr) (a : Opd) (s : State) : Host.Outcome State Fault Refusal :=
  perLane (.callr h a) h s fun c s l =>
    let t := src s c l a true
    if t % 4 != 0 then .trap 0x0AE 0
    else
      match push s c l (c.pc + 12) with
      | (_, .error (code, addr)) => .trap code addr
      | (s, .ok ()) => .ok (setPc s c l (w64 t))

/-- RET (R370). -/
def execRet (h : Hdr) (s : State) : Host.Outcome State Fault Refusal :=
  perLane (.ret h) h s fun c s l =>
    match pop s c l with
    | (_, .error (code, addr)) => .trap code addr
    | (s, .ok t) => .ok (setPc s c l t)

/-! ### The others -/

/-- YIELD (19_reference_t_z.md R407): the mark is set in every thread of the path, even when every guard is false. -/
def execYield (h : Hdr) (s : State) : Host.Outcome State Fault Refusal :=
  let s := match s.cur with
    | some c => (lanesOf c.lanes).foldl (fun s l => updThr s c.w l fun t => { t with yield := true }) s
    | none => s
  perLane (.yield h) h s fun _ s _ => .ok s

/-- NOP (R362). -/
def execNop (h : Hdr) (s : State) : Host.Outcome State Fault Refusal :=
  perLane (.nop h) h s fun _ s _ => .ok s

/-- SWT (R387). -/
def execSwt (h : Hdr) (a : Opd) (n : BitVec 16) (s : State) : Host.Outcome State Fault Refusal :=
  perLane (.swt h a n) h s fun c s l =>
    .ok (setPc s c l (c.pc + w64 (12 * (1 + min (src s c l a false) n.toNat))))

/-- TRET (19_reference_t_z.md R396, 11_traps_and_preemption.md R222). -/
def execTret (h : Hdr) (nx : Bool) (s : State) : Host.Outcome State Fault Refusal :=
  perLane (.tret h nx) h s fun c s l =>
    if (thrAt s c.w l).inh then .ok (handlerReturn s c.w l nx) else .trap 0x164 0

/-- RGN (R371, R224). -/
def execRgn (h : Hdr) (s : State) : Host.Outcome State Fault Refusal :=
  perLane (.rgn h) h s fun c s l =>
    .ok (updThr s c.w l fun t => { t with rgnctr := t.rgnctr + 1, rgnpc := c.pc + 12, rgnSeq := s.nextId })

/-- BRK (R322): every active thread traps with 160h. -/
def execBrk (h : Hdr) (imm : W32) (s : State) : Host.Outcome State Fault Refusal :=
  perLane (.brk h imm) h s fun _ _ _ => .trap 0x160 0

end Sys2Proof.Machine
end

