-- ==== Sys2Proof/Machine/LoadStore.lean ====
section
/-! DEFINITION. Loads, stores, prefetch, range write-back, fences, watches and pins (17_reference_d_l.md R340, R341, R352 to R355,
18_reference_m_s.md R357, R360, R364, R368, R384 to R386, 19_reference_t_z.md R400). -/
namespace Sys2Proof.Machine

/-! ### Loads -/

/-- A load's address with every check of R352, soft errors last. -/
def loadAcc (s : State) (c : Cursor) (l : Nat) (a : AddrOps) (size : Nat) : State × Except (Nat × W64) Acc :=
  match resolve s c l a size with
  | (s, .error e) => (s, .error e)
  | (s, .ok x) =>
    match permit x c.user false with
    | some code => (s, .error (code, x.va))
    | none =>
      match damageCode s c.w.core (gidOf s c.w) x with
      | some code => (s, .error (code, x.va))
      | none => (s, .ok x)

/-- A load of bytes into a thread, which remembers the vector clocks of the writes it read, in a vault too (R340 step 7), and the releases it may
have read from (05_consistency.md R115). -/
def loadFor (s : State) (c : Cursor) (l : Nat) (x : Acc) (hint : BitVec 2) (home : Bool) : State × List Byte :=
  let r := loadBytes s c.w l x hint home
  if x.sp == .scr then r
  else
    let vc := ((x.keys.map (· / 128)).eraseDups).foldl (fun v ln => vcMax v (r.1.ms.lineVc.getD ln [])) []
    let seen := ((releasesAt r.1 c.w.core x.keys).filter (undrained r.1)).map fun q => (q.core, q.at_)
    (if vc.isEmpty && seen.isEmpty then r.1
      else updThr r.1 c.w l fun t => { t with readVC := vcMax t.readVC vc, relSeen := (t.relSeen ++ seen).eraseDups }, r.2)

/-- Writes the value of a format to its destination, filled as R149 gives. -/
def dstFmt (s : State) (c : Cursor) (l : Nat) (d : Opd) (f : Fmt) (v : Nat) : State := dst s c l d f.is64 (Num.fill f v)

/-- A format that LD and ST accept (R353): .q4 and .q3 raise 040h. -/
def loadable (f : Fmt) : Bool := f != .q4 && f != .q3

/-- What an access of a thread waits for: a scratch store of its own to one of the bytes, until it completes (04_memory_hierarchy.md R100); on a
page with SC = 1, an access of the core to such a page that is held under a tenure (05_consistency.md R124); and a response on its way from the
host with bytes of the access (14_determinism_and_debug.md R270). -/
def ownNeedOf (s : State) (w : WKey) (l : Nat) (x : Acc) : Option Why :=
  if x.sp == .scr then (scrOwn s w l x.keys).map .scratch
  else if (x.page.map (·.sc)).getD false && orderOpen s w.core then some .order
  else if (x.page.map (·.host)).getD false then (x.keys.findSome? (hostAwaited s)).map .host
  else none

/-- What an access waits for, once its address has passed its checks; an access that traps waits for nothing. -/
def accNeed (ok : Bool) (r : State × Except (Nat × W64) Acc) (w : WKey) (l : Nat) (s : State) : Option (Why × State) :=
  if !ok then none
  else match r with
    | (_, .error _) => none
    | (_, .ok x) => (ownNeedOf s w l x).map fun y => (y, s)

/-- LD (R353). -/
def execLd (h : Hdr) (o : LdOps) (s : State) : Host.Outcome State Fault Refusal :=
  perLaneW (.ld h o) h s (fun c s l => accNeed (loadable o.fmt) (loadAcc s c l o.addr o.size.bytes) c.w l s) fun c s l =>
    if !loadable o.fmt then .trap 0x040 0
    else
      match loadAcc s c l o.addr o.size.bytes with
      | (_, .error e) => .trap e.1 e.2
      | (s, .ok x) =>
        let r := loadFor s c l x h.rh false
        .ok (dstFmt r.1 c l o.d o.fmt (ofBytes r.2))

/-- LDQ (R355). -/
def execLdq (h : Hdr) (o : LdqOps) (s : State) : Host.Outcome State Fault Refusal :=
  perLaneW (.ldq h o) h s (fun c s l => accNeed true (loadAcc s c l o.addr 16) c.w l s) fun c s l =>
    match loadAcc s c l o.addr 16 with
    | (_, .error e) => .trap e.1 e.2
    | (s, .ok x) =>
      let r := loadFor s c l x h.rh false
      let v := ofBytes r.2
      .ok ((List.range 4).foldl (fun s j => dstAt s c l o.d j (w32 (v / 2 ^ (32 * j)))) r.1)

/-- The scope an access acts at: .core at most on scratch (05_consistency.md R112). -/
def effScope (sp : Space) (sc : Scope) : Scope := if sp == .scr && wideDie sc then .core else sc

/-- Cores that have not drained what lay behind their releases are asked to, and awaited by a thread of a group (R118), as are their stores held
under tenures (06_tile_tenure.md R140). -/
def drainNeed (s : State) (gid : Nat) (ds : List (Nat × Nat)) : Option (Why × State) :=
  let ds := (ds.filter fun q => behind s q.1 q.2 || heldBehind s (some gid) q.1 q.2).eraseDups
  if ds.isEmpty then none
  else some (.drain ds, { s with ms.drainReq := s.ms.drainReq ++ ds.filter fun q => !s.ms.drainReq.contains q })

/-- The release at .pkg that SPAWN, JOINDEC, LAUNCH, CSEND and PNSEND make (03_work_scheduling.md R72, R129) waits for the thread's own stores that
are held under a tenure, and for such stores that stand behind releases it has read (R118, R128). -/
def relNeed (s : State) (w : WKey) (l : Nat) : Option (Why × State) :=
  if hasHeld s w l then some (.held l, s)
  else drainNeed s (gidOf s w) ((thrAt s w l).relSeen.filter fun q => heldBehind s (some (gidOf s w)) q.1 q.2)

/-- What an acquire waits for (R118): other cores that have not drained what lies behind their releases on the bytes read. -/
def acqNeed (s : State) (c : Cursor) (sc : Scope) (x : Acc) : Option (Why × State) :=
  if !wideDie (effScope x.sp sc) then none
  else drainNeed s (gidOf s c.w) ((releasesAt s c.w.core x.keys).map fun r => (r.core, r.at_))

/-- LDACQ (R354). -/
def execLdacq (h : Hdr) (o : LdOps) (s : State) : Host.Outcome State Fault Refusal :=
  perLaneW (.ldacq h o) h s
    (fun c s l =>
      if !loadable o.fmt then none
      else match loadAcc s c l o.addr o.size.bytes with
        | (_, .error _) => none
        | (s, .ok x) => match ownNeedOf s c.w l x with | some y => some (y, s) | none => acqNeed s c o.sc x)
    fun c s l =>
      if !loadable o.fmt then .trap 0x040 0
      else
        match loadAcc s c l o.addr o.size.bytes with
        | (_, .error e) => .trap e.1 e.2
        | (s, .ok x) =>
          let sc := effScope x.sp o.sc
          let r := loadFor s c l x h.rh (wideDie sc)
          .ok (dstFmt (acquire r.1 c.w l sc x.keys) c l o.d o.fmt (ofBytes r.2))

/-! ### Stores -/

/-- A lateral vault store of a member in a computation step (04_memory_hierarchy.md R102: 0ADh). -/
def lateralBarred (s : State) (w : WKey) (x : Acc) : Bool :=
  x.sp == .vlt && lateral w.core (x.keys.headD 0) &&
    match ssetOf s (grp s w) with
    | some n => (s.ssets.getD n {}).step.getLsbD 0 == false
    | none => false

/-- A store's address with every check of R352 and R384: 080h, then 0C6h, then 0ADh. A store reads no bytes that a soft error has damaged; a damaged
translation raises 090h as it is met. -/
def storeAcc (s : State) (c : Cursor) (l : Nat) (a : AddrOps) (size : Nat) : State × Except (Nat × W64) Acc :=
  match resolve s c l a size with
  | (s, .error e) => (s, .error e)
  | (s, .ok x) =>
    match permit x c.user true with
    | some code => (s, .error (code, x.va))
    | none =>
      if x.page.isSome && x.keys.any (readOnly s (gidOf s c.w)) then (s, .error (0x0C6, x.va))
      else if lateralBarred s c.w x then (s, .error (0x0AD, x.va))
      else (s, .ok x)

/-- ST (R384). -/
def execSt (h : Hdr) (o : StOps) (s : State) : Host.Outcome State Fault Refusal :=
  perLaneW (.st h o) h s (fun c s l => accNeed (loadable o.fmt) (storeAcc s c l o.addr o.size.bytes) c.w l s) fun c s l =>
    if !loadable o.fmt then .trap 0x040 0
    else
      match storeAcc s c l o.addr o.size.bytes with
      | (_, .error e) => .trap e.1 e.2
      | (s, .ok x) => .ok (storeBytes s c.w l x h.rh false (toBytes o.size.bytes (src s c l o.b o.fmt.is64)))

/-- The 16 bytes of four registers (R385). -/
def quadBytes (s : State) (c : Cursor) (l : Nat) (b : Opd) : List Byte :=
  (List.range 4).flatMap fun j => toBytes 4 (srcAt s c l b j).toNat

/-- STQ (R385). -/
def execStq (h : Hdr) (o : StqOps) (s : State) : Host.Outcome State Fault Refusal :=
  perLaneW (.stq h o) h s (fun c s l => accNeed true (storeAcc s c l o.addr 16) c.w l s) fun c s l =>
    match storeAcc s c l o.addr 16 with
    | (_, .error e) => .trap e.1 e.2
    | (s, .ok x) => .ok (storeBytes s c.w l x h.rh false (quadBytes s c l o.b))

/-- STREL (R386): at .die or wider the store carries a release record to its home slice. -/
def execStrel (h : Hdr) (o : StOps) (s : State) : Host.Outcome State Fault Refusal :=
  perLaneW (.strel h o) h s (fun c s l => accNeed (loadable o.fmt) (storeAcc s c l o.addr o.size.bytes) c.w l s) fun c s l =>
    if !loadable o.fmt then .trap 0x040 0
    else
      match storeAcc s c l o.addr o.size.bytes with
      | (_, .error e) => .trap e.1 e.2
      | (s, .ok x) =>
        let sc := effScope x.sp o.sc
        let s := releaseBefore s c.w l sc
        let s := storeBytes s c.w l x h.rh (wideDie sc) (toBytes o.size.bytes (src s c l o.b o.fmt.is64))
        .ok (if wideDie sc then addRelease s c.w l x (sc == .sys) else s)

/-! ### FENCE -/

/-- FENCE waits while an access of the thread is not performed (R340 step 1) or a load has not returned its value (step 5), and, at .die or wider, while what lies behind the
releases that the thread's earlier loads may have read is not drained: it happens before the fence (05_consistency.md R115, R116). -/
def fenceNeed (s : State) (c : Cursor) (ord : Order) (sc : Scope) (l : Nat) : Option (Why × State) :=
  if ord != .acq && accessOpen s c.w l then some (.held l, s)
  else if hostOpen s c.w l true then some (.reply l, s)
  else if wideDie sc then drainNeed s (gidOf s c.w) (thrAt s c.w l).relSeen
  else none

/-- The steps of FENCE for one thread (R340). -/
def fence (s : State) (w : WKey) (l : Nat) (ord : Order) (sc : Scope) : State :=
  let s := if ord == .acq then s
    else
      let s := settlePosted s w l
      let s := if wideDie sc then vcMerge (drainAll s w.core) (dieOf w.core) (thrAt s w l).readVC else s
      if widePkg sc then vcTick s (dieOf w.core) else s
  let s := if wideDie sc then updThr s w l fun t => { t with relSeen := [] } else s
  if ord == .rel then s
  else if wideDie sc then acquire s w l sc []
  else s

/-- FENCE (R340). -/
def execFence (h : Hdr) (ord : Order) (sc : Scope) (s : State) : Host.Outcome State Fault Refusal :=
  perLaneW (.fence h ord sc) h s (fun c s l => fenceNeed s c ord sc l) fun c s l => .ok (fence s c.w l ord sc)

/-! ### PREF -/

/-- The page of an address in the core's TLB or the die's translation cache. -/
def cachedPage (s : State) (core ctx va : Nat) : Option Page :=
  match (s.ms.tlb.getD core []).find? (·.page.covers ctx va) with
  | some e => some e.page
  | none => ((s.ms.tcache.getD (dieOf core) []).find? (·.page.covers ctx va)).map (·.page)

/-- What a prefetch does once its page is known (R368): the lines of the grain block take their places in the L2, or the grain unit its place in the
L1, from the image where another group holds it. -/
def prefPage (s : State) (core gid va : Nat) (p : Page) (hint : BitVec 2) (l2 user : Bool) : State :=
  let k := p.key va
  let x : Acc := { sp := .virt, keys := [k], page := some p, va := w64 va }
  if (permit x user false).isSome || !p.c || hint == 3 || (damageCode s core gid x).isSome then s
  else if l2 then
    let u := k / p.grain * p.grain
    (List.range ((p.grain + 127) / 128)).foldl (fun s i => homeTouch s p (u + 128 * i) hint false) (recallFrom s core k)
  else if (l1Byte s core k).isSome then s
  else l1Fill s core gid p k hint

/-- PREF (R368): with no cached translation, the page is walked first. -/
def execPref (h : Hdr) (o : PrefOps) (s : State) : Host.Outcome State Fault Refusal :=
  perLane (.pref h o) h s fun c s l =>
    let va := wrap ((src s c l o.a true : Int) + offInt o.off) 64
    let ctx := (grp s c.w).ctx
    if tooHigh va || h.rh == 3 then .ok s
    else
      match cachedPage s c.w.core ctx va with
      | some p => .ok (prefPage s c.w.core (gidOf s c.w) va p h.rh o.l2 c.user)
      | none =>
        let d := dieOf c.w.core
        let q : Walk := { ctx := ctx, va := va, core := c.w.core, gid := gidOf s c.w, due := s.cycle + Config.freeNat s.freeCtr, pref := some (if c.user then 1 else 0, h.rh, o.l2) }
        .ok { s with freeCtr := s.freeCtr + 1, ms.walks := s.ms.walks.setIfInBounds d (s.ms.walks.getD d [] ++ [q]) }

/-! ### FLUSH and INVAL -/

/-- Drains the dirty bytes of a line in every L1 (R341). -/
def flushLine (s : State) (k : Nat) : State :=
  s.ms.l1.foldl (fun s e => drainCore s e.1 fun j _ => k ≤ j && j < k + 128) s

/-- Discards every cached copy of a line (R341, R303), its pin (R106) and what damage it has (R229). -/
def discardLine (s : State) (k : Nat) : State :=
  let s := probe s none k 128
  let unpin := fun (l : L2Line) => { l with pinned := false, retained := false }
  { s with
    ms.icache := s.ms.icache.map fun e => (e.1, Tab.del e.2 (k / 128))
    ms.l2 := match s.ms.l2.get? (k / 128) with | some l => s.ms.l2.put (k / 128) (unpin l) | none => s.ms.l2
    ms.l1Kept := s.ms.l1Kept.filter fun e => e.2 != k / 128
    ms.damage := s.ms.damage.filter fun d =>
      match d with
      | .l1 _ ln _ | .icache _ ln | .l2 ln _ | .vault ln _ | .scarp ln _ => ln != k / 128
      | _ => true }

/-- A line that FLUSH and INVAL skip (R341): of a page with C = 0, or of a footprint that another group holds, whose blocks are whole lines. -/
def rangeSkips (s : State) (gid : Nat) (p : Page) (k : Nat) : Bool := !p.c || (heldUnder s gid none k).isSome

/-- One line of FLUSH or INVAL. -/
def rangeLine (inval sys : Bool) (gid : Nat) (p : Page) (s : State) (k : Nat) : State :=
  if rangeSkips s gid p k then s
  else
    let s := flushLine s k
    let s := if sys && p.host then hostWriteBack s (k / 128) else s
    if inval then
      let s := discardLine s k
      if sys && p.host then hostDrop s (k / 128) else s
    else s

/-- The number of lines that hold a byte of a range. -/
def rangeLines (a n : Nat) : Nat := if n = 0 then 0 else (a + n - 1) / 128 + 1 - a / 128

/-- Walks the lines of a range in address order, translating each as a load (R341, R364, R400); a line for which `bad` gives a code ends the walk
there, at its address. What has been done stays done. -/
def overRange (s : State) (c : Cursor) (bad : Page → State → Nat → Nat → Option Nat) (f : Page → State → Nat → State × Nat) :
    Nat → Nat → Nat → State × Nat × Option (Nat × W64)
  | 0, _, cnt => (s, cnt, none)
  | n + 1, va, cnt =>
    let va := va % 2 ^ 64
    match virtAcc s c.w va 1 with
    | (s, .error e) => (s, cnt, some e)
    | (s, .ok x) =>
      match permit x c.user false, x.page with
      | some code, _ => (s, cnt, some (code, w64 va))
      | none, none => (s, cnt, none)
      | none, some p =>
        match bad p s (p.key va / 128 * 128) va with
        | some code => (s, cnt, some (code, w64 va))
        | none =>
          let r := f p s (p.key va / 128 * 128)
          overRange r.1 c bad f n (va / 128 * 128 + 128) (cnt + r.2)

/-- The uncorrectable error that FLUSH or INVAL meets in a line it reads (R341, R229): of dirty bytes in an L1 (089h), or of the dirty home line that
.sys writes to the host. An INVAL of all the line's bytes discards it. -/
def rangeDamage (inval sys : Bool) (gid a n : Nat) (p : Page) (s : State) (k va : Nat) : Option Nat :=
  if s.ms.damage.isEmpty || rangeSkips s gid p k || (inval && a ≤ va / 128 * 128 && va / 128 * 128 + 128 ≤ a + n) then none
  else if s.ms.l1.any fun e => l1Hurt s e.1 k && (List.range 128).any fun j => (l1Dirty s e.1 (k + j)).isSome then some 0x089
  else if sys && p.host && ((s.ms.hostLines.get? (k / 128)).map fun h => h.dirty.any id).getD false then homeHurt s (k / 128)
  else none

/-- FLUSH and INVAL for one thread. -/
def rangeLane (inval : Bool) (o : RangeOps) (c : Cursor) (s : State) (l : Nat) : LRes :=
  let a := wrap ((src s c l o.a true : Int) + offInt o.off) 64
  let n := src s c l o.b false
  let s := settlePosted s c.w l
  let gid := gidOf s c.w
  let asked := s.hostReqs.length
  let r := overRange s c (rangeDamage inval o.sys gid a n) (fun p s k => (rangeLine inval o.sys gid p s k, 0)) (rangeLines a n) a 0
  -- what goes to host memory completes with the host's acknowledgement (13_host_and_system.md R261)
  let t := ownAsks r.1 asked c.w l
  match r.2 with
  | (_, some e) => .fail t e.1 e.2
  | (_, none) => .ok t

/-- FLUSH and INVAL issue after the thread's earlier accesses have been performed (R341). -/
def rangeNeed (s : State) (c : Cursor) (l : Nat) : Option (Why × State) := if accessOpen s c.w l then some (.held l, s) else none

/-- FLUSH (R341). -/
def execFlush (h : Hdr) (o : RangeOps) (s : State) : Host.Outcome State Fault Refusal :=
  perLaneW (.flush h o) h s (fun c s l => rangeNeed s c l) (rangeLane false o)

/-- INVAL (R341). -/
def execInval (h : Hdr) (o : RangeOps) (s : State) : Host.Outcome State Fault Refusal :=
  perLaneW (.inval h o) h s (fun c s l => rangeNeed s c l) (rangeLane true o)

/-! ### Pins -/

/-- PINW on one line: brought into its home slice and pinned, or counted when its set has 16 pinned ways (R364). -/
def pinLine (p : Page) (s : State) (k : Nat) : State × Nat :=
  if !p.c then (s, 0)
  else
    let slice := p.slice k
    let isPinned := ((s.ms.l2.get? (k / 128)).map (·.pinned)).getD false
    if isPinned then (s, 0)
    else if ((l2Ways s (k / 128) slice).filter fun e => e.2.pinned || e.2.retained).length ≥ 16 then (s, 1)
    else
      let s := homeTouch s p k 2 false
      match s.ms.l2.get? (k / 128) with
      | some l => ({ s with ms.l2 := s.ms.l2.put (k / 128) { l with pinned := true, cls := 2 } }, 0)
      | none => (s, 1)

/-- UNPINW on one line (R400). -/
def unpinLine (p : Page) (s : State) (k : Nat) : State × Nat :=
  let shadow := s.ten.any fun e => e.2.shadow.any fun b => b.1 / 128 == k / 128
  match s.ms.l2.get? (k / 128) with
  | some l =>
    if !p.c || l.retained || shadow || !l.pinned then (s, 0)
    else ({ s with ms.l2 := s.ms.l2.put (k / 128) { l with pinned := false } }, 1)
  | none => (s, 0)

/-- PINW and UNPINW for one thread: D receives the count. -/
def pinLane (f : Page → State → Nat → State × Nat) (o : PinOps) (c : Cursor) (s : State) (l : Nat) : LRes :=
  let a := wrap ((src s c l o.a true : Int) + offInt o.off) 64
  match overRange s c (fun _ _ _ _ => none) f (rangeLines a (src s c l o.b false)) a 0 with
  | (s, _, some e) => .fail s e.1 e.2
  | (s, n, none) => .ok (dst s c l o.d false n)

/-- PINW (R364). -/
def execPinw (h : Hdr) (o : PinOps) (s : State) : Host.Outcome State Fault Refusal :=
  perLane (.pinw h o) h s (pinLane pinLine o)
/-- UNPINW (R400). -/
def execUnpinw (h : Hdr) (o : PinOps) (s : State) : Host.Outcome State Fault Refusal :=
  perLane (.unpinw h o) h s (pinLane unpinLine o)

/-! ### Watches -/

/-- MARM (R357, R54): the block is brought into the L1 and the watch slot armed on it. -/
def execMarm (h : Hdr) (o : AddrOps) (s : State) : Host.Outcome State Fault Refusal :=
  perLane (.marm h o) h s fun c s l =>
    if o.sp == .scr || o.sp == .vlt then .trap 0x0A7 0
    else
      match loadAcc s c l o 1 with
      | (_, .error e) => .trap e.1 e.2
      | (s, .ok x) =>
        match x.page with
        | none => .trap 0x0A7 x.va
        | some p =>
          let k := x.keys.headD 0
          if !p.c || (p.host && !inWindow s k) then .trap 0x0A7 x.va
          else
            let hint := if h.rh == 3 then 1 else h.rh
            let gid := gidOf s c.w
            let s := if unitPresent s c.w.core p k then updTag s c.w.core (k / 512) fun t => { t with use := s.cycle }
              else l1Fill s c.w.core gid p k hint
            .ok (updThr s c.w l fun t =>
              { t with watch := some { block := k / p.grain * p.grain, len := p.grain, event := none, page := p } })

/-- Ends a watch sleep: D receives the reason, the slot is disarmed, and the thread goes on (R56). -/
def endSleep (s : State) (w : WKey) (l : Nat) (d : Opd) (reason : Nat) : State :=
  updThr (wakeDst s w l d (w32 reason)) w l fun t => { t with st := .running, watch := none }

/-- MWAIT (R360, R56). -/
def execMwait (h : Hdr) (d : Opd) (s : State) : Host.Outcome State Fault Refusal :=
  perLane (.mwait h d) h s fun c s l =>
    match (thrAt s c.w l).watch with
    | none => .ok (dst s c l d false 2)
    | some w =>
      if w.event.isSome then .ok (updThr (dst s c l d false 0) c.w l fun t => { t with watch := none })
      else .ok (updThr s c.w l fun t => { t with st := .sleep d s.cycle })

/-- MWAIT_WAKE (R56): a sleeping thread whose watch has recorded an event wakes in the cycle after it. -/
def execMwaitWake (w : WKey) (lane : Nat) (s : State) : Host.Outcome State Fault Refusal :=
  let t := thrAt s w lane
  match t.st, t.watch with
  | .sleep d _, some x => done (if x.event.any (· < s.cycle) then endSleep s w lane d 0 else s)
  | _, _ => done s

/-- MWAIT_TIMEOUT (R56): 65,536 cycles without an event. -/
def execMwaitTimeout (w : WKey) (lane : Nat) (s : State) : Host.Outcome State Fault Refusal :=
  let t := thrAt s w lane
  match t.st with
  | .sleep d since => done (if since + 65536 ≤ s.cycle then endSleep s w lane d 1 else s)
  | _ => done s

/-- WATCH_EVENT (R55): the block of a core's watches becomes visible as changed: its lease ends, it is probed or evicted, or a write to
it arrives. -/
def execWatchEvent (core block : Nat) (s : State) : Host.Outcome State Fault Refusal :=
  done (watchHit s core fun w => w.block == block)

end Sys2Proof.Machine
end

