-- ==== Sys2Proof/Machine/Atomics.lean ====
section
/-! DEFINITION. Atomics: their place, checks and ownership (16_reference_a_c.md R310, R311, R316, 18_reference_m_s.md R369,
05_consistency.md R123, 06_tile_tenure.md R140). -/
namespace Sys2Proof.Machine

/-- The space and scope rules of Table 16.2: 0A3h. -/
def placeBarred (s : State) (x : Acc) (sc : Scope) : Bool :=
  match x.page with
  | none => false
  | some p => p.host && (!inWindow s (x.keys.headD 0) || sc != .sys)

/-- An atomic's address with the checks of R310 in their order, soft errors last. -/
def atomAcc (s : State) (c : Cursor) (l : Nat) (a : AddrOps) (size : Nat) (sc : Scope) : State × Except (Nat × W64) Acc :=
  if a.sp == .prv then
    let o := (src s c l a.a false : Int) + offInt a.off
    (s, .error (if o % size != 0 then (0x0A0, w64 (wrap o 64)) else (0x0A3, w64 (wrap o 64))))
  else
    match resolve s c l a size with
    | (s, .error e) => (s, .error e)
    | (s, .ok x) =>
      if placeBarred s x sc then (s, .error (0x0A3, x.va))
      else
        match permit x c.user true with
        | some code => (s, .error (code, x.va))
        | none =>
          if x.page.isSome && x.keys.any (readOnly s (gidOf s c.w)) then (s, .error (0x0C6, x.va))
          else
            match damageCode s c.w.core (gidOf s c.w) x with
            | some code => (s, .error (code, x.va))
            | none => (s, .ok x)

/-- The block of a key with respect to a page's grain. -/
def blockOf (p : Page) (k : Nat) : Nat := k / p.grain * p.grain

/-- Another core owns the block of a key (R123). -/
def ownedByOther (s : State) (core k : Nat) : Bool :=
  s.ms.owners.any fun e => e.1 ≤ k && k < e.1 + e.2.2 && e.2.1 != core
/-- The core owns the block of a key. -/
def ownedBy (s : State) (core k : Nat) : Bool :=
  s.ms.owners.any fun e => e.1 ≤ k && k < e.1 + e.2.2 && e.2.1 == core

/-- The atomic runs in the requester's L1 after exclusive ownership (Table 16.2). -/
def runsInL1 (x : Acc) : Bool := match x.page with | some p => p.c && !p.sc && !p.host | none => false

/-- An atomic on a block that another core owns waits for the recall (R123). -/
def ownNeed (s : State) (core : Nat) (x : Acc) : Option (Why × State) :=
  let k := x.keys.headD 0
  if runsInL1 x && ownedByOther s core k then
    let q := (core, k, false)
    some (.owner k, if s.ms.ownWait.any (fun e => e.1 == core && e.2.1 == k) then s else { s with ms.ownWait := s.ms.ownWait ++ [q] })
  else none

/-- Exclusive ownership of a block: every other core's dirty bytes are drained and every copy invalidated; the core's own dirty bytes
take their place before the atomic (R123). -/
def takeOwnership (s : State) (core : Nat) (p : Page) (k : Nat) : State :=
  let b := blockOf p k
  let s := if ownedBy s core k then s else probe s (some core) b p.grain
  let s := drainCore s core fun j _ => b ≤ j && j < b + p.grain
  let s := ownSees s core [k]
  { s with ms.owners := if ownedBy s core k then s.ms.owners else s.ms.owners.put b (core, p.grain) }

/-- Brings the bytes of an atomic to their place (R310, R123): the core's own bytes there are drained first, other cores give up the block,
and on a window page D0 takes CXL.cache ownership of the line, with C = 0 too. -/
def atomPlace (s : State) (w : WKey) (x : Acc) (hint : BitVec 2) : State :=
  match x.page with
  | none => if x.sp == .vlt then vaultOwn s w.core x.keys else s
  | some p =>
    let k := x.keys.headD 0
    let s := homeTouch s p k hint true
    if runsInL1 x then takeOwnership s w.core p k
    else
      let s := recallFrom (drainKeys s w.core x.keys) w.core k
      if p.host then hostFill s (k / 128) 3 else s

/-- What an atomic leaves at its place: with C = 0, D0 keeps no host line (04_memory_hierarchy.md R91); later plain loads of the core see
nothing older (05_consistency.md R114). -/
def atomLeave (s : State) (w : WKey) (x : Acc) (wrote : Bool) : State :=
  match x.page with
  | none => s
  | some p =>
    let k := x.keys.headD 0
    let s := if p.host && !p.c then hostDrop s (k / 128) else s
    refreshOwn (seeHome s w.core x.keys) w.core (blockOf p k) p.grain x.keys wrote

/-- The value an atomic reads at its place. -/
def atomOld (s : State) (w : WKey) (x : Acc) : Nat :=
  match x.sp with
  | .scr => ofBytes (x.keys.map fun k => (grp s w).scratch.get k)
  | .vlt => ofBytes (x.keys.map (homeByte s))
  | _ => ofBytes (x.keys.map (homeView s w.core (gidOf s w)))

/-- Writes an atomic's result at its place. -/
def atomWrite (s : State) (w : WKey) (l : Nat) (x : Acc) (bs : List Byte) : State :=
  let cs := x.keys.zip bs
  match x.sp with
  | .scr => scrStore s (gidOf s w) (some (wIdx w * 32 + l)) cs
  | .vlt => homeWrite s (vcOf s (dieOf w.core)) cs
  | _ => homeOrShadow s (gidOf s w) none s.cycle (vcOf s (dieOf w.core)) cs

/-- What an atomic computes: its operation, or a compare and swap, with format and operands (R311, R316): the new value, or none when
nothing is written. -/
def atomNew (op : Option RedOp) (f : Fmt) (old v new : Nat) : Option Nat :=
  match op with
  | some op => some (Num.combine op f old v)
  | none => if old % 2 ^ f.width == v % 2 ^ f.width then some (new % 2 ^ f.width) else none

/-- The release half of an atomic, before it; and its record at the home (R118, R122). -/
def isRel (o : Order) : Bool := o == .rel || o == .ar
/-- The acquire half of an atomic. -/
def isAcq (o : Order) : Bool := o == .acq || o == .ar

/-- One thread's atomic (R310): performed at its place, or held under another group's tenure, where the instruction completes when it is applied;
one that acquires lets nothing of the thread issue before (05_consistency.md R114). -/
def atomLane (op : Option RedOp) (f : Fmt) (size : Nat) (x : Acc) (ord : Order) (sc0 : Scope) (hint : BitVec 2) (la : Nat) (d : Opd)
    (v new : Nat) (c : Cursor) (s : State) (l : Nat) : State :=
  let sc := effScope x.sp sc0
  let gid := gidOf s c.w
  let s := if isRel ord && wideDie sc then releaseBefore s c.w l sc else s
  if x.page.isSome && x.keys.any (fun k => (heldUnder s gid none k).isSome) then
    let id := s.nextId
    let s := holdStore (drainKeys s c.w.core x.keys) c.w l gid (x.keys.map fun k => (k, (0 : Byte))) (some (op, f, v, new, d)) ord sc
      ((x.page.map (·.sc)).getD false)
    updThr s c.w l fun t =>
      { t with pend := t.pend ++ [{ regs := (wr d (rn f)).codes, left := if isAcq ord then 0 else la, due := 0, held := some id }] }
  else
    let s := atomPlace s c.w x hint
    let old := atomOld s c.w x
    let nv := atomNew op f old v new
    let s := match nv with | some n => atomWrite s c.w l x (toBytes size n) | none => s
    let s := atomLeave s c.w x nv.isSome
    let s := if isRel ord && wideDie sc then addRelease s c.w l x (sc == .sys) else s
    let s := if isAcq ord then acquire s c.w l sc x.keys else s
    dstFmt s c l d f old

/-- The types of ATOM and RED (R316): 040h otherwise, and for a bitwise operation on a floating type. -/
def atomType (op : RedOp) (f : Fmt) : Bool :=
  match f with
  | .i32 | .n32 | .i64 | .n64 => true
  | .f32 | .f16 | .bf16 => match op with | .and | .or | .xor => false | _ => true
  | _ => false

/-- What an atomic waits for: ownership, or the drains behind a release it acquires. -/
def atomNeed (s : State) (c : Cursor) (l : Nat) (a : AddrOps) (size : Nat) (ord : Order) (sc : Scope) : Option (Why × State) :=
  match atomAcc s c l a size sc with
  | (_, .error _) => none
  | (s, .ok x) =>
    match ownNeedOf s c.w l x with
    | some y => some (y, s)
    | none =>
      match ownNeed s c.w.core x with
      | some r => some r
      | none => if isAcq ord then acqNeed s c sc x else none

/-- ATOM and RED for one thread. -/
def redLane (o : AtomOps) (h : Hdr) (c : Cursor) (s : State) (l : Nat) : LRes :=
  if !atomType o.op o.fmt then .trap 0x040 0
  else
    match atomAcc s c l o.addr o.size.bytes o.sc with
    | (_, .error e) => .trap e.1 e.2
    | (s, .ok x) =>
      .ok (atomLane (some o.op) o.fmt o.size.bytes x o.ord o.sc h.rh h.la.toNat o.d (src s c l o.b o.fmt.is64) 0 c s l)

/-- ATOM (R316). -/
def execAtom (h : Hdr) (o : AtomOps) (s : State) : Host.Outcome State Fault Refusal :=
  perLaneW (.atom h o) h s
    (fun c s l => if !atomType o.op o.fmt then none else atomNeed s c l o.addr o.size.bytes o.ord o.sc) (redLane o h)

/-- RED (R369). -/
def execRed (h : Hdr) (o : AtomOps) (s : State) : Host.Outcome State Fault Refusal :=
  perLaneW (.red h o) h s
    (fun c s l => if !atomType o.op o.fmt then none else atomNeed s c l o.addr o.size.bytes o.ord o.sc)
    (redLane { o with d := .zero } h)

/-- The types of ACAS (R311). -/
def acasType (f : Fmt) : Bool := match f with | .i32 | .n32 | .i64 | .n64 => true | _ => false

/-- The operands of ACAS (R311): the expected value, then the new one. -/
def acasVals (s : State) (c : Cursor) (l : Nat) (b : Opd) (wide : Bool) : Nat × Nat :=
  let r := fun i => (srcAt s c l b i).toNat
  if wide then (r 0 + r 1 * 2 ^ 32, r 2 + r 3 * 2 ^ 32) else (r 0, r 1)

/-- ACAS (R311). -/
def execAcas (h : Hdr) (o : AcasOps) (s : State) : Host.Outcome State Fault Refusal :=
  perLaneW (.acas h o) h s
    (fun c s l => if !acasType o.fmt then none else atomNeed s c l o.addr o.size.bytes o.ord o.sc)
    fun c s l =>
      if !acasType o.fmt then .trap 0x040 0
      else
        match atomAcc s c l o.addr o.size.bytes o.sc with
        | (_, .error e) => .trap e.1 e.2
        | (s, .ok x) =>
          let v := acasVals s c l o.b o.fmt.is64
          .ok (atomLane none o.fmt o.size.bytes x o.ord o.sc h.rh h.la.toNat o.d v.1 v.2 c s l)

/-! ### Ownership -/

/-- OWNERSHIP_RECALL (05_consistency.md R123): the owner of a block gives it up. -/
def execOwnershipRecall (block : Nat) (s : State) : Host.Outcome State Fault Refusal :=
  let hit := fun (e : Nat × Nat × Nat) => e.1 ≤ block && block < e.1 + e.2.2
  done { s with
    ms.owners := s.ms.owners.filter fun e => !hit e
    ms.ownWait := s.ms.ownWait.map fun q => if q.2.1 == block then (q.1, q.2.1, true) else q }

/-- OWNERSHIP_GRANT (R123): the oldest request for the block is answered; its path goes on. -/
def execOwnershipGrant (block : Nat) (s : State) : Host.Outcome State Fault Refusal :=
  match s.ms.ownWait.find? fun q => q.2.1 == block && q.2.2 with
  | none => done s
  | some q => done { s with ms.ownWait := s.ms.ownWait.filter fun r => !(r.1 == q.1 && r.2.1 == block) }

end Sys2Proof.Machine
end

