-- ==== Sys2Proof/Machine/Groups.lean ====
section
/-! DEFINITION. The device's own accesses in a context (18_reference_m_s.md R379, 11_traps_and_preemption.md R415), frames
(04_memory_hierarchy.md R96), barriers (02_execution_model.md R48 to R53), superstep sets (04 R102) and the exit of threads and warps
(R47, 17_reference_d_l.md R333). -/
namespace Sys2Proof.Machine

/-- What follows a meaning that went on. -/
def andThen (o : Host.Outcome State Fault Refusal) (f : State → State) : Host.Outcome State Fault Refusal :=
  match o with
  | .next s => done (f s)
  | o => o

/-! ### Releases and acquires at .pkg -/

/-- What lies behind the releases that the threads of a path may have read drains before a command that acquires reads (R115, R126). -/
def drainSeen (s : State) (w : WKey) (ls : List Nat) : State :=
  ((ls.flatMap fun l => (thrAt s w l).relSeen).eraseDups).foldl (fun s q => drainUpTo s q.1 q.2) s

/-- A release at .pkg of everything a core has stored (03_work_scheduling.md R72, 05_consistency.md R129), with the clock of its die (R122). -/
def pkgRelease (s : State) (core : Nat) : State :=
  let s := vcTick (drainAll s core) (dieOf core)
  { s with ms.syncVc := vcMax s.ms.syncVc (vcOf s (dieOf core)) }
/-- An acquire at .pkg on a core (R72, R129): its die takes in the clock of the release (log 74) and applies every forwarded write, and its L1 drops
its clean sectors. -/
def pkgAcquire (s : State) (core : Nat) : State :=
  let s := vcMerge s (dieOf core) s.ms.syncVc
  let fs := s.ms.forwards.getD (dieOf core) []
  acquireL1 (catchUp s (dieOf core) (fs.foldl (fun v f => vcMax v f.vc) []) fs.length) core

/-- The release of some threads of a path at .pkg (R72): what they have read stands before it too (05_consistency.md R115, R122). -/
def pathRelease (s : State) (w : WKey) (ls : List Nat) : State :=
  pkgRelease (ls.foldl (fun s l => vcMerge s (dieOf w.core) (thrAt s w l).readVC) (drainSeen s w ls)) w.core

/-! ### System accesses -/

/-- The keys of a system access of the device in a context (R379, R415): 061h, 060h, 062h, 080h, then 0A9h when the page is neither
cacheable Scarp memory nor, with `win`, inside the mailbox window. -/
def sysAccess (s : State) (die ctx va n : Nat) (store win : Bool) : State × Except Nat (List Nat) :=
  if tooHigh va then (s, .error 0x061)
  else
    match translate s none die ctx va with
    | (s, .error code) => (s, .error code)
    | (s, .ok p) =>
      if store && !p.w then (s, .error 0x080)
      else if (p.host && !(win && inWindow s (p.key va))) || (!p.host && !p.c) then (s, .error 0x0A9)
      else (s, .ok ((List.range n).map fun i => p.key va + i))

/-- A record of KIND 6 (R415). -/
def structRecord (ctx code obj : Nat) (addr : W64) : FaultRec := { code := code, kind := 6, ctx := ctx, addr := addr, obj := obj }

/-! ### Frames (R96) -/

/-- The arena of a context is enabled: PFSHIFT is 21 to 30 (Table 4.2). -/
def arenaOn (r : Ctx) : Bool := 21 ≤ bits r.pfctl 4 0 && bits r.pfctl 4 0 ≤ 30
/-- The frames of the arena. -/
def frameCount (r : Ctx) : Nat := bits r.pfctl 31 8

/-- A failure of a bitmap access: a record of KIND 6 at the first one since the last success. -/
def mapFailure (s : State) (die ctx code : Nat) (addr : W64) : State :=
  if (ctxOf s ctx).mapFailed then s
  else updCtx (postFault s die (structRecord ctx code 0 addr)) ctx fun r => { r with mapFailed := true }

/-- Sets or clears a frame's bit in the bitmap; a failed access leaves it. -/
def frameBit (s : State) (die ctx f : Nat) (on : Bool) : State × Bool :=
  let va := (ctxOf s ctx).pfmap.toNat + f / 64 * 8
  match sysAccess s die ctx va 8 true false with
  | (s, .error code) => (mapFailure s die ctx code (w64 va), false)
  | (s, .ok ks) =>
    let s := probe s none (ks.headD 0) 8
    let v := ofBytes (homeRead s (ks.headD 0) 8)
    let b := 2 ^ (f % 64)
    let v' := if on then Nat.lor v b else if natBit v (f % 64) then v - b else v
    (updCtx (homeWrite s [] (Memory.cells (ks.headD 0) (toBytes 8 v'))) ctx fun r => { r with mapFailed := false }, true)

/-- The lowest clear bits of the bitmap, n of them, from frame f on; none when an access fails or too few are clear. -/
def clearFrames (s : State) (die ctx : Nat) : Nat → Nat → Nat → List Nat → State × Option (List Nat)
  | 0, _, _, _ => (s, none)
  | fuel + 1, f, n, acc =>
    if n = 0 then (s, some acc)
    else if frameCount (ctxOf s ctx) ≤ f then (s, none)
    else
      let va := (ctxOf s ctx).pfmap.toNat + f / 64 * 8
      match sysAccess s die ctx va 8 true false with
      | (s, .error code) => (mapFailure s die ctx code (w64 va), none)
      | (s, .ok ks) =>
        let s := updCtx (probe s none (ks.headD 0) 8) ctx fun r => { r with mapFailed := false }
        if natBit (ofBytes (homeRead s (ks.headD 0) 8)) (f % 64) then clearFrames s die ctx fuel (f + 1) n acc
        else clearFrames s die ctx fuel (f + 1) (n - 1) (acc ++ [f])

/-- Takes n frames of a context for a fresh group (R96), in increasing order. -/
def takeFrames (s : State) (die ctx n : Nat) : State × Option (List Nat) :=
  let r := ctxOf s ctx
  if !arenaOn r then (s, none)
  else
    match clearFrames s die ctx (frameCount r + 1) 0 n [] with
    | (s, none) => (s, none)
    | (s, some fs) => (fs.foldl (fun s f => (frameBit s die ctx f true).1) s, some fs)

/-! ### Barriers -/

/-- Threads of a group with a test, changed. -/
def updGroupThreads (s : State) (gid : Nat) (p : Thread → Bool) (f : Thread → Thread) : State :=
  { s with warps := s.warps.map fun e =>
      if e.2.gid == gid then (e.1, { e.2 with th := e.2.th.map fun t => if p t then f t else t }) else e }

/-- Releases the waiters of a barrier of a group. -/
def releaseWaiters (s : State) (gid : Nat) (b : BarKind) : State :=
  updGroupThreads s gid (fun t => t.st == .barrier b) fun t => { t with st := .running }

/-- The numbers of a group's unexited warps. -/
def warpNums (s : State) (g : Group) : List Nat := g.warps.map fun w => ((warpAt s w).map (·.num)).getD 0

/-- The group barrier's generation completes when every unexited warp has arrived (R49). -/
def barCheck (s : State) (gid : Nat) : State :=
  match s.groups.get? gid with
  | none => s
  | some g =>
    if g.barArrived != 0 && (warpNums s g).all fun n => hasLane g.barArrived n then
      updGroup (releaseWaiters s gid .group) gid fun g => { g with barGen := g.barGen + 1, barArrived := 0 }
    else s

/-- BAR (16_reference_a_c.md R317): one arrival of the warp, and the executing threads wait. -/
def execBar (h : Hdr) (s : State) : Host.Outcome State Fault Refusal :=
  perPath (.bar h) h s fun c act s =>
    if lrec s (grp s c.w) 132 132 = 1 then .trap 0x0E1 0
    else
      let n := ((warpAt s c.w).map (·.num)).getD 0
      let s := updGroup s (gidOf s c.w) fun g => { g with barArrived := g.barArrived ||| w32 (2 ^ n) }
      let s := act.foldl (fun s l => updThr s c.w l fun t => { t with st := .barrier .group }) s
      .ok (barCheck s (gidOf s c.w))

/-- The pool size of a launch (R51). -/
def poolSize (s : State) (g : Group) : Nat := lrec s g 137 133 + 1

/-- One thread's arrival at a named barrier (18_reference_m_s.md R361). -/
def nbarLane (o : NbarOps) (c : Cursor) (s : State) (l : Nat) : LRes :=
  let g := grp s c.w
  let gid := gidOf s c.w
  match o.a with
  | .nb k =>
    if lrec s g 132 132 = 0 then .trap 0x0E1 0
    else if poolSize s g ≤ k.val then .trap 0x0E2 0
    else
      let b : NBar := g.nb.getD k.val {}
      let n := if o.b == .zero then o.cnt.toNat else src s c l o.b false
      if n = 0 ∨ 1024 < n ∨ (0 < b.total ∧ n ≠ b.expected) then .trap 0x0E3 0
      else
        let s := updThr s c.w l fun t => { t with st := .barrier (.named k) }
        let b := { b with expected := if b.total = 0 then n else b.expected, total := b.total + 1 }
        if b.total = b.expected then
          .ok (updGroup (releaseWaiters s gid (.named k)) gid fun g => { g with nb := g.nb.put k.val { b with total := 0, gen := b.gen + 1 } })
        else .ok (updGroup s gid fun g => { g with nb := g.nb.put k.val b })
  | _ => .trap 0x021 0

/-- NBAR (R361). -/
def execNbar (h : Hdr) (o : NbarOps) (s : State) : Host.Outcome State Fault Refusal :=
  perLane (.nbar h o) h s (nbarLane o)

/-! ### Superstep sets (R102) -/

/-- The member launches of a set: those that have joined, by launch-table index. -/
def members (s : State) (n : Nat) : List (Nat × Launch) :=
  (List.range 8).flatMap fun d =>
    ((schedOf s d).launches.filter fun e =>
      e.2.f 152 152 == 1 && e.2.f 151 148 == n && !e.2.waiting && (e.2.active || 0 < e.2.emitted)).map fun e => (d * 8192 + e.1, e.2)

/-- The groups that a launch's grid holds (R32). -/
def Launch.total (l : Launch) : Nat := (l.f 123 120 + 1) * (l.f 79 64 + 1) * (l.f 95 80 + 1) * (l.f 111 96 + 1)

/-- Groups of a launch that have arrived in the open generation, saved ones among them. -/
def arrivedGroups (s : State) (lti : Nat) : Nat :=
  (s.groups.filter fun e => e.2.lti == lti && e.2.ssbArrived).length + (s.saved.filter fun v => v.lti == lti && v.group.ssbArrived).length

/-- The generation that a thread waits for at SSB completes, and with it the instruction: the thread goes on, in a new region
(11_traps_and_preemption.md R224, 18_reference_m_s.md R383). -/
def Thread.endStep (seq : Nat) (t : Thread) : Thread := { t with st := .running, rgnpc := t.pc, rgnSeq := seq }

/-- The generation that a saved group has arrived in completes: its threads go on when it is restored. -/
def Saved.releaseStep (seq : Nat) (v : Saved) : Saved :=
  let go := fun (t : Thread) => if t.st == .barrier .superstep then t.endStep seq else t
  { v with group := { v.group with ssbArrived := false }, warps := v.warps.map fun e => (e.1, { e.2 with th := e.2.th.map go }) }

/-- A copy command with a destination above another cluster or die than its core's own (04_memory_hierarchy.md R101). -/
def CCmd.lateralPut (x : CCmd) : Bool :=
  if x.kind = 0 then x.dsp == .vlt && x.reqs.any (fun r => lateral x.w.core (vaultKey r.1))
  else x.kind == 1 && x.vlt && !x.toMem && lateral x.w.core (vaultKey x.loc)

/-- Every copy command that has not ended. -/
def allCopies (s : State) : List CCmd := (s.coal.flatMap fun e => e.2) ++ s.ctab.toList.flatMap fun t => t.map fun e => e.2

/-- The launch-table index of a group, resident or saved. -/
def ltiOf (s : State) (gid : Nat) : Option Nat :=
  ((s.groups.get? gid).map (·.lti)).or ((s.saved.find? (·.gid == gid)).map (·.lti))

/-- A group of some launches, resident or saved, has issued a copy into a vault above another cluster that has not been applied. -/
def putOpen (s : State) (ltis : List Nat) : Bool :=
  (allCopies s ++ s.saved.flatMap (·.coal)).any fun x => x.lateralPut && match ltiOf s x.gid with | some i => ltis.contains i | none => false

/-- A generation of a set completes (R102, R52): its groups' threads are released, memory is ordered at .pkg, and the step rises. -/
def superstepCheck (s : State) (n : Nat) : State :=
  let ms := members s n
  let st := s.ssets.getD n {}
  if !ms.isEmpty && st.puts == 0 && !putOpen s (ms.map (·.1)) && ms.any (fun m => 0 < m.2.live) && ms.all (fun m => m.2.emitted == m.2.total && arrivedGroups s m.1 == m.2.live) then
    let ltis := ms.map (·.1)
    let mine := s.groups.filter fun e => ltis.contains e.2.lti
    let cores := (mine.map (·.2.core)).eraseDups
    let s := mine.foldl (fun s e => e.2.warps.foldl (fun s w => pathRelease s w (List.range 32)) s) s
    let s := cores.foldl pkgRelease s
    let s := cores.foldl pkgAcquire s
    let seq := s.nextId
    let s := mine.foldl (fun s e => updGroup (updGroupThreads s e.1 (fun t => t.st == .barrier .superstep) (Thread.endStep seq)) e.1 fun g =>
      { g with ssbArrived := false }) s
    { s with
      saved := s.saved.map fun v => if ltis.contains v.lti then v.releaseStep seq else v
      ssets := s.ssets.put n { st with step := st.step + 1 } }
  else s

/-- The group arrives once every live thread of it waits at SSB (18_reference_m_s.md R383). -/
def ssbArrive (s : State) (gid : Nat) : State :=
  match s.groups.get? gid with
  | none => s
  | some g =>
    let ws := g.warps.filterMap (warpAt s)
    let waits := fun (t : Thread) => t.st == .exited || t.st == .barrier .superstep
    let some1 := ws.any fun x => x.th.toList.any fun t => t.st == .barrier .superstep
    let s := if some1 && ws.all (fun x => x.th.toList.all waits) then updGroup s gid fun g => { g with ssbArrived := true } else s
    match ssetOf s g with
    | some n => superstepCheck s n
    | none => s

/-- SSB (R383): 0E7h outside any set. -/
def execSsb (h : Hdr) (s : State) : Host.Outcome State Fault Refusal :=
  perPath (.ssb h) h s fun c act s =>
    if (ssetOf s (grp s c.w)).isNone then .trap 0x0E7 0
    else
      let s := act.foldl (fun s l => updThr s c.w l fun t => { t with st := .barrier .superstep }) s
      .ok (ssbArrive s (gidOf s c.w))

/-! ### Deadlock (R53) -/

/-- The threads of a group, with their places. -/
def groupThreads (s : State) (g : Group) : List (WKey × Nat × Thread) :=
  g.warps.flatMap fun w =>
    match warpAt s w with
    | some x => (List.range 32).map fun l => (w, l, x.thr l)
    | none => []

/-- Every unexited thread of a group is in barrier wait and no generation can complete (R53). A superstep generation in which the group
has arrived can still complete. -/
def deadlocked (s : State) (gid : Nat) : Bool :=
  match s.groups.get? gid with
  | none => false
  | some g =>
    let ts := (groupThreads s g).filter fun e => e.2.2.st != .exited
    !ts.isEmpty && ts.all (fun e => match e.2.2.st with | .barrier _ => true | _ => false) &&
      !(g.ssbArrived && ts.any fun e => e.2.2.st == .barrier .superstep)

/-- BARRIER_DEADLOCK (R53): every waiting thread traps with 0E4h; thread arrivals are withdrawn, warp and group arrivals stay. -/
def execBarrierDeadlock (gid : Nat) (s : State) : Host.Outcome State Fault Refusal :=
  if !deadlocked s gid then done s
  else
    match s.groups.get? gid with
    | none => done s
    | some g =>
      let ts := (groupThreads s g).filter fun e => e.2.2.st != .exited
      let back := fun (g : Group) (e : WKey × Nat × Thread) =>
        match e.2.2.st with
        | .barrier (.named k) =>
          let b := g.nb.getD k.val {}
          { g with nb := g.nb.put k.val { b with total := b.total - 1, expected := if b.total ≤ 1 then 0 else b.expected } }
        | _ => g
      let s := updGroup s gid fun g => ts.foldl back g
      let s := updGroupThreads s gid (fun t => t.st != .exited) fun t => { t with st := .running }
      let places := (ts.map fun e => (wIdx e.1, e.2.2.pc)).eraseDups
      done (places.foldl (fun s p =>
        let ls := (ts.filter fun e => wIdx e.1 == p.1 && e.2.2.pc == p.2).map (·.2.1)
        takeTraps s (wKeyOf p.1) (p.2 - 12) (ls.map fun l => { lane := l, code := 0x0E4, addr := 0 })) s)

/-! ### Exit -/

/-- A warp's last thread has exited (R47, R333): its frame bit is cleared, its slot and registers return, it leaves the open generation,
and the group exits with its last warp. -/
def warpExit (s : State) (w : WKey) : State :=
  match warpAt s w with
  | none => s
  | some x =>
    if liveMask x != 0 then s
    else
      let g := s.groups.getD x.gid {}
      let s := (frameBit s (dieOf w.core) g.ctx x.frame false).1
      let s := disown s (· == w)
      let s := { s with warps := s.warps.del (wIdx w), grow := s.grow.map fun e => (e.1, e.2.filter fun q => q.w != w) }
      let s := updGroup s x.gid fun g => { g with warps := g.warps.filter (· != w) }
      match s.groups.get? x.gid with
      | none => s
      | some g => if g.warps.isEmpty then due (updGroup s x.gid fun g => { g with ending := true }) (.groupExit x.gid) else barCheck s x.gid

/-- What follows the exit of threads of a warp. -/
def afterExit (s : State) (w : WKey) : State :=
  let gid := gidOf s w
  let s := warpExit s w
  match s.groups.get? gid with
  | some g => if g.warps.isEmpty then s else ssbArrive s gid
  | none => s

/-- EXIT (R333): a thread with an incomplete long-latency instruction waits, running, and issues nothing. -/
def execExit (h : Hdr) (s : State) : Host.Outcome State Fault Refusal :=
  andThen (perLane (.exit h) h s fun c s l =>
    .ok (updThr s c.w l fun t => { t with st := if t.pend.isEmpty then .exited else .exiting, inh := false, watch := none }))
    fun s => match s.cur with | some c => afterExit s c.w | none => s

/-- EXIT_COMPLETE (R333): in the cycle after its last long-latency instruction has completed, a waiting thread becomes Exited. -/
def execExitComplete (w : WKey) (lane : Nat) (s : State) : Host.Outcome State Fault Refusal :=
  let t := thrAt s w lane
  if t.st == .exiting && t.pend.isEmpty then done (afterExit (updThr s w lane fun t => { t with st := .exited }) w) else done s

/-- A long-latency instruction of a thread is due: its reads of host memory have their responses. -/
def pendDue (s : State) (w : WKey) (lane : Nat) (p : Pending) : Bool :=
  p.held.isNone && p.due ≤ s.cycle && !s.hostReqs.any fun q => q.own == some (w, lane)

/-- INSTRUCTION_COMPLETE (15_instruction_formats.md R292): the long-latency instructions of a thread that are due complete. -/
def execInstructionComplete (w : WKey) (lane : Nat) (s : State) : Host.Outcome State Fault Refusal :=
  done (updThr s w lane fun t => { t with pend := t.pend.filter fun p => !pendDue s w lane p })

end Sys2Proof.Machine
end

