-- ==== Sys2Proof/Machine/Queue.lean ====
section
/-! DEFINITION. Continuation records and the queues of a die (03_work_scheduling.md R64 to R68), the held list of a suspended context
(11_traps_and_preemption.md R236), aging and the retry of device pushes. -/
namespace Sys2Proof.Machine

/-- A continuation record (Table 3.1). -/
abbrev Rcd := BitVec 256

namespace Rcd
/-- CODE. -/
def code (r : Rcd) : Nat := bits r 63 0
/-- FRAME. -/
def frame (r : Rcd) : Nat := bits r 127 64
/-- JOIN. -/
def join (r : Rcd) : Nat := bits r 159 128
/-- KIND. -/
def kind (r : Rcd) : Nat := bits r 167 160
/-- PRIO. -/
def prio (r : Rcd) : Nat := bits r 170 168
/-- AFF. -/
def aff (r : Rcd) : Nat := bits r 175 172
/-- ARMED. -/
def armed (r : Rcd) : Bool := r.getLsbD 180
/-- RESUME. -/
def isResume (r : Rcd) : Bool := r.getLsbD 181
/-- ARG. -/
def arg (r : Rcd) : Nat := bits r 255 192
/-- A record of its fields. -/
def make (code frame join kind prio aff stage : Nat) (resume : Bool) (arg : Nat) : Rcd :=
  BitVec.ofNat 256 (code % 2 ^ 64 + frame % 2 ^ 64 * 2 ^ 64 + join % 2 ^ 32 * 2 ^ 128 + kind % 256 * 2 ^ 160 + prio % 8 * 2 ^ 168 +
    aff % 16 * 2 ^ 172 + stage % 16 * 2 ^ 176 + (if resume then 2 ^ 181 else 0) + arg % 2 ^ 64 * 2 ^ 192)
/-- The record with JOIN and ARMED replaced. -/
def withJoin (r : Rcd) (join : Nat) (armed : Bool) : Rcd :=
  let clear := r &&& ~~~(BitVec.ofNat 256 ((2 ^ 32 - 1) * 2 ^ 128 + 2 ^ 180))
  clear ||| BitVec.ofNat 256 (join % 2 ^ 32 * 2 ^ 128 + (if armed then 2 ^ 180 else 0))
/-- The record with its LTI replaced (R84). -/
def withLti (r : Rcd) (lti : Nat) : Rcd :=
  (r &&& ~~~(BitVec.ofNat 256 ((2 ^ 16 - 1) * 2 ^ 240))) ||| BitVec.ofNat 256 (lti % 2 ^ 16 * 2 ^ 240)
/-- The checks of R66. -/
def invalid (r : Rcd) : Bool :=
  r.getLsbD 171 || bits r 191 182 != 0 || r.kind == 0 || 5 ≤ r.kind || 9 ≤ r.aff || r.code % 4 != 0 || 2 ^ 57 ≤ r.code
/-- The LTI of a GROUP record. -/
def lti (r : Rcd) : Nat := bits r 255 240
end Rcd

/-- The die a record pushed by a die goes to (Table 3.1). -/
def targetDie (r : Rcd) (die : Nat) : Nat := if r.aff < 8 then r.aff else die

/-- Records of a die that lie in the overflow region (R67). -/
def overflowUsed (d : DieSched) : Nat := d.queues.toList.foldl (fun a q => a + (q.length - 512)) 0
/-- The queue of a level. -/
def levelOf (d : DieSched) (lv : Nat) : List Queued := d.queues.getD lv []
/-- Room for a push of a program (R67): on the die, or in the overflow region outside the reserve of 1,024 records. -/
def roomOutsideReserve (s : State) (die lv : Nat) : Bool :=
  let d := schedOf s die
  (levelOf d lv).length < 512 || overflowUsed d + 1024 < d.ovSize.toNat
/-- Room for a push of the device. -/
def roomForDevice (s : State) (die lv : Nat) : Bool :=
  let d := schedOf s die
  (levelOf d lv).length < 512 || overflowUsed d < d.ovSize.toNat

/-- The queues of a die with the places in the overflow region that are in use. -/
def ovPlaces (d : DieSched) : List Nat := d.queues.toList.flatMap fun q => q.filterMap (·.ov)

/-- A record that has come within its level's 512 is read back from its place in the overflow region; one beyond them is written to the lowest
free place (R67). DESIGN CHOICE (log 61): the spec gives a record no place in the region. -/
def ovSettle1 (s : State) (die lv : Nat) : State :=
  (List.range (levelOf (schedOf s die) lv).length).foldl (fun s i =>
    let d := schedOf s die
    match (levelOf d lv)[i]? with
    | none => s
    | some q =>
      let put := fun (s : State) (q : Queued) => updSched s die fun d => { d with queues := d.queues.setIfInBounds lv ((levelOf d lv).set i q) }
      let va := fun (p : Nat) => d.ovBase.toNat + 32 * p
      match q.ov with
      | some p =>
        if i < 512 then put (devCheck s (va p) 32) { q with ov := none, rcd := BitVec.ofNat 256 (ofBytes (devRead s (va p) 32)) } else s
      | none =>
        if i < 512 then s
        else
          let used := ovPlaces d
          let p := ((List.range (used.length + 1)).find? fun p => !used.contains p).getD 0
          put (devWrite s (va p) (toBytes 32 q.rcd.toNat)) { q with ov := some p }) s
/-- The overflow region of a die after a change of its queues. -/
def ovSettle (s : State) (die : Nat) : State :=
  if (schedOf s die).queues.toList.all fun q => q.length ≤ 512 && q.all (·.ov.isNone) then s
  else (List.range 8).foldl (fun s lv => ovSettle1 s die lv) s

/-- The thread's place in the order of a cycle's pushes: its core, then its lane (R68). -/
def pusher (core lane : Nat) : Nat := core * 32 + lane

/-- In one cycle a push stands after another: device pushes stand first, then those of threads by core and lane (R68). -/
def Queued.after (now : Nat) (q e : Queued) : Bool :=
  match e.byThread with
  | some n => e.since == now && (match q.byThread with | some m => m < n | none => true)
  | none => false

/-- Puts a record in its queue, before the pushes of its cycle that stand after it (R68). -/
def enqueue (s : State) (die : Nat) (q : Queued) : State :=
  let lv := Rcd.prio q.rcd
  let cur := levelOf (schedOf s die) lv
  let new := cur.filter (fun e => !q.after s.cycle e) ++ [q] ++ cur.filter (q.after s.cycle)
  ovSettle (updSched s die fun d => { d with queues := d.queues.setIfInBounds lv new }) die

/-- Writes the records that wait for a suspended context's held list, while it has room and can be written (R236). A failure writes a
record of KIND 6 the first time (R415). -/
def heldPump (s : State) (die ctx : Nat) : Nat → State
  | 0 => s
  | n + 1 =>
    let r := ctxOf s ctx
    match r.heldWait with
    | [] => s
    | e :: rest =>
      if r.heldsize.toNat ≤ r.heldcnt.toNat then s
      else
        let va := bits r.heldbase 56 5 * 32 + 32 * r.heldcnt.toNat
        match sysAccess s die ctx va 32 true false with
        | (s, .error code) =>
          if (ctxOf s ctx).heldFailed then s
          else updCtx (postFault s die (structRecord ctx code 1 (w64 va))) ctx fun r => { r with heldFailed := true }
        | (s, .ok ks) =>
          let s := homeWrite s [] (ks.zip (toBytes 32 e.1.toNat))
          heldPump (updCtx s ctx fun r =>
            { r with heldWait := rest, heldcnt := r.heldcnt + 1, heldFailed := false, heldDies := r.heldDies ++ [e.2] }) die ctx n

/-- A device push of the level waits. -/
def levelWaits (d : DieSched) (lv : Nat) : Bool := d.waiting.any fun q => Rcd.prio q.rcd == lv

/-- A push (R67, R236): to the held list of a suspended context; else to the queue, where a device push without room waits, behind those of its
level, and sets QFULL. -/
def pushRcd (s : State) (die ctx : Nat) (r : Rcd) (byThread : Option Nat) : State :=
  if (ctxOf s ctx).suspended then
    let s := updCtx s ctx fun x => { x with heldWait := x.heldWait ++ [(r, targetDie r die)] }
    heldPump s die ctx (ctxOf s ctx).heldWait.length
  else
    let t := targetDie r die
    let q : Queued := { rcd := r, ctx := ctx, since := s.cycle, byThread := byThread }
    if byThread.isSome || (roomForDevice s t (Rcd.prio r) && !levelWaits (schedOf s t) (Rcd.prio r)) then enqueue s t q
    else updSched s t fun d => { d with waiting := d.waiting ++ [q], qfull := true }

/-- A waiting device push takes its room, or waits on behind those of its level and sets QFULL. -/
def retryPush (die : Nat) (s : State) (q : Queued) : State :=
  if roomForDevice s die (Rcd.prio q.rcd) && !levelWaits (schedOf s die) (Rcd.prio q.rcd) then enqueue s die { q with since := s.cycle }
  else updSched s die fun d => { d with waiting := d.waiting ++ [q], qfull := true }

/-- DEVICE_PUSH_RETRY (R67): the device pushes that wait, in order. -/
def execDevicePushRetry (die : Nat) (s : State) : Host.Outcome State Fault Refusal :=
  done ((schedOf s die).waiting.foldl (retryPush die) (updSched s die fun d => { d with waiting := [] }))

/-- HELD_LIST_PUSH_RETRY (11_traps_and_preemption.md R236). -/
def execHeldListPushRetry (ctx : Nat) (s : State) : Host.Outcome State Fault Refusal :=
  let die := ((ctxOf s ctx).heldWait.headD (0, 0)).2
  done (heldPump s die ctx (ctxOf s ctx).heldWait.length)

/-- One level of aging (R68): records that have waited 2^16 cycles move to the tail of the next higher level. DESIGN CHOICE (log 62): where that
level's 512 places and the overflow region are full, the record stays until there is room. -/
def ageLevel (s : State) (die lv : Nat) : State :=
  ((levelOf (schedOf s die) lv).filter fun q => q.since + 65536 ≤ s.cycle).foldl (fun s q =>
    let d := schedOf s die
    let qs := d.queues.setIfInBounds lv ((levelOf d lv).erase q)
    let s' := updSched s die fun d => { d with queues := qs }
    if roomForDevice s' die (lv + 1) then
      let q' := { q with since := s.cycle, byThread := none }
      ovSettle (updSched s' die fun d => { d with queues := d.queues.setIfInBounds (lv + 1) (levelOf d (lv + 1) ++ [q']) }) die
    else s) s

/-- QUEUE_AGING (R68): records at level 7 do not move. -/
def execQueueAging (die : Nat) (s : State) : Host.Outcome State Fault Refusal :=
  done ((List.range 7).reverse.foldl (fun s lv => ageLevel s die lv) s)

end Sys2Proof.Machine
end

