-- ==== Sys2Proof/Machine/Tensor.lean ====
section
/-! DEFINITION. Tensor identifiers (08_tensor_engines.md R167 to R171): the entry, its checks, the places of elements and scales, and
their values (07_number_formats.md R153, R154, R162). -/
namespace Sys2Proof.Machine

/-- A tensor identifier entry (Table 8.1). -/
abbrev Tensor := BitVec 1024

namespace Tensor
/-- BASE. -/
def base (t : Tensor) : Nat := bits t 56 0
/-- RANK. -/
def rank (t : Tensor) : Nat := bits t 59 57
/-- FMT. -/
def fmt (t : Tensor) : Fmt := Fmt.ofCode (BitVec.ofNat 4 (bits t 63 60))
/-- EXT of dimension d. -/
def ext (t : Tensor) (d : Nat) : Nat := bits t (95 + 32 * d) (64 + 32 * d)
/-- STR of dimension d, 1 to 4. -/
def str (t : Tensor) (d : Nat) : Nat := bits t (223 + 40 * d) (184 + 40 * d)
/-- TL of dimension d. -/
def tl (t : Tensor) (d : Nat) : Nat := bits t (399 + 16 * d) (384 + 16 * d)
/-- OOR. -/
def oor (t : Tensor) : Nat := bits t 465 464
/-- SCBASE. -/
def scbase (t : Tensor) : Nat := bits t 568 512
/-- SCFMT. -/
def scfmt (t : Tensor) : Nat := bits t 570 569
/-- SCSHIFT. -/
def scshift (t : Tensor) : Nat := bits t 573 571
/-- SCSTR of dimension d, 1 to 4. -/
def scstr (t : Tensor) (d : Nat) : Nat := bits t (575 + 40 * d) (536 + 40 * d)

/-- The size of a scale (R154). -/
def scaleSize (code : Nat) : Nat := if code = 2 then 2 else 1

/-- 042h: a scale format of 11b, or a shift outside 5 to 7 with a scale (R170). -/
def scaleBad (t : Tensor) : Bool := t.scfmt == 3 || (t.scfmt != 0 && (t.scshift < 5 || 7 < t.scshift))

/-- The element's byte size for alignment (R170): 1 for the 8-bit and narrower formats. -/
def elemBytes (f : Fmt) : Nat := max 1 (f.width / 8)

/-- 100h: the rules of R170 in turn. -/
def malformed (t : Tensor) : Bool :=
  let r := t.rank
  let dims := List.range 5
  bits t 511 466 != 0 || bits t 575 574 != 0 || bits t 1023 736 != 0 || 6 ≤ r ||
  (r == 0 && t != 0) ||
  (dims.any fun d => decide (d < r) && t.ext d == 0) ||
  (dims.any fun d => decide (r ≤ d) && (t.ext d != 0 || t.tl d != 0 || (d != 0 && (t.str d != 0 || t.scstr d != 0)))) ||
  t.base % elemBytes t.fmt != 0 || (dims.any fun d => d != 0 && t.str d % elemBytes t.fmt != 0) ||
  (t.fmt == .q4 && t.ext 0 % 2 != 0) || (t.fmt == .q3 && t.ext 0 % 8 != 0) || 2 ≤ t.oor ||
  (t.scfmt == 0 && (t.scbase != 0 || t.scshift != 0 || dims.any fun d => d != 0 && t.scstr d != 0)) ||
  ((t.scfmt == 1 || t.scfmt == 2) &&
    (t.scbase % scaleSize t.scfmt != 0 || dims.any fun d => d != 0 && t.scstr d % scaleSize t.scfmt != 0))

/-- The entry acts as empty (R167). -/
def empty (t : Tensor) : Bool := t.rank == 0 || t.scaleBad || t.malformed

/-- The bytes by which the dimensions from 1 on displace an element or a scale. -/
def outer (stride : Nat → Nat) (idx : List Nat) : Nat :=
  (List.range idx.length).foldl (fun a d => if d = 0 then a else a + idx.getD d 0 * stride d) 0

/-- The first byte of an element (R169). -/
def addr (t : Tensor) (idx : List Nat) : Nat := t.base + idx.headD 0 * t.fmt.width / 8 + outer t.str idx
/-- The bit of an element within its first byte. -/
def bitOf (t : Tensor) (idx : List Nat) : Nat := idx.headD 0 * t.fmt.width % 8
/-- The bytes that hold a bit of an element. -/
def span (t : Tensor) (idx : List Nat) : List Nat :=
  (List.range ((t.bitOf idx + t.fmt.width + 7) / 8)).map fun i => t.addr idx + i
/-- The bytes of an element's scale (R169). -/
def scaleSpan (t : Tensor) (idx : List Nat) : List Nat :=
  if t.scfmt = 0 then []
  else (List.range (scaleSize t.scfmt)).map fun i =>
    t.scbase + idx.headD 0 / 2 ^ t.scshift * scaleSize t.scfmt + outer t.scstr idx + i
/-- An index in range (R169). -/
def inRange (t : Tensor) (idx : List Nat) : Bool := (List.range t.rank).all fun d => idx.getD d 0 < t.ext d

/-- The value of a scale (R154). -/
def scaleValue (t : Tensor) (bs : List Byte) : Num.FV :=
  match t.scfmt with
  | 1 => if ofBytes bs = 255 then .nan else .fin false 1 ((ofBytes bs : Int) - 127)
  | 2 => Num.ofFloat .bf16 (ofBytes bs)
  | _ => .fin false 1 0

/-- The encoding of an element within its bytes. -/
def raw (t : Tensor) (idx : List Nat) (bs : List Byte) : Nat := ofBytes bs / 2 ^ t.bitOf idx % 2 ^ t.fmt.width

/-- An element times its scale, exactly (R162): an integer zero is positive, and a zero meeting an infinity or a NaN is a NaN (R163). -/
def expanded (t : Tensor) (idx : List Nat) (elem scale : List Byte) : Num.FV :=
  let x := Num.value t.fmt (t.raw idx elem)
  if t.scfmt = 0 then x else Num.mulFV x (t.scaleValue scale)
end Tensor

/-- The physical address of entry N of a context's table (R167). -/
def tidAddr (s : State) (ctx n : Nat) : Nat := bits (ctxOf s ctx).tidbase 51 17 * 2 ^ 17 + 128 * n
/-- An entry, read at the home of the table (R171). -/
def tidEntry (s : State) (ctx n : Nat) : Tensor := BitVec.ofNat 1024 (ofBytes (devRead s (tidAddr s ctx n) 128))
/-- The table lies at addresses that exist (log 10). -/
def tidCheck (s : State) (ctx n : Nat) : State := devCheck s (tidAddr s ctx n) 128

/-! ### Regions -/

/-- The indices of the dimensions from 1 on of a region, lowest dimension fastest. -/
def outerIdx (org n : List Nat) : List (List Nat) :=
  ((org.zip n).drop 1).foldr (fun p acc => acc.flatMap fun r => (List.range p.2).map fun i => (p.1 + i) :: r) [[]]

/-- The byte ranges of a region (R131): (first byte, length) for each run along dimension 0. -/
def regionRuns (t : Tensor) (org n : List Nat) : List (Nat × Nat) :=
  if n.headD 0 = 0 then []
  else (outerIdx org n).map fun o =>
    let lo := t.addr (org.headD 0 :: o)
    let last := (org.headD 0 + n.headD 0 - 1) :: o
    (lo, t.addr last + (t.bitOf last + t.fmt.width + 7) / 8 - lo)

/-- The 64 KiB pages of an address range. -/
def pagesOf (a n : Nat) : List Nat :=
  if n = 0 then [] else (List.range ((a + n - 1) / 65536 + 1 - a / 65536)).map fun i => (a / 65536 + i) * 65536

/-- The translation of a region's pages (R132), for a load by a user or system access: (address, size, key) of each, or the first
failure; and the attributes that make a footprint invalid. -/
def translateRuns (s : State) (core : Option Nat) (die ctx : Nat) (user : Bool) (runs : List (Nat × Nat)) :
    State × Except (Nat × W64) (List Page) :=
  (runs.flatMap fun r => (pagesOf r.1 r.2).map fun p => max p r.1).foldl (fun acc va =>
    match acc with
    | (s, .error e) => (s, .error e)
    | (s, .ok ps) =>
      if ps.any (·.covers ctx va) then (s, .ok ps)
      else if tooHigh va then (s, .error (0x061, w64 va))
      else
        match translate s core die ctx va with
        | (s, .error code) => (s, .error (code, w64 va))
        | (s, .ok p) => if user && !p.u then (s, .error (0x081, w64 va)) else (s, .ok (ps ++ [p]))) (s, .ok [])

/-- The blocks of a region under a translation (R132), each once. -/
def blocksOf (trans : List (Nat × Nat × Nat)) (runs : List (Nat × Nat)) : List (Nat × Nat) :=
  let key := fun (va : Nat) => (trans.find? fun p => p.1 ≤ va && va < p.1 + p.2.1).map fun p => p.2.2 + (va - p.1)
  let starts := runs.flatMap fun r =>
    (List.range ((r.1 + r.2 - 1) / 512 + 1 - r.1 / 512)).map fun i => max r.1 ((r.1 / 512 + i) * 512)
  ((starts.filterMap key).map fun k => (k / 512 * 512, 512)).eraseDups

end Sys2Proof.Machine
end

