-- ==== Sys2Proof/Machine/Tenure.lean ====
section
/-! DEFINITION. Tile handles and tenure (06_tile_tenure.md R130 to R147, 05_consistency.md R128): the directory's order, grants and
releases, held stores, and the instructions THOPEN, TENR, TREL, TSPLIT, THCLOSE and TTEST. -/
namespace Sys2Proof.Machine

/-! ### Conflict and order -/

/-- Two footprints share a block. -/
def footMeets (a b : List (Nat × Nat)) : Bool := a.any fun r => b.any fun q => r.1 == q.1
/-- Two tenures conflict (R133). -/
def Tenure.conflicts (a b : Tenure) : Bool := (a.write || b.write) && footMeets a.foot b.foot
/-- The die whose directory holds a tenure. -/
def Tenure.die (t : Tenure) : Nat := homeDie (t.foot.headD (0, 0)).1

/-- The dies that share a boundary with a die, in increasing order (01_device_overview.md R14). -/
def neighbours (d : Nat) : List Nat :=
  (List.range 8).filter fun e => (e / 4 == d / 4 && (e + 1 == d || d + 1 == e)) || e + 4 == d || d + 4 == e

/-- The stop by which a core's request reaches the directory of a die (04_memory_hierarchy.md R108): the stop of its cluster, or a boundary stop.
DESIGN CHOICE (log 52): a die's boundary stops from 80 on serve its neighbours in increasing order, and traffic comes along the row last. -/
def sourceStop (home core : Nat) : Nat :=
  let d := dieOf core
  if d = home then clusterOf core
  else
    let last := if d % 4 = home % 4 then (home + 4) % 8 else if d % 4 < home % 4 then home - 1 else home + 1
    80 + ((neighbours home).idxOf? last).getD 0

/-- The place of a request in the tenure order of a die (R134): its cycle, engine requests before thread requests, the source stop, then the
order of R130; cores of one stop that tie there go by number (log 52). -/
def tenureOrder (s : State) (thread : Bool) (w : WKey) (home : Nat) : Nat :=
  ((((s.cycle * 2 + (if thread then 1 else 0)) * 128 + sourceStop home w.core) * 4 + w.quad) * 8 + w.slot) * 512 + w.core
/-- One entry stands before another in tenure order. -/
def orderedBefore (a b : Nat × Tenure) : Bool := a.2.order < b.2.order || (a.2.order == b.2.order && a.1 < b.1)

/-- The 64 KiB blocks that tenures touch: summary records in use (R135). -/
def summaryBlocks (ts : List (Nat × Tenure)) : Nat := ((ts.flatMap fun e => e.2.foot.map fun r => r.1 / 65536).eraseDups).length

/-- A request lies inside its directory (R135): entries held, and queued before it, leave room for it and for its summary records. -/
def insideDirectory (s : State) (e : Nat × Tenure) : Bool :=
  let ahead := s.ten.filter fun f => f.2.die == e.2.die && f.1 != e.1 && (f.2.st != 0 || orderedBefore f e)
  ahead.length < 16384 && summaryBlocks (ahead ++ [e]) ≤ 32768

/-- A request may be granted (R134): it conflicts with nothing held and with no request before it that is still queued. The parts
of one command do not count against one another. -/
def partGrantable (s : State) (e : Nat × Tenure) : Bool :=
  insideDirectory s e && s.ten.all fun f =>
    f.1 == e.1 || (e.2.cmd.isSome && f.2.cmd == e.2.cmd) || !(f.2.conflicts e.2) || (f.2.st == 0 && !orderedBefore f e)

/-- The parts of a request: its own entry, or every entry of the command (R143). -/
def requestParts (s : State) (e : Nat × Tenure) : List (Nat × Tenure) :=
  match e.2.cmd with
  | none => [e]
  | some c => s.ten.filter fun f => f.2.cmd == some c && f.2.st == 0
/-- The whole request may be granted. -/
def grantable (s : State) (e : Nat × Tenure) : Bool := (requestParts s e).all (partGrantable s)

/-! ### Held stores -/

/-- Writes a result outside its instruction, a pair for 64-bit formats. -/
def wakeDstFmt (s : State) (w : WKey) (l : Nat) (d : Opd) (f : Fmt) (v : Nat) : State :=
  let x := Num.fill f v
  let s := wakeDst s w l d (w32 x)
  if f.is64 then
    match d with
    | .g n => updThr s w l fun h => h.setReg (n.val + 1) (w32 (x / 2 ^ 32))
    | .k n => updWarp s w fun y => { y with k := y.k.setIfInBounds (n.val + 1) (w32 (x / 2 ^ 32)) }
    | _ => s
  else s

/-- The byte at its home for an access of a group, by a command or a thread: its own shadow, else the image. -/
def groupByte (s : State) (gid : Nat) (cmd : Option Nat) (k : Nat) : Byte :=
  match writeTenure s k with
  | some e => if e.2.heldBy gid cmd then (e.2.byte? k).getD (homeByte s k) else homeByte s k
  | none => homeByte s k

/-- The storing core sees a held store, once applied, in its L1 and its die's copy (05_consistency.md R114). -/
def heldSeen (s : State) (h : HeldStore) : State :=
  if gidOf s h.w == h.gid then h.keys.foldl (fun s k => refreshOwn s h.w.core (k / 32 * 32) 32 [k] true) (ownSees s h.w.core h.keys) else s

/-- The release and acquire halves of a held atomic, when it is applied (05_consistency.md R118, R122): its record, and, once the cores behind
the releases it reads have drained, its acquire; `k` delivers its result. A thread that is gone takes none. -/
def heldOrder (s : State) (h : HeldStore) (k : State → State) : State :=
  let line := h.keys.headD 0 / 128
  let read := releasesAt s h.w.core h.keys
  let s := if isRel h.ord && wideDie h.sc then addRecords s h.w.core line (lineSlice s line) [] (thrAt s h.w h.lane).relSeen (h.sc == .sys) else s
  if gidOf s h.w != h.gid then s
  else if isAcq h.ord && wideDie h.sc then
    k (acquire (read.foldl (fun s r => drainUpTo s r.core r.at_) s) h.w h.lane h.sc h.keys)
  else k s

/-- The acknowledgement of a held store returns, with its tag, when it is applied (05_consistency.md R111, R128). -/
def ackHeld (s : State) (h : HeldStore) : State :=
  if h.cmd.isSome || gidOf s h.w != h.gid then s
  else { s with ms.ackTag := s.ms.ackTag.put (wIdx h.w * 32 + h.lane) (s.ms.tags.getD (h.keys.headD 0 / 128) 0) }

/-- Applies a held store or atomic (R137, R140). -/
def applyHeld (s : State) (h : HeldStore) : State :=
  match h.atomic with
  | none => ackHeld (heldSeen (homeOrShadow s h.gid h.cmd s.cycle h.vc (h.keys.zip h.bytes)) h) h
  | some (op, f, v, new, d) =>
    let old := ofBytes (h.keys.map (groupByte s h.gid h.cmd))
    let s := match atomNew op f old v new with
      | some n => heldSeen (homeOrShadow s h.gid h.cmd s.cycle h.vc (h.keys.zip (toBytes h.keys.length n))) h
      | none => s
    heldOrder s h fun s =>
      updThr (wakeDstFmt s h.w h.lane d f old) h.w h.lane fun t => { t with pend := t.pend.filter fun p => p.held != some h.id }

/-- A held store takes its place among others, which stand in order of arrival. -/
def putHeld (hs : List HeldStore) (h : HeldStore) : List HeldStore :=
  hs.takeWhile (fun x => x.id < h.id) ++ h :: hs.dropWhile fun x => x.id < h.id

/-- Held stores are applied in their order of arrival, or wait under another tenure that still covers them (R138, R140). -/
def applyHeldAll (s : State) (hs : List HeldStore) : State :=
  hs.foldl (fun s h =>
    match h.keys.findSome? fun k => heldUnder s h.gid h.cmd k with
    | some e => { s with ten := s.ten.put e.1 { e.2 with held := putHeld e.2.held h } }
    | none => applyHeld s h) s

/-! ### Grants -/

/-- A path that waited goes on after its instruction; `ends` when the instruction ends a region (R224). -/
def resumeLane (s : State) (w : WKey) (l : Nat) (ends : Bool) : State :=
  let s := if ends then updGroup s (gidOf s w) fun g => { g with tainted := true } else s
  updThr s w l fun t => { t with
    st := .running, pc := t.pc + 12, rgnpc := if ends then t.pc + 12 else t.rgnpc, rgnSeq := if ends then s.nextId else t.rgnSeq }

/-- The threads of a group in a stall. -/
def stalledLanes (s : State) (gid : Nat) (k : Stall) : List (WKey × Nat) :=
  match s.groups.get? gid with
  | some g => ((groupThreads s g).filter fun e => e.2.2.st == .stall k).map fun e => (e.1, e.2.1)
  | none => []

/-- Changes a handle of a group. -/
def updHandle (s : State) (gid n : Nat) (f : Handle → Handle) : State :=
  updGroup s gid fun g => { g with handles := g.handles.put n (f (g.handles.getD n {})) }

/-- What lies behind earlier releases on a footprint drains (05_consistency.md R128). -/
def drainBehind (s : State) (core : Nat) (foot : List (Nat × Nat)) : State :=
  let rs := s.ms.releases.filter fun r => r.core != core && (inFoot foot (r.line * 128) || footMeets r.foot foot)
  rs.foldl (fun s r => drainUpTo s r.core r.at_) s

/-- R141: every other core's dirty bytes in the footprint drain and every copy is invalidated. -/
def clearFoot (s : State) (core : Nat) (foot : List (Nat × Nat)) : State :=
  foot.foldl (fun s r => recallFrom (probe s (some core) r.1 r.2) core r.1) s

/-- The acquire of a grant, for one thread (R128). -/
def grantAcquire (s : State) (w : WKey) (sc : Scope) (foot : List (Nat × Nat)) (l : Nat) : State :=
  acquire s w l sc (foot.flatMap fun r => (List.range (r.2 / 128)).map fun i => r.1 + 128 * i)

/-- The acquire of a grant to a command, on its core (R143, 05_consistency.md R122, R126, R128). -/
def cmdAcquire (s : State) (t : Tenure) : State :=
  if !wideDie t.scope then s
  else
    let d := dieOf t.core
    let ks := t.foot.flatMap fun r => (List.range (r.2 / 128)).map fun i => r.1 + 128 * i
    let read := ks.foldl (fun v k => vcMax v (s.ms.lineVc.getD (k / 128) [])) []
    let vc := (releasesAt s t.core ks).foldl (fun v r => vcMax v r.vc) read
    acquireL1 (catchUp (vcMerge s d vc) d vc (s.ms.forwards.getD d []).length) t.core

/-- Grants one entry (R137, R141). The handle's threads go on after their TENR; a command's grant is its acquire. -/
def grantEntry (s : State) (e : Nat × Tenure) : State :=
  let t := e.2
  let s := drainBehind s t.core t.foot
  let s := if t.write then clearFoot s t.core t.foot else s
  let s := { s with ten := s.ten.put e.1 { t with st := 1 } }
  let s := countSlice s t.die (t.slice ((t.foot.headD (0, 0)).1)) fun n => { n with grants := n.grants + 1 }
  if t.handle < 64 then
    let s := updHandle s t.gid t.handle fun h => { h with st := if t.write then 4 else 3, entry := some e.1 }
    (stalledLanes s t.gid (.tenr e.1)).foldl (fun s p => resumeLane (grantAcquire s p.1 t.scope t.foot p.2) p.1 p.2 true) s
  else cmdAcquire s t

/-- Grants every request of a die's directory that may be granted, in tenure order. -/
def grantAll (s : State) (die : Nat) : Nat → State
  | 0 => s
  | n + 1 =>
    let qs := s.ten.filter fun e => e.2.st == 0 && e.2.die == die && grantable s e
    match qs with
    | [] => s
    | q :: rest =>
      let first := rest.foldl (fun b e => if orderedBefore e b then e else b) q
      grantAll ((requestParts s first).foldl grantEntry s) die n

/-- TENURE_GRANT (R134): the die's directory grants what it can, in tenure order. -/
def execTenureGrant (die : Nat) (s : State) : Host.Outcome State Fault Refusal := done (grantAll s die s.ten.length)

/-! ### Releases -/

/-- The release access of TREL and THCLOSE at its scope, lazy (R128): it stands at every block of the footprint. At .sys it drains the window
bytes of the core (05_consistency.md R125). -/
def tenureRelease (s : State) (t : Tenure) : State :=
  let s := if t.scope == .sys then drainCore s t.core fun k _ => inWindow s k else s
  let s := if widePkg t.scope then vcTick s (dieOf t.core) else s
  let k := (t.foot.headD (0, 0)).1
  if wideDie t.scope then addRecords s t.core (k / 128) (t.slice k) t.foot t.seen (t.scope == .sys) else s

/-- Shadow lines that no tenure has any longer leave their ways (R138). -/
def dropShadows (s : State) (lines : List Nat) : State :=
  lines.foldl (fun s ln =>
    if s.ten.any fun e => e.2.shadow.any fun c => c.1 / 128 == ln then s else { s with ms.l2 := s.ms.l2.del (shadowKey ln) }) s

/-- A tenure ends: its shadow, and then what waited for room in it, is merged into the image, but for bytes of a block that another part of
the tenure still holds (R142), and its core's die has applied what its threads stored (05_consistency.md R114); its held stores are applied
(R138); and it is released at its scope (R137). -/
def endTenure (s : State) (e : Nat × Tenure) : State :=
  let t := e.2
  let s := { s with ten := s.ten.del e.1 }
  let s := homeOrShadow s t.gid t.cmd s.cycle (vcOf s (dieOf t.core)) t.shadow
  let s := t.wait.foldl (fun s x => homeOrShadow s t.gid t.cmd s.cycle x.2 x.1) s
  let s := ownSees s t.core (t.shadow.map Prod.fst ++ t.wait.flatMap fun x => x.1.map Prod.fst)
  tenureRelease (applyHeldAll (dropShadows s (linesOf t.shadow)) t.held) t

/-- Starts the release of a tenure: read tenure ends at once; write tenure is Releasing until its drain is acknowledged (R137). `seen` are
the releases that stand before it. -/
def releaseTenure (s : State) (id : Nat) (sc : Scope) (toBound : Bool) (seen : List (Nat × Nat)) : State :=
  match s.ten.get? id with
  | none => s
  | some t =>
    let t := { t with scope := sc, toBound := toBound, seen := seen }
    if t.write then { s with ten := s.ten.put id { t with st := 2 } } else endTenure s (id, t)

/-- The holder's dirty bytes in a footprint drain to its shadow (R137, R144). -/
def drainFoot (s : State) (t : Tenure) : State := drainCore s t.core fun k d => d.gid == t.gid && inFoot t.foot k

/-- TENURE_DRAIN_ACK (R137): the holder's core has drained the footprint of the first releasing tenure of the die; unless a drained write
still waits for spill room (R138), the tenure ends, and the releasing instruction completes. -/
def execTenureDrainAck (die : Nat) (s : State) : Host.Outcome State Fault Refusal :=
  let rs := s.ten.filter fun e => e.2.st == 2 && e.2.die == die
  match (rs.find? fun e => e.2.wait.isEmpty).or rs.head? with
  | none => done s
  | some e =>
    let s := drainFoot s e.2
    let t := ((s.ten.get? e.1)).getD e.2
    if !t.wait.isEmpty then done s
    else
    let s := endTenure s (e.1, t)
    let s := if t.handle < 64 && (s.groups.get? t.gid).isSome then
        updHandle s t.gid t.handle fun h => if t.toBound then { h with st := 1, entry := none, trans := [] } else {}
      else s
    done ((stalledLanes s t.gid (.trel e.1)).foldl (fun s p => resumeLane s p.1 p.2 true) s)

/-- The writes of a holder that wait for spill room try again, in order (R138). -/
def retryWaits (s : State) (id : Nat) : State :=
  match s.ten.get? id with
  | none => s
  | some t =>
    t.wait.foldl (fun s x => (linesOf x.1).foldl (shadowLine id x.2 x.1) s) { s with ten := s.ten.put id { t with wait := [] } }

/-- A die's spill region is awaited by a held store or by a holder's write (R138). -/
def spillAwaited (s : State) (die : Nat) : Bool :=
  s.ten.any fun e => (e.2.held.any fun h => !h.spilled && homeDie (h.keys.headD 0) == die) || (e.2.die == die && !e.2.wait.isEmpty)

/-- SPILL_RETRY (R138): held stores and holders' writes that waited for spill room take it. -/
def execSpillRetry (die : Nat) (s : State) : Host.Outcome State Fault Refusal :=
  let s := ((s.ten.filter fun e => e.2.die == die && !e.2.wait.isEmpty).map (·.1)).foldl retryWaits s
  let room := (s.spillSize.getD die 0).toNat - spillUsed s die
  let waiting := (s.ten.flatMap fun e => e.2.held.filter fun h => !h.spilled && homeDie (h.keys.headD 0) == die).map (·.id)
  let go := waiting.take room
  let s := { s with ten := s.ten.map fun e => (e.1, { e.2 with held := e.2.held.map fun h => if go.contains h.id then { h with spilled := true } else h }) }
  done (if go.length < waiting.length then { s with spillFull := s.spillFull.setIfInBounds die true } else s)

/-- The tenure of one handle is released at .pkg, with its drain. -/
def closeTenure (s : State) (id : Nat) : State :=
  match s.ten.get? id with
  | none => s
  | some t =>
    if t.st = 0 then s
    else
      let s := if t.write then drainFoot s t else s
      endTenure s (id, { (s.ten.get? id).getD t with scope := .pkg })

/-- Every handle of a group is closed as by THCLOSE at .pkg, one after another in handle order (R144). -/
def closeHandles (s : State) (gid : Nat) : State :=
  let hs := ((s.groups.get? gid).map (·.handles)).getD []
  let s := hs.foldl (fun s h => match h.2.entry with | some id => closeTenure s id | none => s) s
  -- a request still queued is withdrawn with its handle
  { s with ten := s.ten.filter fun e => !(e.2.gid == gid && e.2.st == 0 && e.2.cmd.isNone) }

/-! ### Handles -/

/-- The handle that an operand names. -/
def handleNo (o : Opd) : Nat := match o with | .h n => n.val | _ => 0
/-- A handle of the executing group. -/
def handleOf (s : State) (w : WKey) (n : Nat) : Handle := (grp s w).handles.getD n {}

/-- The binding of a handle, as an entry (R131). -/
def Handle.tensor (h : Handle) : Tensor :=
  let f := fun (a : Nat) (w lo : Nat) => a % 2 ^ w * 2 ^ lo
  BitVec.ofNat 1024 (
    f h.base.toNat 57 0 + f h.ext.length 3 57 + f h.fmt.code 4 60 +
    (List.range h.ext.length).foldl (fun a d => a + f (h.ext.getD d 0) 32 (64 + 32 * d) + (if d = 0 then 0 else f (h.str.getD d 0) 40 (184 + 40 * d))) 0)
/-- The byte ranges of a handle's region. -/
def Handle.runs (h : Handle) : List (Nat × Nat) := regionRuns h.tensor h.org h.n

/-- THOPEN (R146). -/
def execThopen (h : Hdr) (o : ThopenOps) (s : State) : Host.Outcome State Fault Refusal :=
  perPath (.thopen h o) h s fun c _ s =>
    let n := handleNo o.d
    if 2 ≤ (handleOf s c.w n).st then .trap 0x0C3 0
    else
      let g := grp s c.w
      let s := tidCheck s g.ctx o.tx.toNat
      let e := tidEntry s g.ctx o.tx.toNat
      let first := fun (o : Opd) => match o with | .k n => n.val | _ => 0
      let ka := first o.a
      let kb := first o.b
      let k := fun (i : Nat) => (((warpAt s c.w).getD {}).kreg i).toNat
      let dims := List.range e.rank
      if e.empty || 63 < ka + e.rank - 1 || 63 < kb + e.rank - 1 then .trap 0x0C1 0
      else if dims.any fun d => k (kb + d) == 0 || e.ext d < k (ka + d) + k (kb + d) then .trap 0x0C1 0
      else
        .ok (updHandle s (gidOf s c.w) n fun _ =>
          { st := 1, fmt := e.fmt, base := w64 e.base, ext := dims.map e.ext, str := dims.map fun d => if d = 0 then 0 else e.str d
            org := dims.map fun d => k (ka + d), n := dims.map fun d => k (kb + d) })

/-- The tiled pages among some, by first byte, length and tile size. -/
def tiledPages (ps : List Page) : List (Nat × Nat × Nat) := (ps.filter (·.tiled)).map fun p => (p.pa, p.size, p.ts)

/-- The footprint of a handle (R132): its translation, its blocks and its tiled pages, or the first failure: of translation, or 0C4h. -/
def footprint (s : State) (c : Cursor) (h : Handle) :
    State × Except (Nat × W64) (List (Nat × Nat × Nat) × List (Nat × Nat) × List (Nat × Nat × Nat)) :=
  match translateRuns s (some c.w.core) (dieOf c.w.core) (grp s c.w).ctx c.user h.runs with
  | (s, .error e) => (s, .error e)
  | (s, .ok ps) =>
    let runs := ps.map fun p => (p.va, p.size, p.pa)
    let bs := blocksOf runs h.runs
    let bad := (ps.any fun p => !p.c || p.host || p.sc) || 4096 < bs.length ||
      bs.any fun b => homeDie b.1 != homeDie (bs.headD (0, 0)).1
    (s, if bad then .error (0x0C4, 0) else .ok (runs, bs, tiledPages ps))

/-- TENR.try was granted this in the present cycle, and a request stands before it in tenure order (R134). -/
def yields (s : State) (me e : Nat × Tenure) : Bool := (e.2.tryBy.map (·.1)) == some s.cycle && orderedBefore me e

/-- A TENR.try gives its grant up to a request of the same cycle that stands before it: it answers false, with no effect (R134, R135). -/
def retractTry (s : State) (e : Nat × Tenure) : State :=
  match e.2.tryBy with
  | none => s
  | some (_, w, lanes, d) =>
    let s := updHandle (endTenure s (e.1, { e.2 with scope := .core })) e.2.gid e.2.handle fun h => { h with st := 1, entry := none, trans := [] }
    match d with
    | .p n => (lanesOf lanes).foldl (fun s l => updThr s w l fun h => h.setPred n.val false) s
    | _ => s

/-- A request enters the directory: grants that TENR.try was given in this cycle against its order are retracted. DESIGN CHOICE (log 77). -/
def enterTenure (s : State) (me : Nat × Tenure) : State :=
  (s.ten.filter fun e => yields s me e && e.2.conflicts me.2).foldl retractTry s

/-- What keeps TENR.try from its grant (R134, R135): a conflict with what is held, or with a queued request before it. -/
def tryBarred (s : State) (me : Nat × Tenure) : Bool :=
  (s.ten.any fun e => e.2.conflicts me.2 && !yields s me e && (e.2.st != 0 || orderedBefore e me)) || !insideDirectory s me

/-- TENR (R146): the request joins the directory in tenure order; .try is granted now or never. -/
def execTenr (h : Hdr) (o : TenrOps) (s : State) : Host.Outcome State Fault Refusal :=
  perPath (.tenr h o) h s fun c act s =>
    let n := handleNo o.a
    let hd := handleOf s c.w n
    if hd.st = 0 then .trap 0x0C0 0
    else if hd.st ≠ 1 then .trap 0x0C3 0
    else
      match footprint s c hd with
      | (_, .error e) => .trap e.1 e.2
      | (s, .ok (runs, foot, tiled)) =>
        let gid := gidOf s c.w
        let t : Tenure :=
          { gid := gid, handle := n, write := o.w, st := 0, foot := foot, order := tenureOrder s true c.w (homeDie (foot.headD (0, 0)).1)
            scope := o.sc, core := c.w.core, tiled := tiled }
        let mine := { t with tryBy := some (s.cycle, c.w, maskOf act.contains, o.d) }
        if s.ten.any fun e => e.2.gid == gid && e.2.cmd.isNone && e.2.conflicts t then .trap 0x0C5 0
        else
          let id := s.nextId
          let put := fun (s : State) (t : Tenure) =>
            updHandle { s with nextId := id + 1, ten := s.ten.put id t } gid n fun h => { h with trans := runs }
          if o.tr then
            let ok := !tryBarred s (id, t)
            let s := if ok then act.foldl (fun s l => grantAcquire s c.w o.sc foot l) (grantEntry (put (enterTenure s (id, t)) mine) (id, mine)) else s
            .ok (act.foldl (fun s l => dstP s c l o.d 0 ok) s)
          else
            .wait (.stall (.tenr id)) (updHandle (put (enterTenure s (id, t)) t) gid n fun h => { h with st := 2, entry := some id })

/-- What happens before a release by a path (05_consistency.md R115, R122): its threads' clocks enter the die's, and the releases that they may
have read stand behind it. -/
def releasePath (s : State) (w : WKey) (ls : List Nat) : State × List (Nat × Nat) :=
  (ls.foldl (fun s l => vcMerge s (dieOf w.core) (thrAt s w l).readVC) s, (ls.flatMap fun l => (thrAt s w l).relSeen).eraseDups)

/-- TREL and THCLOSE (R146): read tenure is released at once; for write tenure the path waits until the release has been performed.
DESIGN CHOICE (log 53): a handle whose write tenure is releasing reads as Write, so another warp's TREL, THCLOSE or TSPLIT acts on it again,
and the last scope and final state stand. -/
def releaseHandle (close : Bool) (sc : Scope) (a : Opd) (c : Cursor) (s : State) : LRes :=
  let n := handleNo a
  let gid := gidOf s c.w
  let hd := handleOf s c.w n
  if hd.st = 0 then .trap 0x0C0 0
  else if hd.st = 2 then .trap 0x0C3 0
  else if !close && hd.st = 1 then .trap 0x0C2 0
  else
    let r := releasePath s c.w (lanesOf c.lanes)
    match hd.st, hd.entry with
    | 4, some id => .wait (.stall (.trel id)) (releaseTenure r.1 id sc (!close) r.2)
    | 3, some id =>
      let s := releaseTenure r.1 id sc (!close) r.2
      .ok (updHandle s gid n fun h => if close then {} else { h with st := 1, entry := none, trans := [] })
    | _, _ => .ok (updHandle s gid n fun h => if close then {} else h)

/-- TREL (R146). -/
def execTrel (h : Hdr) (sc : Scope) (a : Opd) (s : State) : Host.Outcome State Fault Refusal :=
  perPath (.trel h sc a) h s fun c _ s => releaseHandle false sc a c s
/-- THCLOSE (R146). -/
def execThclose (h : Hdr) (sc : Scope) (a : Opd) (s : State) : Host.Outcome State Fault Refusal :=
  perPath (.thclose h sc a) h s fun c _ s => releaseHandle true sc a c s

/-- The two parts of a split (R142): the directory entry becomes two. A held store goes with the part that has any of its bytes, the source's
first. -/
def splitTenure (s : State) (gid src dst d k : Nat) : State :=
  match (s.groups.get? gid).map (·.handles.getD src {}) with
  | none => s
  | some h =>
    let ha := { h with split := true, n := h.n.set d k }
    let hb := { h with split := true, n := h.n.set d (h.n.getD d 0 - k), org := h.org.set d (h.org.getD d 0 + k), entry := some s.nextId }
    let s' := updHandle (updHandle s gid src fun _ => ha) gid dst fun _ => hb
    match h.entry.bind fun id => (s.ten.get? id).map fun t => (id, t) with
    | none => s'
    | some (id, t) =>
      let part := fun (x : Handle) => (blocksOf h.trans x.runs).filter fun b => t.foot.contains b
      let fa := part ha
      let fb := part hb
      let mine := fun (h : HeldStore) => h.keys.any fun k => inFoot fa k
      let cut := fun (own : Bool) =>
        (t.wait.map fun x => (x.1.filter fun c => inFoot fa c.1 == own, x.2)).filter fun x => !x.1.isEmpty
      let ta := { t with foot := fa, shadow := t.shadow.filter (fun c => inFoot fa c.1), held := t.held.filter mine, wait := cut true }
      let tb := { t with
        foot := fb, shadow := t.shadow.filter (fun c => !inFoot fa c.1), held := t.held.filter (fun h => !mine h), wait := cut false
        handle := dst }
      { s' with nextId := s.nextId + 1, ten := (s.ten.put id ta).put s.nextId tb }

/-- TSPLIT (R146). -/
def execTsplit (h : Hdr) (o : TsplitOps) (s : State) : Host.Outcome State Fault Refusal :=
  perPath (.tsplit h o) h s fun c _ s =>
    let src := handleNo o.a
    let dst := handleNo o.d
    let hd := handleOf s c.w src
    let d := o.dim.toNat
    let k := match o.b with | .k n => (((warpAt s c.w).getD {}).kreg n.val).toNat | _ => 0
    if hd.st = 0 then .trap 0x0C0 0
    else if hd.st ≠ 4 then .trap 0x0C2 0
    else if (handleOf s c.w dst).st ≠ 0 || dst == src then .trap 0x0C3 0
    else if hd.ext.length ≤ d || k = 0 || hd.n.getD d 0 ≤ k then .trap 0x0C7 0
    else .ok (splitTenure s (gidOf s c.w) src dst d k)

/-- The status word of TTEST (Table 6.2). -/
def handleStatus (s : State) (h : Handle) : Nat :=
  let queued := match h.entry.bind fun id => s.ten.get? id with
    | some t =>
      -- the parts of one command's request are one request (R143)
      let behind := s.ten.filter fun e => e.2.st == 0 && e.2.conflicts t
      let requests := (behind.map fun e => match e.2.cmd with | some c => (0, c) | none => (1, e.1)).eraseDups
      if h.st = 3 ∨ h.st = 4 then min 255 requests.length else 0
    | none => 0
  h.st + (if h.split then 8 else 0) + 256 * queued + 65536 * (if h.st = 0 then 0 else h.ext.length)

/-- TTEST (R146). -/
def execTtest (h : Hdr) (d a : Opd) (s : State) : Host.Outcome State Fault Refusal :=
  perLane (.ttest h d a) h s fun c s l => .ok (dst s c l d false (handleStatus s (handleOf s c.w (handleNo a))))

end Sys2Proof.Machine
end

