-- ==== Sys2Proof/Machine/Agents.lean ====
section
/-! DEFINITION. The accesses that the device makes for a group, to carry out its commands (06_tile_tenure.md R140, 08_tensor_engines.md
R183, 18_reference_m_s.md R379): engines, copies, collectives and tile tasks. -/
namespace Sys2Proof.Machine

/-- For whom an access is made: the core whose TLB serves it, the die, the context, the group, the mode, the command and its hint. -/
structure Agent where
  core : Option Nat
  die : Nat
  ctx : Nat
  gid : Nat
  user : Bool
  cmd : Nat
  hint : BitVec 2 := plainHint

/-- Translations by 64 KiB page number. -/
abbrev PageMap := List (Nat × Except Nat Page)

/-- Translates the pages of some addresses, each page once (04_memory_hierarchy.md R93). -/
def Agent.pages (a : Agent) (s : State) (vas : List Nat) : State × PageMap :=
  (vas.foldl (fun (ps : List Nat) va => if ps.contains (va / 65536) then ps else ps ++ [va / 65536]) []).foldl
    (fun (acc : State × PageMap) n =>
      if tooHigh (n * 65536) then (acc.1, acc.2 ++ [(n, .error 0x061)])
      else
        let r := translate acc.1 a.core a.die a.ctx (n * 65536)
        (r.1, acc.2 ++ [(n, r.2)])) (s, [])

/-- The page of an address. -/
def PageMap.at (ps : PageMap) (va : Nat) : Except Nat Page := ((ps.find? fun e => e.1 == va / 65536).map (·.2)).getD (.error 0x060)
/-- The key of an address; 0 where there is no translation. -/
def PageMap.key (ps : PageMap) (va : Nat) : Nat := match ps.at va with | .ok p => p.key va | .error _ => 0

/-- The first failing check of an access to one byte, in the order of R352, and then the soft error of its home line (11_traps_and_preemption.md
R218, R229). DESIGN CHOICE (log 78): a command's write to a damaged line meets the code too; R229 speaks of reads, and of a store that covers
the line. -/
def Agent.code (a : Agent) (s : State) (ps : PageMap) (store : Bool) (va : Nat) : Option Nat :=
  match ps.at va with
  | .error c => some c
  | .ok p =>
    if a.user && !p.u then some 0x081
    else if store && !p.w then some 0x080
    else if store && readOnly s a.gid (p.key va) then some 0x0C6
    else homeHurt s (p.key va / 128)

/-- The failure at the lowest address of some reads and writes: address and code (R183). -/
def Agent.failure (a : Agent) (s : State) (ps : PageMap) (rds wrs : List Nat) : Option (Nat × Nat) :=
  let lower := fun (store : Bool) (b : Option (Nat × Nat)) (va : Nat) =>
    match a.code s ps store va, b with
    | none, b => b
    | some c, none => some (va, c)
    | some c, some (v, d) => if va < v then some (va, c) else some (v, d)
  wrs.foldl (lower true) (rds.foldl (lower false) none)

/-- The byte at its home, as the group sees it. -/
def Agent.byte (a : Agent) (s : State) (ps : PageMap) (va : Nat) : Byte := groupByte s a.gid (some a.cmd) (ps.key va)

/-- The lines of some addresses, each with its page and one key. -/
def PageMap.lines (ps : PageMap) (vas : List Nat) : List (Nat × Page) :=
  vas.foldl (fun (ls : List (Nat × Page)) va =>
    match ps.at va with
    | .ok p => if ls.any (fun e => e.1 / 128 == p.key va / 128) then ls else ls ++ [(p.key va, p)]
    | .error _ => ls) []

/-- Brings the lines of an access to their homes: other cores give up ownership and the L2 takes the line (05_consistency.md R123); what is read of
the host is asked for (13_host_and_system.md R257). -/
def Agent.touch (a : Agent) (s : State) (ps : PageMap) (vas : List Nat) (store : Bool) : State :=
  let asked := s.hostReqs.length
  let s := (ps.lines vas).foldl (fun s e => homeTouch (recallFrom s 512 e.1) e.2 e.1 a.hint store) s
  cmdAsks (if store then s else hostAsks s (vas.map ps.key)) asked a.cmd

/-- Reads of a command at their homes. -/
def Agent.read (a : Agent) (s : State) (ps : PageMap) (vas : List Nat) : State × List Byte :=
  let s := a.touch s ps vas false
  (s, vas.map (a.byte s ps))

/-- Writes cells for a group: under another group's tenure they are held, one held store for each line (06_tile_tenure.md R138, R140). -/
def writeFor (s : State) (die gid cmd : Nat) (cs : List Host.Cell) : State :=
  let under := fun (c : Host.Cell) => (heldUnder s gid (some cmd) c.1).map fun e => (e.1, c.1 / 128)
  let ids := (cs.filterMap under).eraseDups
  let w : WKey := { core := 0, quad := 0, slot := 0 }
  let s' := ids.foldl (fun (s : State) id =>
    let mine := cs.filter fun c => under c == some id
    match s.ten.get? id.1 with
    | none => s
    | some t =>
      let room := spillUsed s t.die < (s.spillSize.getD t.die 0).toNat
      let h : HeldStore :=
        { id := s.nextId, w := w, lane := 32, gid := gid, keys := mine.map (·.1), bytes := mine.map (·.2), vc := vcOf s die
          spilled := room, at_ := s.cycle, cmd := some cmd }
      { s with
        nextId := s.nextId + 1, ten := s.ten.put id.1 { t with held := t.held ++ [h] }
        spillFull := if room then s.spillFull else s.spillFull.setIfInBounds t.die true }) s
  homeOrShadow s' gid (some cmd) s.cycle (vcOf s die) (cs.filter fun c => (under c).isNone)

/-- Writes bytes of a command at their homes. -/
def Agent.write (a : Agent) (s : State) (ps : PageMap) (cs : List (Nat × Byte)) : State :=
  let asked := s.hostReqs.length
  cmdAsks (writeFor (a.touch s ps (cs.map (·.1)) true) a.die a.gid a.cmd (cs.map fun c => (ps.key c.1, c.2))) asked a.cmd

/-- One access to n bytes at an address: the bytes' addresses. -/
def span (va n : Nat) : List Nat := (List.range n).map fun i => va + i

/-- A store for a group that either succeeds whole or fails with a code. -/
def Agent.storeAt (a : Agent) (s : State) (va : Nat) (bs : List Byte) : State × Option Nat :=
  let r := a.pages s (span va bs.length)
  match a.failure r.1 r.2 [] (span va bs.length) with
  | some e => (r.1, some e.2)
  | none => (a.write r.1 r.2 ((span va bs.length).zip bs), none)

/-! ### Implicit tenure (06_tile_tenure.md R143) -/

/-- One tile of a command: its entry, origin, extents and whether it is written. -/
structure Tile where
  t : Tensor
  org : List Nat
  n : List Nat
  write : Bool

/-- The tile clipped to the tensor's extents (19_reference_t_z.md R392). -/
def Tile.clip (x : Tile) : List Nat := (List.range x.n.length).map fun d => min (x.n.getD d 0) (x.t.ext d - x.org.getD d 0)
/-- The byte ranges of the clipped tile. -/
def Tile.runs (x : Tile) : List (Nat × Nat) := if x.clip.any (· == 0) then [] else regionRuns x.t x.org x.clip

/-- The 512-byte blocks of a tile that have a translation, and the tiled pages among them. -/
def Agent.blocks (a : Agent) (s : State) (x : Tile) : State × List Nat × List (Nat × Nat × Nat) :=
  let starts := x.runs.flatMap fun r =>
    (List.range ((r.1 + r.2 - 1) / 512 + 1 - r.1 / 512)).map fun i => max r.1 ((r.1 / 512 + i) * 512)
  let r := a.pages s starts
  (r.1, (starts.filterMap fun va => match r.2.at va with | .ok p => some (p.key va / 512 * 512) | .error _ => none).eraseDups,
    tiledPages (r.2.filterMap fun e => match e.2 with | .ok p => some p | .error _ => none))

/-- The group holds read-only tenure of a tile that the command writes (0C8h). -/
def Agent.readHeld (a : Agent) (s : State) (tiles : List Tile) : Bool :=
  tiles.any fun x => x.write && (a.blocks s x).2.1.any fun b => readOnly s a.gid b

/-- The parts of a command's request: for each tile and home die, the blocks that the group does not hold in a covering mode. -/
def Agent.request (a : Agent) (s : State) (sc : Scope) (w : WKey) (tiles : List Tile) : State :=
  tiles.foldl (fun s x =>
    let r := a.blocks s x
    let held := fun (b : Nat) => r.1.ten.any fun e =>
      e.2.heldBy a.gid (some a.cmd) && e.2.st == 1 && (e.2.write || !x.write) && inFoot e.2.foot b
    let need := r.2.1.filter fun b => !held b
    ((need.map homeDie).eraseDups).foldl (fun (s : State) d =>
      let t : Tenure :=
        { gid := a.gid, handle := 64, write := x.write, st := 0, foot := (need.filter fun b => homeDie b == d).map fun b => (b, 512)
          order := tenureOrder s false w d, scope := sc, core := a.core.getD (a.die * 64), cmd := some a.cmd, tiled := r.2.2 }
      let s := enterTenure s (s.nextId, t)
      { s with nextId := s.nextId + 1, ten := s.ten.put s.nextId t }) r.1) s

/-- Every part of a command's request has been granted. -/
def tenured (s : State) (cmd : Nat) : Bool := s.ten.all fun e => e.2.cmd != some cmd || e.2.st != 0

/-- A command's implicit tenure is released (R143, R144). -/
def releaseCmd (s : State) (cmd : Nat) (sc : Scope) : State :=
  let mine := s.ten.filter fun e => e.2.cmd == some cmd
  mine.foldl (fun s e =>
    match s.ten.get? e.1 with
    | none => s
    | some t => if t.st = 0 then { s with ten := s.ten.del e.1 } else endTenure s (e.1, { t with scope := sc })) s

/-- A write of the command is still held under another tenure. -/
def cmdHeld (s : State) (cmd : Nat) : Bool := s.ten.any fun e => e.2.held.any fun h => h.cmd == some cmd

/-- A command's release at its scope (05_consistency.md R126). -/
def cmdRelease (s : State) (die : Nat) (rel : Bool) (sc : Scope) : State := if rel && widePkg sc then vcTick s die else s

/-- What observing a command's completion does for a thread (R126): an acquire of what the die has applied. -/
def observe (s : State) (w : WKey) (l : Nat) : State :=
  let s := updThr s w l fun t => { t with readVC := vcMax t.readVC (vcOf s (dieOf w.core)) }
  acquire s w l .pkg []

end Sys2Proof.Machine
end

