-- ==== Sys2Proof/Machine/Engine.lean ====
section
/-! DEFINITION. The matrix engine (08_tensor_engines.md R172 to R188, 19_reference_t_z.md R389 to R392): the checks of a command, its
steps, and ENGINE_STEP. -/
namespace Sys2Proof.Machine

/-! ### Engines -/

/-- The engine of a core. -/
def engineOf (s : State) (core : Nat) : Engine := s.engines.getD core {}
/-- Changes the engine of a core. -/
def updEngine (s : State) (core : Nat) (f : Engine → Engine) : State := { s with engines := s.engines.put core (f (engineOf s core)) }
/-- Changes the head command. -/
def updHead (s : State) (core : Nat) (f : ECmd → ECmd) : State :=
  updEngine s core fun e => { e with queue := match e.queue with | x :: xs => f x :: xs | [] => [] }
/-- Neither reserved nor running or granted a task (R175). -/
def engineFree (s : State) (core : Nat) : Bool := (engineOf s core).owner.isNone && (engineOf s core).queue.isEmpty
/-- Every accumulator is +0 again, and the engine is free (R175). DESIGN CHOICE (log 55): s.rprog reads 0 from here until the next tile
instruction issues; Table 8.4 does not say that the last instruction outlives its reservation. -/
def freeEngine (s : State) (core : Nat) : State :=
  let s := { s with ms.damage := s.ms.damage.filter fun d => match d with | .acc c n => !(c == core && n < 4) | _ => true }
  updEngine s core fun _ => {}

/-- For whom a command accesses memory. -/
def ECmd.agent (x : ECmd) (core : Nat) : Agent :=
  { core := some core, die := dieOf core, ctx := x.ctx, gid := x.gid, user := x.user, cmd := x.id, hint := x.hint }

/-! ### Accumulators -/

/-- n elements from index i on of a sparse tile. -/
def dense : Nat → Nat → Tab W32 → List Nat
  | 0, _, _ => []
  | n + 1, i, [] => 0 :: dense n (i + 1) []
  | n + 1, i, (j, x) :: t => if j = i then x.toNat :: dense n (i + 1) t else 0 :: dense n (i + 1) ((j, x) :: t)
/-- The elements other than +0, from index i on. -/
def sparse : Nat → List Nat → Tab W32
  | _, [] => []
  | i, x :: xs => if x = 0 then sparse (i + 1) xs else (i, w32 x) :: sparse (i + 1) xs
/-- The 16,384 elements of an accumulator, element (m, n) at 128 m + n. -/
def Engine.tile (e : Engine) (a : Nat) : List Nat := dense 16384 0 (e.acc.getD a [])
/-- Sets an accumulator. -/
def setAcc (s : State) (core a : Nat) (t : Tab W32) : State :=
  updEngine s core fun e => { e with acc := e.acc.setIfInBounds a t }
/-- Sets one row of an accumulator. -/
def setRow (s : State) (core a m : Nat) (row : List Nat) : State :=
  let t := (engineOf s core).acc.getD a []
  setAcc s core a ((t.filter fun p => p.1 < 128 * m) ++ sparse (128 * m) row ++ (t.filter fun p => 128 * m + 128 ≤ p.1))
/-- One row of an accumulator. -/
def rowOf (s : State) (core a m : Nat) : List Nat :=
  dense 128 (128 * m) (((engineOf s core).acc.getD a []).filter fun p => 128 * m ≤ p.1)

/-! ### Checks at issue (R178, 19_reference_t_z.md R390) -/

/-- E4M3 or E5M2. -/
def isFp8 (f : Fmt) : Bool := f == .e4m3 || f == .e5m2
/-- A weight format. -/
def isWeight (f : Fmt) : Bool := f == .q4 || f == .q3 || f == .q8
/-- The pairings of R161, in one order. -/
def pairs1 (a b : Fmt) : Bool :=
  (isFp8 a && (isFp8 b || isWeight b)) || (a == .bf16 && (b == .bf16 || isWeight b)) || (a == .f16 && b == .f16)
/-- The pairings of R161. -/
def pairOk (a b : Fmt) : Bool := pairs1 a b || pairs1 b a
/-- The command multiplies. -/
def ECmd.mma (x : ECmd) : Bool := x.op == 1 || x.op == 6
/-- The entries a command names. -/
def ECmd.named (x : ECmd) : List Tensor :=
  match x.op with
  | 1 => [x.a, x.b] | 2 => [x.a] | 3 => [x.d] | 5 => [x.a, x.d] | 6 => [x.a, x.b, x.d] | _ => []
/-- A range leaves the tensor under policy trap (R169). -/
def rangeTraps (t : Tensor) (i0 n0 i1 n1 : Nat) : Bool := t.oor == 1 && (t.ext 0 < i0 + n0 || t.ext 1 < i1 + n1)
/-- An FP32 source or target of the accumulators (R178). -/
def accSource (t : Tensor) : Bool := !(Tensor.fmt t).isFloat || Tensor.scfmt t != 0

/-- The first code of R178 and check 5 of R390. -/
def ECmd.check (x : ECmd) : Option Nat :=
  let load := x.op == 2 || (x.op == 6 && x.ldc)
  let lsrc : Tensor := if x.op = 6 then x.d else x.a
  if x.named.any Tensor.empty then some 0x101
  else if (x.named.any fun t => Tensor.rank t != 2) || (x.mma && (x.k0 % 32 != 0 || x.klen == 0 || 4096 < x.klen)) then some 0x102
  else if x.mma && !pairOk (Tensor.fmt x.a) (Tensor.fmt x.b) then some 0x041
  else if (load && accSource lsrc) || (x.op == 3 && !x.fmt.isFloat) || (x.op == 6 && !(Tensor.fmt x.d).isFloat) ||
      (x.op == 5 && (!(Tensor.fmt x.d).isFloat || (!(Tensor.fmt x.a).isFloat && !isWeight (Tensor.fmt x.a)))) then some 0x040
  else if (x.mma && (rangeTraps x.a x.k0 x.klen x.m0 128 || rangeTraps x.b x.k0 x.klen x.n0 128)) ||
      ((x.op == 2 || x.op == 5) && rangeTraps x.a x.n0 128 x.m0 128) || ((x.op == 3 || x.op == 6) && rangeTraps x.d x.n0 128 x.m0 128) ||
      (x.op == 5 && rangeTraps x.d x.n1 128 x.m1 128) then some 0x103
  else if (x.op == 3 && x.fmt != Tensor.fmt x.d) || ((x.op == 3 || x.op == 5 || x.op == 6) && Tensor.scfmt x.d != 0) then some 0x040
  else none

/-- The tiles of a command (R392). -/
def ECmd.tiles (x : ECmd) : List Tile :=
  let ab : List Tile := [⟨x.a, [x.k0, x.m0], [x.klen, 128], false⟩, ⟨x.b, [x.k0, x.n0], [x.klen, 128], false⟩]
  match x.op with
  | 1 => ab
  | 2 => [⟨x.a, [x.n0, x.m0], [128, 128], false⟩]
  | 3 => [⟨x.d, [x.n0, x.m0], [128, 128], true⟩]
  | 5 => [⟨x.a, [x.n0, x.m0], [128, 128], false⟩, ⟨x.d, [x.n1, x.m1], [128, 128], true⟩]
  | 6 => ab ++ [⟨x.d, [x.n0, x.m0], [128, 128], true⟩]
  | _ => []

/-- Steps of a command (R179, R184). -/
def ECmd.steps (x : ECmd) : Nat :=
  let chunks := (x.klen + 31) / 32
  match x.op with
  | 1 => chunks | 4 => 1 | 6 => (if x.ldc then 128 else 0) + chunks + 128 | _ => 128

/-! ### Steps -/

/-- What one step does. -/
inductive Phase where
  | chunk (st : Nat)
  | load (t : Tensor) (m : Nat)
  | store (f : Fmt) (m : Nat)
  | cvt (m : Nat)
  | zero

/-- Step st of a command. -/
def ECmd.phase (x : ECmd) (st : Nat) : Phase :=
  match x.op with
  | 1 => .chunk st
  | 2 => .load x.a st
  | 3 => .store x.fmt st
  | 5 => .cvt st
  | 6 =>
    let pre := if x.ldc then 128 else 0
    let chunks := (x.klen + 31) / 32
    if st < pre then .load x.d st else if st < pre + chunks then .chunk (st - pre) else .store (Tensor.fmt x.d) (st - pre - chunks)
  | _ => .zero

/-- The shortest time of a step (R179). -/
def ECmd.cycles (x : ECmd) (st : Nat) : Nat :=
  match x.phase st with
  | .chunk _ => if isFp8 (Tensor.fmt x.a) || isFp8 (Tensor.fmt x.b) then 32 else 64
  | _ => 1

/-- The indices that a row of 128 elements names. -/
def rowIdx (n0 m : Nat) : List (List Nat) := (List.range 128).map fun n => [n0 + n, m]
/-- The indices of one operand of a chunk, 128 rows or columns of the K indices in use. -/
def chunkIdx (x : ECmd) (st o : Nat) : List (List Nat) :=
  (List.range 128).flatMap fun m => (List.range (min 32 (x.klen - 32 * st))).map fun j => [x.k0 + 32 * st + j, o + m]

/-- The elements a step reads: of A or the source, and of B. -/
def stepIdx (x : ECmd) : Phase → List (Tensor × List Nat)
  | .chunk st => (chunkIdx x st x.m0).map (fun i => (x.a, i)) ++ (chunkIdx x st x.n0).map fun i => (x.b, i)
  | .load t m => (rowIdx x.n0 (x.m0 + m)).map fun i => (t, i)
  | .cvt m => (rowIdx x.n0 (x.m0 + m)).map fun i => (x.a, i)
  | _ => []

/-- The elements a step writes. -/
def stepOut (x : ECmd) : Phase → List (List Nat)
  | .store _ m => rowIdx x.n0 (x.m0 + m)
  | .cvt m => rowIdx x.n1 (x.m1 + m)
  | _ => []

/-- An element times its scale, +0 out of range (R162, R169). -/
def elemAt (rb sb : Nat → Byte) (t : Tensor) (i : List Nat) : Num.FV :=
  if Tensor.inRange t i then Tensor.expanded t i ((Tensor.span t i).map rb) ((Tensor.scaleSpan t i).map sb) else .fin false 0 0

/-- The sum of a chunk's products, rounded once (R163, R164). -/
def chunkSum (ps : List Num.FV) : Nat := Num.rne .f32 (ps.foldl Num.addFV (.fin true 0 0))

/-- One chunk applied to the accumulator (R164): rows of A and columns of B, 32 elements each. -/
def mmaChunk (acc : List Nat) (rows cols : List (List Num.FV)) : List Nat :=
  let cs := rows.flatMap fun r => cols.map fun c => chunkSum ((r.zip c).map fun p => Num.mulFV p.1 p.2)
  (acc.zip cs).map fun p => Num.fadd .f32 p.1 p.2

/-- 128 rows or columns of a chunk's operand; K indices past KLEN enter as +0 (R180). -/
def chunkRows (x : ECmd) (rb sb : Nat → Byte) (t : Tensor) (st o : Nat) : List (List Num.FV) :=
  (List.range 128).map fun m => (List.range 32).map fun j =>
    if 32 * st + j < x.klen then elemAt rb sb t [x.k0 + 32 * st + j, o + m] else .fin false 0 0

/-! ### The scale cache (R172) -/

/-- A line of scales is filled from its home; the victim has the oldest last use, ties to the lowest line. DEDUCED (log 56): the line of the
lowest address. -/
def scaleLine (e : Engine) (now line : Nat) (data : List Byte) : Engine :=
  match e.scale.get? line with
  | some d => { e with scale := e.scale.put line (d.1, now) }
  | none =>
    let v := e.scale.foldl (fun (b : Option (Nat × Nat)) x =>
      match b with
      | none => some (x.1, x.2.2)
      | some p => if x.2.2 < p.2 then some (x.1, x.2.2) else some p) none
    let t := if e.scale.length < 64 then e.scale else match v with | some p => e.scale.del p.1 | none => e.scale
    { e with scale := t.put line (data, now) }

/-- Reads the scales of a step through the scale cache. -/
def readScales (s : State) (core : Nat) (a : Agent) (ps : PageMap) (vas : List Nat) : State × (Nat → Byte) :=
  let held := (engineOf s core).scale
  let byte := fun (va : Nat) =>
    let k := ps.key va
    match Tab.get? held (k / 128) with
    | some d => d.1.getD (k % 128) 0
    | none => groupByte s a.gid (some a.cmd) k
  let ls := ps.lines vas
  let s' := { a with hint := 2 }.touch s ps vas false
  let s' := ls.foldl (fun s l =>
    let ln := l.1 / 128
    updEngine s core fun e => scaleLine e s.cycle ln ((List.range 128).map fun i => groupByte s a.gid (some a.cmd) (ln * 128 + i))) s'
  (s', byte)

/-! ### One step -/

/-- A soft error of an accumulator that a step reads (08Fh). -/
def accDamage (s : State) (core : Nat) (x : ECmd) (ph : Phase) : Bool :=
  let reads := match ph with | .chunk _ | .store _ _ => true | _ => false
  reads && s.ms.damage.contains (.acc core x.acc)

/-- The failure of a scale read (R172, R183): that of an operand's read, but where the scale cache serves it, whose soft error is 08Fh. -/
def scaleCode (s : State) (core : Nat) (a : Agent) (ps : PageMap) (va : Nat) : Option Nat :=
  let bare := { s with ms.damage := [] }
  if ((engineOf s core).scale.get? (ps.key va / 128)).isSome then
    (a.code bare ps false va).or (if s.ms.damage.contains (.acc core 4) then some 0x08F else none)
  else a.code s ps false va

/-- The failure of a step at the lowest address: of its reads, its scale reads and its writes (R183). -/
def stepFailure (s : State) (core : Nat) (a : Agent) (ps : PageMap) (rds scs wrs : List Nat) : Option (Nat × Nat) :=
  scs.foldl (fun b va =>
    match scaleCode s core a ps va, b with
    | none, b => b
    | some c, none => some (va, c)
    | some c, some (v, d) => if va < v then some (va, c) else some (v, d)) (a.failure s ps rds wrs)

/-- A step of a command on an engine, whole or not at all (R179, R183): the state, or the address and code of its failure. DESIGN CHOICE (log 23):
an accumulator's soft error has no address; a failure of the step's accesses decides before it, and it is reported at address 0. -/
def runStep (s : State) (core : Nat) (x : ECmd) : State × Option (Nat × Nat) :=
  let a := x.agent core
  let ph := x.phase x.done
  let els := (stepIdx x ph).filter fun e => Tensor.inRange e.1 e.2
  let outs := (stepOut x ph).filter fun i => Tensor.inRange x.d i
  let rds := els.flatMap fun e => Tensor.span e.1 e.2
  let scs := els.flatMap fun e => Tensor.scaleSpan e.1 e.2
  let wrs := outs.flatMap fun i => Tensor.span x.d i
  let r := a.pages s (rds ++ scs ++ wrs)
  match stepFailure r.1 core a r.2 rds scs wrs with
  | some e => (r.1, some e)
  | none =>
    if accDamage s core x ph then (r.1, some (0, 0x08F))
    else
      let rb := a.byte s r.2
      let s1 := a.touch r.1 r.2 rds false
      let sc := readScales s1 core a r.2 scs
      let s2 := sc.1
      let sb := sc.2
      let codes := fun (f : Fmt) (v : Num.FV) => Num.toFloat f x.sat v
      let out := fun (f : Fmt) (vs : List Nat) (idx : List (List Nat)) =>
        a.write s2 r.2 (((idx.zip vs).filter fun p => Tensor.inRange x.d p.1).flatMap fun p =>
          (Tensor.span x.d p.1).zip (toBytes (f.width / 8) p.2))
      match ph with
      | .chunk st =>
        let acc := mmaChunk ((engineOf s core).tile x.acc) (chunkRows x rb sb x.a st x.m0) (chunkRows x rb sb x.b st x.n0)
        (setAcc s2 core x.acc (sparse 0 acc), none)
      | .load t m =>
        (setRow s2 core x.acc m ((rowIdx x.n0 (x.m0 + m)).map fun i => Num.toFloat .f32 false (elemAt rb sb t i)), none)
      | .store f m =>
        let vs := (rowOf s core x.acc m).map fun v => if f == .f32 then v else codes f (Num.ofFloat .f32 v)
        (out f vs (rowIdx x.n0 (x.m0 + m)), none)
      | .cvt m =>
        let f := Tensor.fmt x.d
        let vs := (rowIdx x.n0 (x.m0 + m)).map fun i => codes f (elemAt rb sb x.a i)
        (out f vs (rowIdx x.n1 (x.m1 + m)), none)
      | .zero =>
        let s3 := { s2 with ms.damage := s2.ms.damage.filter (· != .acc core x.acc) }
        (setAcc s3 core x.acc [], none)

/-! ### The progress of commands -/

/-- The threads of the issuing path that are still there. -/
def cmdLanes (s : State) (x : ECmd) : List Nat :=
  if gidOf s x.w == x.gid then (lanesOf x.lanes).filter fun l => (thrAt s x.w l).st != .exited else []

/-- A completed or discarded command no longer keeps its threads' instruction incomplete (R292, R392). -/
def unpend (s : State) (x : ECmd) : State :=
  (cmdLanes s x).foldl (fun s l => updThr s x.w l fun t => { t with pend := t.pend.filter fun p => p.held != some x.id }) s

/-- s.rprog shows the head command, a tile instruction (Table 8.4). -/
def showHead (s : State) (core : Nat) : State :=
  updEngine s core fun e =>
    match e.queue with
    | x :: _ => if x.task.isSome then e else { e with done := x.done, nstep := x.nstep, op := x.op, stop := x.stopped }
    | [] => e

/-- The commands queued behind the head are discarded, and their implicit tenure is released at .core (R183, R175). -/
def discardAll (s : State) (core : Nat) : State :=
  let s := (engineOf s core).queue.foldl (fun s x => unpend (releaseCmd s x.id .core) x) s
  updEngine s core fun e => { e with queue := [] }

/-- The address of a task's spill slot (Table 8.2). -/
def spillSlot (s : State) (die idx : Nat) : Nat := (s.tkspill.getD die 0).toNat + 65536 * idx

/-- The task table of a die. -/
def taskTab (s : State) (die : Nat) : Tab Task := s.tasks.getD die []
/-- Changes the task table of a die. -/
def setTasks (s : State) (die : Nat) (f : Tab Task → Tab Task) : State := { s with tasks := s.tasks.setIfInBounds die (f (taskTab s die)) }

/-- A task's field (Table 8.5). -/
def Task.f (t : Task) (hi lo : Nat) : Nat := bits t.rcd hi lo
/-- The TILE record of a task (R185). -/
def tileRecord (prio idx : Nat) : Rcd := Rcd.make 0 idx 0 2 prio 8 0 false 0

/-- A task completes, or fails with a code (R187): its implicit tenure is released, COMP is stored, and it counts as completed. DESIGN CHOICE
(log 57): a store of COMP that itself fails writes nothing, and the task completes all the same. -/
def finishTask (s : State) (die idx code : Nat) : State :=
  match (taskTab s die).get? idx with
  | none => s
  | some t =>
    let id := (t.cmd.map (·.id)).getD 0
    let s := if isSoft code then markSoft s else s
    let rel := t.f 11 11 == 1
    let sc := (Scope.ofCode (BitVec.ofNat 3 (t.f 15 13))).getD .pkg
    let s := if t.cmd.isSome then releaseCmd s id (if rel && code == 0 then sc else .core) else s
    let s := cmdRelease s die (rel && code == 0) sc
    let a : Agent := { core := none, die := die, ctx := t.ctx, gid := t.gid, user := t.user, cmd := id }
    let s := if t.f 319 256 = 0 then s else (a.storeAt s (t.f 319 256) (toBytes 8 (if code = 0 then 1 else 2 + 256 * code))).1
    let s := setTasks s die fun tb => tb.del idx
    if code = 0 then s
    else { s with taskFails := s.taskFails ++ [{ die := die, ctx := t.ctx, tag := t.f 31 20, seq := t.seq, code := code }] }

/-- A task leaves its engine: its accumulator goes to the spill region (R187). -/
def spillTask (s : State) (core idx : Nat) (x : ECmd) (st : Nat) : State :=
  let die := dieOf core
  let a := spillSlot s die idx
  let s := devWrite s a (((engineOf s core).tile 0).flatMap (toBytes 4))
  let s := setTasks s die fun tb => match tb.get? idx with | some t => tb.put idx { t with st := st, cmd := some x } | none => tb
  freeEngine s core

/-- The threads of a path park behind a command stopped at a recoverable fault (R183, R220): the trap registers take it outside a handler, and
a thread in a wait of its own stays in it and issues nothing more when that ends. -/
def parkBehind (s : State) (x : ECmd) (va code : Nat) : State :=
  let ls := cmdLanes s x
  let s' := ls.foldl (fun s l => updThr s x.w l fun t =>
    let t := if t.inh then t else { t with cause := BitVec.ofNat 9 code, tepc := x.pc, taddr := w64 va }
    if t.st == .running then { t with st := .engineParked x.id } else { t with parkedBy := some x.id }) s
  -- a trap like any other, for the trace (14_determinism_and_debug.md R283)
  if ls.isEmpty then s' else noteTraps s x.w x.pc (ls.map fun l => { lane := l, code := code, addr := w64 va }) s'

/-- The threads of a path that are parked behind a command go on. -/
def unpark (x : ECmd) (t : Thread) : Thread :=
  { t with
    st := if t.st == .engineParked x.id then .running else t.st
    parkedBy := if t.parkedBy == some x.id then none else t.parkedBy }

/-- A step of the head command has failed (R183, R187). -/
def stepFails (s : State) (core : Nat) (x : ECmd) (va code : Nat) : State :=
  let die := dieOf core
  let rec0 : FaultRec := { code := code, kind := 0, recov := true, addr := w64 va, ctx := x.ctx, core := core, gid := x.gid, cmd := some x.id }
  match x.task with
  | some idx =>
    if code = 0x060 ∨ code = 0x148 then postFault (spillTask s core idx { x with stopped := true } 2) die { rec0 with kind := 1, obj := idx }
    else finishTask (freeEngine s core) die idx code
  | none =>
    let ls := cmdLanes s x
    if code = 0x060 ∨ code = 0x148 then
      let s := updEngine (updHead s core fun x => { x with stopped := true }) core fun e => { e with stop := true }
      let h := thrAt s x.w (ls.headD 0)
      let s := parkBehind s x va code
      postFault s die { rec0 with
        lanes := maskOf ls.contains, ipc := x.pc, rgnpc := h.rgnpc, rgnctr := h.rgnctr, slot := x.w.slot, quad := x.w.quad, inh := h.inh }
    else
      let s := discardAll s core
      takeTraps s x.w x.pc (ls.map fun l => { lane := l, code := code, addr := w64 va })

/-- A completed tile instruction ends the region of a thread that has ended none since its issue (R176, R224). -/
def tileEnds (x : ECmd) (t : Thread) : Thread := if t.rgnSeq ≤ x.id then { t with rgnpc := x.pc + 12, rgnSeq := x.id } else t

/-- The head command has completed (R187, R392): its release, its tenure, its threads, and the next command shows in s.rprog. -/
def headDone (s : State) (core : Nat) (x : ECmd) : State :=
  match x.task with
  | some idx => finishTask (freeEngine s core) (dieOf core) idx 0
  | none =>
    let s := releaseCmd s x.id (if x.fl.rel then x.fl.sc else .core)
    let s := cmdRelease s (dieOf core) x.fl.rel x.fl.sc
    let s := unpend s x
    let s := (cmdLanes s x).foldl (fun s l => updThr s x.w l fun t =>
      unpark x (tileEnds x t)) s
    showHead (updEngine s core fun e => { e with queue := e.queue.drop 1 }) core

/-- The first step starts (R126, R172, R179): the acquire, which a granted implicit tenure makes too (06_tile_tenure.md R143), and an empty
scale cache. -/
def startHead (s : State) (core : Nat) (x : ECmd) : State :=
  let s := if x.fl.acq || x.fl.it then drainAll s x.w.core else s
  let s := updEngine s core fun e => { e with scale := [] }
  let s := { s with ms.damage := s.ms.damage.filter (· != .acc core 4) }
  let f := free s
  updHead f.2 core fun x => { x with started := true, due := s.work + x.cycles x.done + f.1 }

/-- The engine's group is being saved (R183). -/
def savingOn (s : State) (core : Nat) : Bool :=
  match (engineOf s core).owner with
  | some gid => (match (s.groups.getD gid {}).pre with | .saving _ => true | _ => false)
  | none => false

/-- A save stops the engine at a step's boundary (R183). -/
def stopForSave (s : State) (core : Nat) : State := if savingOn s core then updEngine s core fun e => { e with stop := true } else s

/-- The next step may complete now, or the command start. -/
def engineDue (s : State) (core : Nat) : Bool :=
  match (engineOf s core).queue with
  | [] => false
  | x :: _ =>
    !x.stopped && !(engineOf s core).stop && !cmdWaits s x.id && (if x.started then x.due ≤ s.work && !(x.nstep ≤ x.done && x.fl.rel && cmdHeld s x.id) else tenured s x.id)

/-- ENGINE_STEP (R179 to R183): the engine's command starts, takes a step, or completes. A task of a suspended context stops (11 R236). -/
def execEngineStep (core : Nat) (s : State) : Host.Outcome State Fault Refusal :=
  if !engineDue s core then done s
  else
    match (engineOf s core).queue with
    | [] => done s
    | x :: _ =>
      match x.task with
      | some idx =>
        if (ctxOf s x.ctx).suspended && x.done < x.nstep then
          let s := spillTask s core idx x 0
          done (pushRcd s (dieOf core) x.ctx (tileRecord (((taskTab s (dieOf core)).get? idx).map (·.f 104 102) |>.getD 0) idx) none)
        else if !x.started then done (startHead s core x)
        else if x.nstep ≤ x.done then done (headDone s core x)
        else
          match runStep s core x with
          | (s, some e) => done (stepFails s core x e.1 e.2)
          | (s, none) =>
            let f := free s
            done (updHead f.2 core fun x => { x with done := x.done + 1, due := s.work + x.cycles (x.done + 1) + f.1 })
      | none =>
        if !x.started then done (startHead s core x)
        else if x.nstep ≤ x.done then done (stopForSave (headDone s core x) core)
        else
          match runStep s core x with
          | (s, some e) => done (stepFails s core x e.1 e.2)
          | (s, none) =>
            let f := free s
            let s := showHead (updHead f.2 core fun x => { x with done := x.done + 1, due := s.work + x.cycles (x.done + 1) + f.1 }) core
            -- a save stops the engine at this boundary
            let s := stopForSave s core
            -- a command whose writes need no acknowledgement completes with its last step
            if x.done + 1 = x.nstep && !(x.fl.rel && cmdHeld s x.id) && !cmdWaits s x.id then
              done (stopForSave (headDone s core { x with done := x.done + 1 }) core)
            else done s

/-! ### Reservation (R175, 18_reference_m_s.md R359) -/

/-- MRSV (R359). -/
def execMrsv (h : Hdr) (d : Opd) (s : State) : Host.Outcome State Fault Refusal :=
  perPath (.mrsv h d) h s fun c act s =>
    let gid := gidOf s c.w
    let mine := (engineOf s c.w.core).owner == some gid
    let ok := mine || engineFree s c.w.core
    let s := if ok && !mine then updEngine s c.w.core fun _ => { owner := some gid } else s
    .ok (act.foldl (fun s l => dstP s c l d 0 ok) s)

/-- MREL (R359): it waits for the group's commands. -/
def execMrel (h : Hdr) (s : State) : Host.Outcome State Fault Refusal :=
  perPath (.mrel h) h s fun c _ s =>
    let e := engineOf s c.w.core
    if e.owner != some (gidOf s c.w) then .trap 0x106 0
    else if e.queue.isEmpty then .ok (freeEngine s c.w.core)
    else .wait (.stall (.engine .zero (e.queue.map (·.id)) true)) s

/-! ### Identifiers (R174, 19_reference_t_z.md R394) -/

/-- The entry of a thread's context. -/
def tidOf (s : State) (c : Cursor) (tx : BitVec 10) : Tensor := tidEntry s (grp s c.w).ctx tx.toNat

/-- The aligned 128-byte address of a thread: 0A0h, then the checks of a load or store (R352, R384). -/
def pairAcc (s : State) (c : Cursor) (l : Nat) (a : Opd) (size : Nat) (store : Bool) : State × Except (Nat × W64) Acc :=
  let va := src s c l a true
  if va % size != 0 then (s, .error (0x0A0, w64 va))
  else
    match virtAcc s c.w va size with
    | (s, .error e) => (s, .error e)
    | (s, .ok x) =>
      match permit x c.user store with
      | some code => (s, .error (code, x.va))
      | none =>
        if store && x.keys.any (readOnly s (gidOf s c.w)) then (s, .error (0x0C6, x.va))
        else
          match (if store then none else damageCode s c.w.core (gidOf s c.w) x) with
          | some code => (s, .error (code, x.va))
          | none => (s, .ok x)

/-- TIDSET (R394): 042h before 100h. -/
def execTidset (h : Hdr) (tx : BitVec 10) (a : Opd) (s : State) : Host.Outcome State Fault Refusal :=
  perLane (.tidset h tx a) h s fun c s l =>
    match pairAcc s c l a 128 false with
    | (_, .error e) => .trap e.1 e.2
    | (s, .ok x) =>
      let r := loadBytes s c.w l x plainHint false
      let d : Tensor := BitVec.ofNat 1024 (ofBytes r.2)
      if Tensor.scaleBad d then .trap 0x042 0
      else if Tensor.malformed d then .trap 0x100 0
      else .ok (devWrite r.1 (tidAddr s (grp s c.w).ctx tx.toNat) r.2)

/-- TIDGET (R394). -/
def execTidget (h : Hdr) (tx : BitVec 10) (a : Opd) (s : State) : Host.Outcome State Fault Refusal :=
  perLane (.tidget h tx a) h s fun c s l =>
    let s := tidCheck s (grp s c.w).ctx tx.toNat
    match pairAcc s c l a 128 true with
    | (_, .error e) => .trap e.1 e.2
    | (s, .ok x) => .ok (storeBytes s c.w l x plainHint false (toBytes 128 (tidOf s c tx).toNat))

/-- SCALEB (18_reference_m_s.md R374): 101h for an empty entry, 100h for a base that does not fit. -/
def execScaleb (h : Hdr) (tx : BitVec 10) (a : Opd) (s : State) : Host.Outcome State Fault Refusal :=
  perLane (.scaleb h tx a) h s fun c s l =>
    let s := tidCheck s (grp s c.w).ctx tx.toNat
    let va := src s c l a true
    let e := tidOf s c tx
    if Tensor.empty e then .trap 0x101 0
    else if Tensor.scfmt e = 0 ∨ va % Tensor.scaleSize (Tensor.scfmt e) ≠ 0 ∨ 2 ^ 57 ≤ va then .trap 0x100 0
    else
      let keep := e.toNat % 2 ^ 512 + e.toNat / 2 ^ 569 * 2 ^ 569
      .ok (devWrite s (tidAddr s (grp s c.w).ctx tx.toNat) (toBytes 128 (keep + va * 2 ^ 512)))

/-! ### Tile instructions -/

/-- A k register. -/
def kval (s : State) (c : Cursor) (o : Opd) (i : Nat) : Nat := (srcAt s c 0 o i).toNat
/-- The accumulator that an operand names. -/
def accNo (o : Opd) : Nat := match o with | .acc n => n.val | _ => 0

/-- The issue of a tile instruction (R390): its checks in order, then one command for the path, whose destination stands in the scoreboard
until the command completes (R292, R392). -/
def issueTile (la : BitVec 4) (dests : List Nat) (ids : List Nat) (build : State → ECmd) (c : Cursor) (act : List Nat) (s : State) : LRes :=
  let gid := gidOf s c.w
  let e := engineOf s c.w.core
  if e.owner != some gid then .trap 0x104 0
  else if maskOf act.contains != liveMask ((warpAt s c.w).getD {}) then .trap 0x105 0
  else if ids.any (1024 ≤ ·) then .trap 0x101 0
  else
    let x0 := build s
    let x : ECmd := { x0 with
      id := s.nextId, ctx := (grp s c.w).ctx, gid := gid, user := c.user, w := c.w, lanes := maskOf act.contains, pc := c.pc
      nstep := x0.steps }
    let a := x.agent c.w.core
    match x.check with
    | some code => .trap code 0
    | none =>
      if x.fl.it && a.readHeld s x.tiles then .trap 0x0C8 0
      else if 8 < e.queue.length then .wait (.stall (.reissue (.room 0))) s
      else
        let s := { s with nextId := s.nextId + 1 }
        let s := if x.fl.it then a.request s x.fl.sc c.w x.tiles else s
        let s := if x.fl.acq || x.fl.it then drainSeen s c.w act else s
        let s := updEngine s c.w.core fun e => { e with queue := e.queue ++ [x] }
        let s := if e.queue.isEmpty then showHead s c.w.core else s
        .ok (act.foldl (fun s l => updThr s c.w l fun t =>
          { t with pend := t.pend ++ [{ regs := dests, left := la.toNat, due := 0, held := some x.id }] }) s)

/-- TMMA (R389, R180). -/
def execTmma (h : Hdr) (o : TileOps) (s : State) : Host.Outcome State Fault Refusal :=
  perPath (.tmma h o) h s fun c act s =>
    let b := kval s c o.b 0
    issueTile h.la (Instr.dests (.tmma h o)) [b] (fun s =>
      { id := 0, op := 1, a := tidOf s c o.tx, b := tidEntry s (grp s c.w).ctx b, m0 := kval s c o.a 0, n0 := kval s c o.a 1
        k0 := kval s c o.a 2, klen := kval s c o.a 3, acc := accNo o.d, fl := o.fl }) c act (tidCheck s (grp s c.w).ctx o.tx.toNat)

/-- TLDACC (R389, R391). -/
def execTldacc (h : Hdr) (o : TileOps) (s : State) : Host.Outcome State Fault Refusal :=
  perPath (.tldacc h o) h s fun c act s =>
    issueTile h.la (Instr.dests (.tldacc h o)) [] (fun s =>
      { id := 0, op := 2, a := tidOf s c o.tx, m0 := kval s c o.a 0, n0 := kval s c o.a 1, acc := accNo o.d, fl := o.fl })
      c act (tidCheck s (grp s c.w).ctx o.tx.toNat)

/-- TSTACC (R389, R391). -/
def execTstacc (h : Hdr) (o : TileOps) (s : State) : Host.Outcome State Fault Refusal :=
  perPath (.tstacc h o) h s fun c act s =>
    issueTile h.la (Instr.dests (.tstacc h o)) [] (fun s =>
      { id := 0, op := 3, d := tidOf s c o.tx, m0 := kval s c o.b 0, n0 := kval s c o.b 1, acc := accNo o.a, fmt := o.fmt, sat := o.sat, fl := o.fl })
      c act (tidCheck s (grp s c.w).ctx o.tx.toNat)

/-- TZACC (R389, R391). -/
def execTzacc (h : Hdr) (d : Opd) (s : State) : Host.Outcome State Fault Refusal :=
  perPath (.tzacc h d) h s fun c act s => issueTile h.la (Instr.dests (.tzacc h d)) [] (fun _ => { id := 0, op := 4, acc := accNo d }) c act s

/-- TCVT (R389, R391). -/
def execTcvt (h : Hdr) (o : TileOps) (s : State) : Host.Outcome State Fault Refusal :=
  perPath (.tcvt h o) h s fun c act s =>
    let b := kval s c o.b 0
    issueTile h.la (Instr.dests (.tcvt h o)) [b] (fun s =>
      { id := 0, op := 5, a := tidEntry s (grp s c.w).ctx b, d := tidOf s c o.tx, m0 := kval s c o.a 0, n0 := kval s c o.a 1
        m1 := kval s c o.a 2, n1 := kval s c o.a 3, sat := o.sat, fl := o.fl }) c act (tidCheck s (grp s c.w).ctx o.tx.toNat)

/-! ### Tile tasks -/

/-- An invalid tile-task record (R185): 107h. DESIGN CHOICE (log 54): a reserved scope code is none of its causes and acts as .pkg. -/
def taskInvalid (r : BitVec 512) : Bool :=
  let f := bits r
  let op := f 7 0
  (op != 1 && op != 2) || f 19 16 != 0 || f 71 70 != 0 || f 127 105 != 0 || f 255 240 != 0 || f 511 320 != 0 ||
  ((List.range 3).any fun j => f 69 68 ≤ j && f (43 + 12 * j) (32 + 12 * j) != 0) || f 319 256 % 8 != 0

/-- A page is cacheable Scarp memory (0A9h otherwise). -/
def scarpPage (x : Acc) : Bool := match x.page with | some p => p.c && !p.host | none => false

/-- Too few entries are free for the whole path (19_reference_t_z.md R398). -/
def taskNeed (c : Cursor) (s : State) (_ : Nat) : Option (Why × State) :=
  if 2048 < (taskTab s (dieOf c.w.core)).length + (lanesOf c.lanes).length then some (.room 1, s) else none

/-- One thread's TTASK (R398). -/
def ttaskLane (d a : Opd) (c : Cursor) (s : State) (l : Nat) : LRes :=
  match pairAcc s c l a 64 false with
  | (_, .error e) => .trap e.1 e.2
  | (s, .ok x) =>
    if !scarpPage x then .trap 0x0A9 x.va
    else
      let r := loadBytes s c.w l x plainHint false
      let rec' : BitVec 512 := BitVec.ofNat 512 (ofBytes r.2)
      if taskInvalid rec' then .trap 0x107 0
      else
        let s := r.1
        let die := dieOf c.w.core
        let s := if rec'.getLsbD 10 || rec'.getLsbD 12 then drainSeen s c.w [l] else s
        -- the lowest free entry (log 79)
        let idx := (taskTab s die).freeFrom 2048 0
        let t : Task := { rcd := rec', ctx := (grp s c.w).ctx, gid := gidOf s c.w, core := c.w.core, user := c.user, seq := s.nextId }
        let s := setTasks { s with nextId := s.nextId + 1 } die fun tb => tb.put idx t
        let prio := t.f 104 102
        let s := pushRcd s die t.ctx (tileRecord prio idx) (if roomForDevice s die prio then some (pusher c.w.core l) else none)
        .ok (dst s c l d false 0)

/-- TTASK (R398). -/
def execTtask (h : Hdr) (d a : Opd) (s : State) : Host.Outcome State Fault Refusal :=
  perLaneW (.ttask h d a) h s (taskNeed) (ttaskLane d a)

/-- The tasks of a context with a tag, pushed on a die before a place in push order, that have not completed. -/
def openTasks (s : State) (die ctx tag seq : Nat) : Bool :=
  (taskTab s die).any fun e => e.2.ctx == ctx && e.2.f 31 20 == tag && e.2.seq < seq

/-- The value TWAITK returns for a tag (R188). -/
def taskStatus (s : State) (die ctx tag seq : Nat) : Nat :=
  let fs := s.taskFails.filter fun f => f.die == die && f.ctx == ctx && f.tag == tag && f.seq < seq
  match fs with
  | [] => 0
  | f :: rest => 0x200 + (rest.foldl (fun b g => if g.seq < b.seq then g else b) f).code

/-- TWAITK (R399). -/
def execTwaitk (h : Hdr) (d a : Opd) (s : State) : Host.Outcome State Fault Refusal :=
  perPath (.twaitk h d a) h s fun c act s =>
    let w := kval s c a 0
    let die := dieOf c.w.core
    let ctx := (grp s c.w).ctx
    let tag := w % 4096
    if natBits w 31 13 ≠ 0 then .trap 0x108 0
    else if natBit w 12 then
      let e := engineOf s c.w.core
      let ids := if e.owner == some (gidOf s c.w) then e.queue.map (·.id) else []
      if ids.isEmpty then .ok (act.foldl (fun s l => observe (dst s c l d false 0) c.w l) s)
      else .wait (.stall (.engine d ids false)) s
    else if openTasks s die ctx tag s.nextId then .wait (.stall (.tasks d tag s.nextId)) s
    else .ok (act.foldl (fun s l => observe (dst s c l d false (taskStatus s die ctx tag s.nextId)) c.w l) s)

/-- The inputs of a task have completed (R186). -/
def taskReady (s : State) (die idx : Nat) : Bool :=
  match (taskTab s die).get? idx with
  | none => false
  | some t => (List.range (t.f 69 68)).all fun j => !openTasks s die t.ctx (t.f (43 + 12 * j) (32 + 12 * j)) t.seq

/-- A task starts, or continues, on an engine (R186, R187): the checks of R178 when it starts, its accumulator from the spill region when
it continues. DEDUCED (log 58): a task reads the entries it names when it starts, since R185 makes the checks of those entries then. -/
def grantTask (s : State) (core idx : Nat) : State :=
  let die := dieOf core
  match (taskTab s die).get? idx with
  | none => s
  | some t =>
    match t.cmd with
    | some x =>
      let s := devCheck s (spillSlot s die idx) 65536
      let bs := devRead s (spillSlot s die idx) 65536
      let acc := (List.range 16384).map fun i => ofBytes ((bs.drop (4 * i)).take 4)
      let s := setAcc s core 0 (sparse 0 acc)
      let s := setTasks s die fun tb => tb.put idx { t with st := 1 }
      updEngine s core fun e => { e with queue := [{ x with stopped := false, started := false }] }
    | none =>
      let mma := t.f 7 0 == 1
      let s := tidCheck s t.ctx 0
      let ent := tidEntry s t.ctx
      let sc := (Scope.ofCode (BitVec.ofNat 3 (t.f 15 13))).getD .pkg
      let x : ECmd :=
        { id := s.nextId, op := if mma then 6 else 5, a := ent (t.f 81 72), b := if mma then ent (t.f 91 82) else 0, d := ent (t.f 101 92)
          m0 := t.f 159 128, n0 := t.f 191 160, k0 := t.f 223 192, klen := t.f 239 224, m1 := t.f 159 128, n1 := t.f 191 160
          ldc := t.f 8 8 == 1, sat := t.f 9 9 == 1, fl := { sc := sc, acq := t.f 10 10 == 1, rel := t.f 11 11 == 1, it := t.f 12 12 == 1 }
          ctx := t.ctx, gid := t.gid, user := t.user, w := { core := t.core, quad := 0, slot := 0 }, task := some idx }
      let x := { x with nstep := x.steps }
      let a := x.agent core
      let s := { s with nextId := s.nextId + 1 }
      match x.check with
      | some code => finishTask s die idx code
      | none =>
        if x.fl.it && a.readHeld s x.tiles then finishTask s die idx 0x0C8
        else
          let s := if x.fl.it then a.request s sc ⟨core, 0, 0⟩ x.tiles else s
          let s := setTasks s die fun tb => tb.put idx { t with st := 1, cmd := some x }
          updEngine s core fun _ => { queue := [x] }

end Sys2Proof.Machine
end

