-- ==== Sys2Proof/Machine/Copy.lean ====
section
/-! DEFINITION. Asynchronous copies and dataflow channels (09_copies_and_channels.md R190 to R202, 16_reference_a_c.md R312 to R314, R327,
R328). -/
namespace Sys2Proof.Machine

/-! ### Copy commands -/

/-- The coalescer of a core. -/
def coalOf (s : State) (core : Nat) : List CCmd := s.coal.getD core []
/-- Changes the coalescer of a core. -/
def updCoal (s : State) (core : Nat) (f : List CCmd → List CCmd) : State := { s with coal := s.coal.put core (f (coalOf s core)) }
/-- The copy table of a die. -/
def ctabOf (s : State) (die : Nat) : Tab CCmd := s.ctab.getD die []
/-- Changes the copy table of a die. -/
def updCtab (s : State) (die : Nat) (f : Tab CCmd → Tab CCmd) : State := { s with ctab := s.ctab.setIfInBounds die (f (ctabOf s die)) }
/-- Every copy command of a group that has not ended. -/
def copiesOf (s : State) (gid : Nat) : List CCmd := (allCopies s).filter fun x => x.gid == gid
/-- For whom a copy accesses memory. -/
def CCmd.agent (x : CCmd) (core : Nat) : Agent :=
  { core := some core, die := dieOf core, ctx := x.ctx, gid := x.gid, user := x.user, cmd := x.id, hint := x.hint }

/-- TL of each dimension below the rank. -/
def CCmd.tl (x : CCmd) : List Nat := (List.range (Tensor.rank x.t)).map (Tensor.tl x.t)
/-- The format of the local copy (R197). -/
def CCmd.local (x : CCmd) : Fmt := x.lfmt.getD (Tensor.fmt x.t)
/-- Elements of the tile. -/
def CCmd.elems (x : CCmd) : Nat := x.tl.foldl (· * ·) 1
/-- Bytes of the local copy. -/
def CCmd.bytes (x : CCmd) : Nat := (x.elems * x.local.width + 7) / 8
/-- Chunks of a command (R191). -/
def CCmd.chunks (x : CCmd) : Nat := if x.kind = 0 then 1 else (x.bytes + 511) / 512
/-- Bytes a chunk counts. -/
def CCmd.count (x : CCmd) (c : Nat) : Nat := if x.kind = 0 then x.size * x.reqs.length else min 512 (x.bytes - 512 * c)
/-- The chunk bit of a chunk. -/
def CCmd.bitOf (x : CCmd) (c : Nat) : Nat := if x.kind = 0 then x.bit else c

/-- The tensor index of element e of the tile, dimension 0 fastest. -/
def tileIndex : List Nat → List Nat → Nat → List Nat
  | o :: os, n :: ns, e => (o + e % n) :: tileIndex os ns (e / n)
  | _, _, _ => []
/-- The tensor index of element e. -/
def CCmd.index (x : CCmd) (e : Nat) : List Nat := tileIndex x.org x.tl e

/-- A word of a group's scratch. -/
def scrWord (s : State) (gid o : Nat) : Nat := ofBytes ((List.range 4).map fun i => ((s.groups.getD gid {}).scratch.get (o + i)))
/-- The device writes a word of a group's scratch. -/
def putWord (s : State) (gid o v : Nat) : State := scrStore s gid none (Memory.cells o (toBytes 4 v))

/-- Local bytes of the issuing group: scratch, or a vault (R196). -/
def localByte (s : State) (x : CCmd) (vlt : Bool) (o : Nat) : Byte :=
  if vlt then homeByte s (vaultKey o) else (s.groups.getD x.gid {}).scratch.get o
/-- Writes local bytes; above another cluster too in the command's own step (log 80). -/
def localWrite (s : State) (x : CCmd) (vlt : Bool) (die : Nat) (cs : List Host.Cell) : State :=
  if vlt then homeWrite (countVault s x.w.core (vaultKey (cs.headD (0, 0)).1)) (vcOf s die) (cs.map fun c => (vaultKey c.1, c.2)) else scrStore s x.gid none cs
/-- The soft error that a read of local bytes meets. -/
def localDamage (s : State) (x : CCmd) (vlt : Bool) (os : List Nat) : Option (Nat × Nat) :=
  if s.ms.damage.isEmpty then none
  else os.findSome? fun o =>
    if s.ms.damage.any fun d => match d with
      | .scratch g u _ => !vlt && g == x.gid && u == o / 256
      | .vault ln _ => vlt && ln == vaultKey o / 128
      | _ => false
    then some (o, if vlt then 0x08D else 0x08B) else none
/-- A lateral vault store of a superstep member in a computation step (04_memory_hierarchy.md R102: 0ADh). -/
def putBarred (s : State) (x : CCmd) (o : Nat) : Bool :=
  lateral x.w.core (vaultKey o) &&
    match ssetOf s (s.groups.getD x.gid {}) with
    | some n => (s.ssets.getD n {}).step.getLsbD 0 == false
    | none => false

/-! ### One chunk -/

/-- The failure at the lowest address. DESIGN CHOICE (log 81): R192 does not say which failure of a step decides; the rule for engine steps
(08_tensor_engines.md R183) is taken, an offset of scratch or of a vault counting as an address. -/
def lowest (a b : Option (Nat × Nat)) : Option (Nat × Nat) :=
  match a, b with
  | some x, some y => if y.1 < x.1 then some y else some x
  | some x, none => some x
  | none, b => b

/-- The requests of an ACOPY command that no operation has carried yet, with their places. -/
def CCmd.todo (x : CCmd) : List (Nat × Nat × Nat) := (x.reqs.zipIdx.map fun r => (r.2, r.1)).filter fun r => !x.moved.contains r.1
/-- The operation that carries a request: its source line and its destination line (R195). -/
def lineOp (r : Nat × Nat × Nat) : Nat × Nat := (r.2.2 / 128, r.2.1 / 128)
/-- The requests of a command that the operations of another carry: commands that share group, mode and spaces (R195). -/
def CCmd.carried (x y : CCmd) : List (Nat × Nat × Nat) :=
  if y.gid == x.gid && y.user == x.user && y.ssp == x.ssp && y.dsp == x.dsp && !y.stopped then
    y.todo.filter fun r => (x.todo.map lineOp).contains (lineOp r)
  else []

/-- A step whose source bytes the host has yet to send keeps them until its responses are there, and moves them then
(13_host_and_system.md R257, 14_determinism_and_debug.md R270). -/
def CCmd.awaits (x : CCmd) (s : State) : Bool := x.got.isEmpty && cmdWaits s x.id
/-- The state in which it waits. -/
def awaitHost (s : State) (core id : Nat) (got : Tab Byte) : State :=
  updCoal { s with ctab := s.ctab.setIfInBounds (dieOf core) ((ctabOf s (dieOf core)).map fun e => if e.2.id == id then (e.1, { e.2 with got := got }) else e) }
    core fun q => q.map fun y => if y.id == id then { y with got := got } else y
/-- A source byte: the one that the host has sent, or the one at its home. -/
def CCmd.srcByte (x : CCmd) (a : Agent) (s : State) (ps : PageMap) (va : Nat) : Byte := (Tab.get? x.got va).getD (a.byte s ps va)
/-- Some source bytes, to be kept. -/
def keepBytes (vas : List Nat) (get : Nat → Byte) : Tab Byte := vas.foldl (fun t va => t.put va (get va)) []

/-- ACOPY (R194, R195): the operations that hold the command's requests, with the requests of the other commands of the coalescer that they
carry. DESIGN CHOICE (log 59): a command's operations take place in one step, every source byte read before a destination is written, the
destinations in issue order and, within a command, in lane order. -/
def runAcopy (s : State) (core : Nat) (x : CCmd) : State × Option (Nat × Nat) :=
  let a := x.agent core
  let here := fun (r : Nat × Nat × Nat) => x.got.isEmpty || (Tab.get? x.got r.2.2).isSome
  let all := (coalOf s core).map fun y => (y, (if y.id == x.id then x.todo else x.carried y).filter here)
  let s := if all.any fun e => e.1.fl.acq && !e.2.isEmpty then drainAll s x.w.core else s
  let srcs := all.flatMap fun e => e.2.flatMap fun r => span r.2.2 e.1.size
  let dsts := all.flatMap fun e => e.2.flatMap fun r => span r.2.1 e.1.size
  let rds := if x.ssp == .virt then srcs else []
  let wrs := if x.dsp == .virt then dsts else []
  let r := a.pages s (rds ++ wrs)
  let bad := if x.dsp == .vlt then (dsts.find? (putBarred s x)).map fun o => (o, 0x0AD) else none
  match lowest (a.failure r.1 r.2 rds wrs) (lowest (if x.ssp == .virt then none else localDamage s x (x.ssp == .vlt) srcs) bad) with
  | some e => (r.1, some e)
  | none =>
    let get := fun (o : Nat) => if x.ssp == .virt then x.srcByte a s r.2 o else localByte s x (x.ssp == .vlt) o
    let s1 := if x.got.isEmpty then a.touch r.1 r.2 rds false else r.1
    if x.awaits s1 then (awaitHost s1 core x.id (keepBytes rds get), none)
    else
    let cs := dsts.zip (srcs.map get)
    let s2 := if x.dsp == .virt then a.write s1 r.2 cs else localWrite s1 x (x.dsp == .vlt) (dieOf core) cs
    (updCoal s2 core fun q => q.map fun y =>
      { y with moved := y.moved ++ (((all.find? fun e => e.1.id == y.id).map (·.2)).getD []).map (·.1) }, none)

/-- The elements with a bit in chunk c, or, with `first`, those whose first bit lies there. -/
def CCmd.chunkElems (x : CCmd) (c : Nat) (first : Bool) : List Nat :=
  let w := x.local.width
  let hi := min x.elems ((4096 * (c + 1) + w - 1) / w)
  let lo := if first then (4096 * c + w - 1) / w else 4096 * c / w
  (List.range (hi - lo)).map (lo + ·)

/-- An element's encoding in one floating format in another (R165). -/
def recode (x : CCmd) (src dst : Fmt) (v : Nat) : Nat := if x.lfmt.isNone then v else Num.toFloat dst x.sat (Num.ofFloat src v)

/-- The local bytes of a chunk made of elements (R197). -/
def packElems (w c n : Nat) (first : Nat) (vs : List Nat) : List Byte :=
  let base := first * w
  let v := (vs.foldr (fun v acc => v % 2 ^ w + acc * 2 ^ w) 0)
  toBytes n (v / 2 ^ (4096 * c - base))

/-- One element of local bytes. -/
def unpackElem (get : Nat → Byte) (w e : Nat) : Nat :=
  let bs := (List.range ((e * w % 8 + w + 7) / 8)).map fun i => get (e * w / 8 + i)
  ofBytes bs / 2 ^ (e * w % 8) % 2 ^ w

/-- ACOPYT.ld: tensor to local. -/
def runLoad (s : State) (core : Nat) (x : CCmd) (c : Nat) : State × Option (Nat × Nat) :=
  let a := x.agent core
  let es := x.chunkElems c false
  let ins := es.filter fun e => Tensor.inRange x.t (x.index e)
  let rds := ins.flatMap fun e => Tensor.span x.t (x.index e)
  let n := x.count c
  let outs := span (x.loc + 512 * c) n
  let r := a.pages s rds
  let bad := if x.vlt then (outs.find? (putBarred s x)).map fun o => (o, 0x0AD) else none
  match lowest (a.failure r.1 r.2 rds []) bad with
  | some e => (r.1, some e)
  | none =>
    let val := fun (e : Nat) =>
      let i := x.index e
      if Tensor.inRange x.t i then recode x (Tensor.fmt x.t) x.local (Tensor.raw x.t i ((Tensor.span x.t i).map (x.srcByte a s r.2))) else 0
    let bs := packElems x.local.width c n (es.headD 0) (es.map val)
    let s1 := if x.got.isEmpty then a.touch r.1 r.2 rds false else r.1
    if x.awaits s1 then (awaitHost s1 core x.id (keepBytes rds (a.byte s r.2)), none)
    else (localWrite s1 x x.vlt (dieOf core) (outs.zip bs), none)

/-- Lays an element into the bytes of a tensor. -/
def putElem (get : Nat → Byte) (t : Tensor) (m : Tab Byte) (i : List Nat) (v : Nat) : Tab Byte :=
  let sp := Tensor.span t i
  let w := (Tensor.fmt t).width
  let old := ofBytes (sp.map fun va => (m.get? va).getD (get va))
  let b := Tensor.bitOf t i
  let new := old % 2 ^ b + v % 2 ^ w * 2 ^ b + old / 2 ^ (b + w) * 2 ^ (b + w)
  (sp.zip (toBytes sp.length new)).foldl (fun m p => m.put p.1 p.2) m

/-- ACOPYT.st: local to tensor. -/
def runStore (s : State) (core : Nat) (x : CCmd) (c : Nat) : State × Option (Nat × Nat) :=
  let a := x.agent core
  let ins := (x.chunkElems c true).filter fun e => Tensor.inRange x.t (x.index e)
  let wrs := ins.flatMap fun e => Tensor.span x.t (x.index e)
  let r := a.pages s wrs
  match lowest (a.failure r.1 r.2 [] wrs) (localDamage s x x.vlt (span (x.loc + 512 * c) (x.count c))) with
  | some e => (r.1, some e)
  | none =>
    let get := fun (o : Nat) => localByte s x x.vlt (x.loc + o)
    let m := ins.foldl (fun m e =>
      putElem (a.byte s r.2) x.t m (x.index e) (recode x x.local (Tensor.fmt x.t) (unpackElem get x.local.width e))) ([] : Tab Byte)
    (a.write r.1 r.2 m, none)

/-- One combine of ACOPYR at its home (05_consistency.md R127); under another group's tenure it is held. -/
def combineAt (s : State) (die : Nat) (x : CCmd) (ks : List Nat) (v : Nat) : State :=
  let f := Tensor.fmt x.t
  match ks.findSome? (heldUnder s x.gid (some x.id)) with
  | some e =>
    let room := spillUsed s e.2.die < (s.spillSize.getD e.2.die 0).toNat
    let h : HeldStore :=
      { id := s.nextId, w := x.w, lane := 32, gid := x.gid, keys := ks, bytes := [], atomic := some (some x.op, f, v, 0, .zero)
        vc := vcOf s die, spilled := room, at_ := s.cycle, cmd := some x.id }
    { s with
      nextId := s.nextId + 1, ten := s.ten.put e.1 { e.2 with held := e.2.held ++ [h] }
      spillFull := if room then s.spillFull else s.spillFull.setIfInBounds e.2.die true }
  | none =>
    let old := ofBytes (ks.map (groupByte s x.gid (some x.id)))
    homeOrShadow s x.gid (some x.id) s.cycle (vcOf s die) (ks.zip (toBytes ks.length (Num.combine x.op f old v)))

/-- ACOPYR (R198). -/
def runCombine (s : State) (core : Nat) (x : CCmd) (c : Nat) : State × Option (Nat × Nat) :=
  let a := x.agent core
  let ins := (x.chunkElems c true).filter fun e => Tensor.inRange x.t (x.index e)
  let wrs := ins.flatMap fun e => Tensor.span x.t (x.index e)
  let r := a.pages s wrs
  let wrong := wrs.find? fun va => match r.2.at va with | .ok p => !p.c || p.host | .error _ => false
  match lowest (lowest (a.failure r.1 r.2 [] wrs) (wrong.map fun va => (va, 0x0A2))) (localDamage s x x.vlt (span (x.loc + 512 * c) (x.count c))) with
  | some e => (r.1, some e)
  | none =>
    let get := fun (o : Nat) => localByte s x x.vlt (x.loc + o)
    (ins.foldl (fun s e =>
      combineAt s (dieOf core) x ((Tensor.span x.t (x.index e)).map r.2.key) (unpackElem get x.local.width e)) (a.touch r.1 r.2 wrs true), none)

/-- One chunk of a command, whole or not at all (R190, R192). -/
def runChunk (s : State) (core : Nat) (x : CCmd) : State × Option (Nat × Nat) :=
  match x.kind with
  | 0 => runAcopy s core x
  | 1 => if x.toMem then runStore s core x x.next else runLoad s core x x.next
  | _ => runCombine s core x x.next

/-! ### The progress of copies -/

/-- The command a core's copy engine runs, one at a time (R190): the table command it has been granted, else the ACOPY that it has started, else
its oldest ACOPY that is not stopped. -/
def copyHead (s : State) (core : Nat) : Option CCmd :=
  match s.crun.get? core with
  | some i => (ctabOf s (dieOf core)).get? i
  | none =>
    match (coalOf s core).find? fun x => x.started && !x.stopped with
    | some x => some x
    | none => (coalOf s core).find? fun x => !x.stopped
/-- Changes a command of a core. -/
def updCopy (s : State) (core : Nat) (id : Nat) (f : CCmd → CCmd) : State :=
  let s := updCoal s core fun q => q.map fun x => if x.id == id then f x else x
  updCtab s (dieOf core) fun t => t.map fun e => if e.2.id == id then (e.1, f e.2) else e
/-- Removes a command and frees its engine. -/
def dropCmd (s : State) (core : Nat) (id : Nat) : State :=
  let s := updCoal s core fun q => q.filter fun x => x.id != id
  let run := match s.crun.get? core with
    | some i => match (ctabOf s (dieOf core)).get? i with | some x => x.id == id | none => true
    | none => false
  let s := updCtab s (dieOf core) fun t => t.filter fun e => e.2.id != id
  if run then { s with crun := s.crun.del core } else s

/-- The index that a record of KIND 2 names (11_traps_and_preemption.md Table 11.3). -/
def copyObj (s : State) (core : Nat) (id : Nat) : Nat :=
  match (ctabOf s (dieOf core)).find? fun e => e.2.id == id with
  | some e => e.1
  | none => 0x80000000 + ((List.range 16).find? fun i => ((coalOf s core)[i]?.map fun x => x.id) == some id).getD 0

/-- What the end of a group's copy may complete: the generation of its superstep set (04_memory_hierarchy.md R102). -/
def stepMay (s : State) (gid : Nat) : State :=
  match ssetOf s (s.groups.getD gid {}) with
  | some n => superstepCheck s n
  | none => s

/-- A command fails with a code (R192): STATUS takes it if it holds 0, and the command ends. -/
def failCopy (s : State) (core : Nat) (x : CCmd) (code : Nat) : State :=
  let s := if isSoft code then markSoft s else s
  let s := if scrWord s x.gid (x.hdr + 4) = 0 then putWord s x.gid (x.hdr + 4) (0x200 + code) else s
  stepMay (dropCmd (releaseCmd s x.id .core) core x.id) x.gid

/-- A step fails (R192). -/
def copyFails (s : State) (core : Nat) (x : CCmd) (va code : Nat) : State :=
  if code = 0x060 then
    let s := updCopy s core x.id fun x => { x with stopped := true, started := x.started && x.kind != 0 }
    let r : FaultRec :=
      { code := code, kind := 2, recov := true, addr := w64 va, ipc := x.pc, ctx := x.ctx, core := core, slot := x.w.slot, quad := x.w.quad
        obj := copyObj s core x.id, cmd := some x.id, gid := x.gid }
    let s := if x.kind = 0 then s else { s with crun := s.crun.del core }
    postFault s (dieOf core) r
  else failCopy s core x code

/-- The chunk's bytes are added to COUNT (R191). -/
def countChunk (s : State) (core : Nat) (x : CCmd) (c : Nat) : State :=
  let s := putWord s x.gid x.hdr ((scrWord s x.gid x.hdr + x.count c) % 2 ^ 32)
  updCopy s core x.id fun y => { y with pend := some (c, some s.cycle) }

/-- The chunk's bit is set; the command completes with its last (R191, R126, R143). -/
def setChunk (s : State) (core : Nat) (x : CCmd) (c : Nat) : State :=
  let b := x.bitOf c
  let o := x.hdr + 8 + 4 * (b / 32)
  let s := putWord s x.gid o (Nat.lor (scrWord s x.gid o) (2 ^ (b % 32)))
  if x.next < x.chunks then updCopy s core x.id fun y => { y with pend := none }
  else stepMay (dropCmd (cmdRelease (releaseCmd s x.id (if x.fl.rel then x.fl.sc else .core)) (dieOf core) x.fl.rel x.fl.sc) core x.id) x.gid

/-- A step of a core's copy engine can take place now. -/
def copyDue (s : State) (core : Nat) : Bool :=
  match copyHead s core with
  | none => false
  | some x =>
    if !x.started then tenured s x.id
    else match x.pend with
      | some (_, some t) => t < s.cycle
      | some (_, none) => !cmdHeld s x.id && !cmdWaits s x.id
      | none => x.due ≤ s.work && !cmdWaits s x.id

/-- COPY_CHUNK_COMPLETE (R190 to R193): the engine's command starts, moves a chunk, counts it, or sets its bit. -/
def execCopyChunkComplete (core : Nat) (s : State) : Host.Outcome State Fault Refusal :=
  if !copyDue s core then done s
  else
    match copyHead s core with
    | none => done s
    | some x =>
      if !x.started then
        let f := free (if x.fl.acq || x.fl.it then drainAll s x.w.core else s)
        done (updCopy f.2 core x.id fun x => { x with started := true, due := s.work + 1 + f.1 })
      else
        match x.pend with
        | some (c, some _) => done (setChunk s core x c)
        | some (c, none) => done (countChunk s core x c)
        | none =>
          if (ctxOf s x.ctx).suspended && x.kind != 0 then
            -- a table command of a suspended context stops at its next chunk; its record joins the held list (11 R236)
            let idx := copyObj s core x.id
            let s := { s with crun := s.crun.del core }
            done (pushRcd s (dieOf core) x.ctx (tileRecord x.prio (2 ^ 63 + idx)) none)
          else
            match runChunk s core x with
            | (s, some e) => done (copyFails s core x e.1 e.2)
            | (s, none) =>
              -- the step takes place when the host has sent what it reads
              if ((copyHead s core).map fun y => y.got.isEmpty) == some false && x.got.isEmpty then done s
              else
              let f := free s
              let s := updCopy f.2 core x.id fun y =>
                { y with next := y.next + 1, pend := some (y.next, none), due := s.work + 1 + f.1, got := [] }
              done (if cmdHeld s x.id || cmdWaits s x.id then s else countChunk s core x x.next)

/-- A copy engine is idle for a record (R190). -/
def copyIdle (s : State) (core : Nat) : Bool := (s.crun.get? core).isNone && (coalOf s core).all fun x => x.stopped

/-- A copy engine takes a table command. -/
def grantCopy (s : State) (core idx : Nat) : State :=
  let s := { s with crun := s.crun.put core idx }
  updCtab s (dieOf core) fun t => match t.get? idx with | some x => t.put idx { x with stopped := false } | none => t

/-! ### ACOPY, ACOPYT, ACOPYR -/

/-- The header's checks (R191): 0A0h, then 0AAh up to the last map word used. -/
def headerTrap (s : State) (c : Cursor) (h lastBit : Nat) : Option Nat :=
  if h % 8 ≠ 0 then some 0x0A0 else if (grp s c.w).scr * 256 < h + 12 + 4 * (lastBit / 32) then some 0x0AA else none

/-- One address of a lane's ACOPY request (R194). -/
def acopyBad (s : State) (c : Cursor) (sp : Space) (size a : Nat) : Option Nat :=
  match sp with
  | .scr => if (grp s c.w).scr * 256 < a + size then some 0x0AA else none
  | .vlt => if vaultOk s (grp s c.w).ctx a then none else some 0x0AB
  | .virt => if tooHigh a then some 0x061 else none
  | .prv => some 0x0A1

/-- A coalescer that holds 16 commands makes the path wait (R195). -/
def coalNeed (c : Cursor) (s : State) (_ : Nat) : Option (Why × State) :=
  if 16 ≤ (coalOf s c.w.core).length then some (.room 2, s) else none

/-- One thread's part of an ACOPY (R194): it joins the command of its path. -/
def acopyLane (o : AcopyOps) (c : Cursor) (s : State) (l : Nat) : LRes :=
  let hdr := kval s c o.b 0
  let size := o.sz.bytes
  let dst := src s c l o.d (o.dsp != .scr)
  let sr := src s c l o.a (o.ssp != .scr)
  match headerTrap s c hdr o.bit.toNat with
  | some code => .trap code (w64 hdr)
  | none =>
    if o.dsp == .prv || o.ssp == .prv then .trap 0x0A1 0
    else if sr % size ≠ 0 then .trap 0x0A0 (w64 sr)
    else if dst % size ≠ 0 then .trap 0x0A0 (w64 dst)
    else
      let order := [0x0AA, 0x0AB, 0x061]
      let bads := ([(o.ssp, sr), (o.dsp, dst)]).filterMap fun p => (acopyBad s c p.1 size p.2).map fun code => (code, p.2)
      match order.findSome? fun code => bads.find? fun b => b.1 == code with
      | some b => .trap b.1 (w64 b.2)
      | none =>
        if (s.cur.map (·.kfree)).getD true then
          let x : CCmd :=
            { id := s.nextId, kind := 0, gid := gidOf s c.w, ctx := (grp s c.w).ctx, user := c.user, w := c.w, pc := c.pc, hdr := hdr
              reqs := [(dst, sr)], size := size, dsp := o.dsp, ssp := o.ssp, bit := o.bit.toNat
              fl := { sc := o.sc, acq := o.acq, rel := o.rel, it := false } }
          let s := if o.acq then drainSeen s c.w (lanesOf c.lanes) else s
          .ok (updCoal { s with nextId := s.nextId + 1 } c.w.core fun q => q ++ [x])
        else
          .ok (updCoal s c.w.core fun q =>
            match q.reverse with
            | x :: xs => (({ x with reqs := x.reqs ++ [(dst, sr)] } : CCmd) :: xs).reverse
            | [] => [])

/-- ACOPY (16_reference_a_c.md R312). -/
def execAcopy (h : Hdr) (o : AcopyOps) (s : State) : Host.Outcome State Fault Refusal :=
  perLaneW (.acopy h o) h s coalNeed (acopyLane o)

/-- The k register that an operand names. -/
def kNo (o : Opd) : Nat := match o with | .k n => n.val | _ => 0

/-- The checks of R197 that follow the entry's and the header's. -/
def tileChecks (s : State) (c : Cursor) (x : CCmd) (fmtBad : Bool) : Option (Nat × Nat) :=
  let g := grp s c.w
  let n := x.bytes
  if x.tl.any (· == 0) || 262144 < n then some (0x109, 0)
  else if fmtBad then some (0x040, 0)
  else if x.loc % 64 ≠ 0 then some (0x0A0, x.loc)
  else if !x.vlt && g.scr * 256 < x.loc + n then some (0x0AA, x.loc)
  else if x.vlt && !(vaultOk s g.ctx x.loc && x.loc % 2 ^ 26 + n ≤ 0x3000000) then some (0x0AB, x.loc)
  else if Tensor.oor x.t == 1 && (List.range x.org.length).any fun d => Tensor.ext x.t d < x.org.getD d 0 + x.tl.getD d 0 then some (0x103, 0)
  else none

/-- The issue of ACOPYT and ACOPYR (R190, R191, R197, R198). DESIGN CHOICE (log 31): where the entry is empty or the tile is above 256 KiB, the
header's check takes one chunk. -/
def issueCopy (tx : BitVec 10) (d a b : Opd) (vlt : Bool) (fmtBad : Tensor → Bool) (build : CCmd → CCmd) (c : Cursor) (act : List Nat) (s : State) : LRes :=
  let s := tidCheck s (grp s c.w).ctx tx.toNat
  let t := tidOf s c tx
  let r := if Tensor.empty t then 0 else Tensor.rank t
  let hdr := kval s c d 0
  if 64 < kNo a + r then .trap 0x021 0
  else
    let loc := kval s c b 0 + (if vlt then kval s c b 1 * 2 ^ 32 else 0)
    let org := (List.range r).map fun i => (((warpAt s c.w).getD {}).kreg (kNo a + i)).toNat
    let x := build
      { id := s.nextId, kind := 1, gid := gidOf s c.w, ctx := (grp s c.w).ctx, user := c.user, w := c.w, pc := c.pc, hdr := hdr, t := t
        org := org, loc := loc, vlt := vlt, prio := lrec s (grp s c.w) 142 140 }
    let chunks := if r = 0 || 262144 < x.bytes then 1 else x.chunks
    match headerTrap s c hdr (chunks - 1) with
    | some code => .trap code (w64 hdr)
    | none =>
      if r = 0 then .trap 0x101 0
      else
        match tileChecks s c x (fmtBad t) with
        | some e => .trap e.1 (w64 e.2)
        | none =>
          let die := dieOf c.w.core
          let ag := x.agent c.w.core
          let tiles : List Tile := [⟨t, org, x.tl, x.kind == 2 || x.toMem⟩]
          if x.fl.it && ag.readHeld s tiles then .trap 0x0C8 0
          else if 4096 ≤ (ctabOf s die).length then .wait (.stall (.reissue (.room 3))) s
          else
            -- the lowest free entry (log 79)
            let idx := (ctabOf s die).freeFrom 4096 0
            let s := { s with nextId := s.nextId + 1 }
            let s := if x.fl.it then ag.request s x.fl.sc c.w tiles else s
            let s := if x.fl.acq || x.fl.it then drainSeen s c.w (lanesOf c.lanes) else s
            let s := updCtab s die fun tb => tb.put idx x
            .ok (pushRcd s die x.ctx (tileRecord x.prio (2 ^ 63 + idx))
              (if roomForDevice s die x.prio then some (pusher c.w.core (act.headD 0)) else none))

/-- ACOPYT (16_reference_a_c.md R314). -/
def execAcopyt (h : Hdr) (o : AcopytOps) (s : State) : Host.Outcome State Fault Refusal :=
  perPath (.acopyt h o) h s fun c act s =>
    issueCopy o.tx o.d o.a o.b o.vlt (fun t => o.lcv && (!(Tensor.fmt t).isFloat || !o.lfmt.isFloat))
      (fun x => { x with lfmt := if o.lcv then some o.lfmt else none, sat := o.sat, toMem := o.st, fl := o.fl }) c act s

/-- The formats ACOPYR accepts (R198). -/
def combineFmt (op : RedOp) (f : Fmt) : Bool :=
  match f with
  | .i32 | .i64 | .n32 | .n64 => true
  | .f32 | .f16 | .bf16 => op != .and && op != .or
  | _ => false

/-- ACOPYR (16_reference_a_c.md R313). -/
def execAcopyr (h : Hdr) (o : AcopyrOps) (s : State) : Host.Outcome State Fault Refusal :=
  perPath (.acopyr h o) h s fun c act s =>
    issueCopy o.tx o.d o.a o.b o.vlt (fun t => !combineFmt o.op (Tensor.fmt t)) (fun x => { x with kind := 2, op := o.op, fl := o.fl }) c act s

/-! ### CMWAIT and CMTEST (R199, 16_reference_a_c.md R327) -/

/-- The header, the map word's offset and the mask, or the code and the offset of the first failing check (11_traps_and_preemption.md R219). -/
def mapWord (s : State) (c : Cursor) (o : CmOps) : Except (Nat × Nat) (Nat × Nat × W32) :=
  let i := kval s c o.c 0
  let h := kval s c o.a 0
  if 15 < i then .error (0x10A, 0)
  else if h % 8 ≠ 0 then .error (0x0A0, h)
  else if (grp s c.w).scr * 256 < h + 12 + 4 * i then .error (0x0AA, h)
  else .ok (h, h + 8 + 4 * i, srcAt s c 0 o.b 0)

/-- The masked bits are all set. -/
def bitsSet (s : State) (gid w : Nat) (m : W32) : Bool := w32 (scrWord s gid w) &&& m == m

/-- A read of the header or map meets a damaged unit of scratch (08Bh). -/
def scrDamaged (s : State) (gid o : Nat) : Bool :=
  s.ms.damage.any fun d => match d with | .scratch g u _ => g == gid && u == o / 256 | _ => false

/-- CMTEST. -/
def execCmtest (h : Hdr) (o : CmOps) (s : State) : Host.Outcome State Fault Refusal :=
  perPath (.cmtest h o) h s fun c act s =>
    match mapWord s c o with
    | .error e => .trap e.1 (w64 e.2)
    | .ok (_, w, m) =>
      if scrDamaged s (gidOf s c.w) w then .trap 0x08B (w64 w)
      else
        let v := bitsSet s (gidOf s c.w) w m
        .ok (act.foldl (fun s l => let s := dstP s c l o.d 0 v; if v then observe s c.w l else s) s)

/-- CMWAIT: it waits until the bits are set or STATUS is not 0. -/
def execCmwait (h : Hdr) (o : CmOps) (s : State) : Host.Outcome State Fault Refusal :=
  perPath (.cmwait h o) h s fun c act s =>
    match mapWord s c o with
    | .error e => .trap e.1 (w64 e.2)
    | .ok (hd, w, m) =>
      let gid := gidOf s c.w
      if scrDamaged s gid w || scrDamaged s gid (hd + 4) then .trap 0x08B (w64 w)
      else if bitsSet s gid w m || scrWord s gid (hd + 4) ≠ 0 then
        .ok (act.foldl (fun s l => observe (dst s c l o.d false (scrWord s gid (hd + 4))) c.w l) s)
      else .wait (.stall (.cmwait o.d hd w m)) s

/-! ### Channels (R200, R201) -/

/-- The channel entry of a group's launch (Table 3.2). -/
def chanRec (s : State) (g : Group) (k : Nat) : Nat := lrec s g (543 + 32 * k) (512 + 32 * k)
/-- NSLOT. -/
def chanSlots (s : State) (g : Group) (k : Nat) : Nat := natBits (chanRec s g k) 7 0
/-- Bytes of a slot. -/
def chanSize (s : State) (g : Group) (k : Nat) : Nat := (natBits (chanRec s g k) 11 8 + 1) * 64
/-- PSTG. -/
def chanStage (s : State) (g : Group) (k : Nat) : Nat := natBits (chanRec s g k) 15 12
/-- The linear index of a group in its grid (03_work_scheduling.md R75), at a stage. -/
def linearAt (s : State) (g : Group) (stage : Nat) : Nat :=
  let f := fun (hi lo : Nat) => lrec s g hi lo + 1
  ((g.z * f 95 80 + g.y) * f 79 64 + g.x) * f 123 120 + stage
/-- The group at the same coordinate and another stage has exited: its last warp has (17_reference_d_l.md R333), or the group is gone. -/
def stageGone (s : State) (g : Group) (stage : Nat) : Bool :=
  (match launchOf s g.lti with
   | some l => l.gone.contains (linearAt s g stage)
   | none => true) ||
  s.groups.any fun e => e.2.ending && e.2.warps.isEmpty && e.2.lti == g.lti && e.2.x == g.x && e.2.y == g.y && e.2.z == g.z && e.2.stage == stage
/-- The resident group at the same coordinate and another stage. -/
def stagePeer (s : State) (g : Group) (stage : Nat) : Option (Nat × Group) :=
  s.groups.find? fun e => e.2.lti == g.lti && e.2.x == g.x && e.2.y == g.y && e.2.z == g.z && e.2.stage == stage &&
    (match e.2.pre with | .saving _ => false | _ => true)
/-- The scratch offset of channel k's slots in its consumer. -/
def chanBase (s : State) (g : Group) (k : Nat) : Nat :=
  g.scr * 256 + (List.range k).foldl (fun a j =>
    if chanSlots s g j ≠ 0 && chanStage s g j == chanStage s g k then a + chanSlots s g j * chanSize s g j else a) 0
/-- The channel state in its consumer. -/
def chanOf (g : Group) (k : Nat) : Chan := g.chans.getD k {}

/-- CSEND may go on: the consumer has exited, or is resident with a slot free. -/
def canSend (s : State) (g : Group) (k : Nat) : Bool :=
  stageGone s g (chanStage s g k + 1) ||
    match stagePeer s g (chanStage s g k + 1) with
    | some p => (chanOf p.2 k).full < chanSlots s g k
    | none => false
/-- CRECV may go on: the head slot is full, or the channel is closed and empty. -/
def canRecv (s : State) (g : Group) (k : Nat) : Bool := 0 < (chanOf g k).full || stageGone s g (chanStage s g k)

/-- The message of a CSEND (R201) by some threads: whole, or discarded when the consumer has exited; a release at .pkg (05_consistency.md R129).
Answers the value for D. -/
def sendMessage (s : State) (gid : Nat) (w : WKey) (ls : List Nat) (k off : Nat) : State × Nat :=
  let g := s.groups.getD gid {}
  match (if stageGone s g (chanStage s g k + 1) then none else stagePeer s g (chanStage s g k + 1)) with
  | none => (s, 1)
  | some p =>
    let n := chanSize s g k
    let ch := chanOf p.2 k
    let slot := (ch.head + ch.full) % chanSlots s g k
    let bs := g.scratch.read off n
    let s := pathRelease s w ls
    let s := scrStore s p.1 none (Memory.cells (chanBase s p.2 k + slot * n) bs)
    (updGroup s p.1 fun q => { q with chans := q.chans.put k { ch with full := ch.full + 1 } }, 0)

/-- The message of a CRECV. -/
def recvMessage (s : State) (gid : Nat) (core : Nat) (k off : Nat) : State × Nat :=
  let g := s.groups.getD gid {}
  let ch := chanOf g k
  if ch.full = 0 then (s, 1)
  else
    let n := chanSize s g k
    let bs := g.scratch.read (chanBase s g k + ch.head * n) n
    let s := scrStore (pkgAcquire s core) gid none (Memory.cells off bs)
    (updGroup s gid fun q => { q with chans := q.chans.put k { head := (ch.head + 1) % chanSlots s g k, full := ch.full - 1 } }, 0)

/-- The channel that an operand names. -/
def chanNo (o : Opd) : Nat := match o with | .ch n => n.val | _ => 0

/-- The checks of a channel operation (R201): 0E9h, 0E8h, then the offset's. -/
def chanTrap (s : State) (c : Cursor) (k : Nat) (send : Bool) (off : Option Nat) : Option Nat :=
  let g := grp s c.w
  if chanSlots s g k = 0 then some 0x0E9
  else if g.stage ≠ chanStage s g k + (if send then 0 else 1) then some 0x0E8
  else
    match off with
    | none => none
    | some o => if o % 64 ≠ 0 then some 0x0A0 else if g.scr * 256 < o + chanSize s g k then some 0x0AA else none

/-- CSEND and CRECV. -/
def exchange (send : Bool) (d a b : Opd) (c : Cursor) (act : List Nat) (s : State) : LRes :=
  let k := chanNo a
  let off := kval s c b 0
  match chanTrap s c k send (some off) with
  | some code => .trap code (if code = 0x0A0 ∨ code = 0x0AA then w64 off else 0)
  | none =>
    let gid := gidOf s c.w
    let g := grp s c.w
    match if send then act.findSome? (relNeed s c.w) else none with
    | some y => .wait (.stall (.reissue y.1)) y.2
    | none =>
    if if send then canSend s g k else canRecv s g k then
      let damaged := (span (if send then off else chanBase s g k + (chanOf g k).head * chanSize s g k) (chanSize s g k)).find? (scrDamaged s gid)
      match damaged with
      | some o => .trap 0x08B (w64 o)
      | none =>
        let r := if send then sendMessage s gid c.w act k off else recvMessage s gid c.w.core k off
        .ok (act.foldl (fun s l => dst s c l d false r.2) r.1)
    else .wait (.stall (.channel d k send off (maskOf act.contains))) s

/-- CSEND (16_reference_a_c.md R328). -/
def execCsend (h : Hdr) (d a b : Opd) (s : State) : Host.Outcome State Fault Refusal :=
  perPath (.csend h d a b) h s fun c act s => exchange true d a b c act s
/-- CRECV (R328). -/
def execCrecv (h : Hdr) (d a b : Opd) (s : State) : Host.Outcome State Fault Refusal :=
  perPath (.crecv h d a b) h s fun c act s => exchange false d a b c act s

/-- CPOLL (R328). -/
def execCpoll (h : Hdr) (rcv : Bool) (d a : Opd) (s : State) : Host.Outcome State Fault Refusal :=
  perPath (.cpoll h rcv d a) h s fun c act s =>
    let k := chanNo a
    match chanTrap s c k (!rcv) none with
    | some code => .trap code 0
    | none =>
      let g := grp s c.w
      let v := if rcv then canRecv s g k else canSend s g k && !stageGone s g (chanStage s g k + 1)
      .ok (act.foldl (fun s l => dstP s c l d 0 v) s)

/-- CHANNEL_RESUME (R201): a path that waits in CSEND or CRECV makes its exchange and goes on. -/
def execChannelResume (w : WKey) (lane : Nat) (s : State) : Host.Outcome State Fault Refusal :=
  match (thrAt s w lane).st with
  | .stall (.channel d k send off lanes) =>
    let gid := gidOf s w
    let g := grp s w
    if if send then canSend s g k else canRecv s g k then
      let ls := (lanesOf lanes).filter fun l => (thrAt s w l).st == .stall (.channel d k send off lanes)
      let r := if send then sendMessage s gid w ls k off else recvMessage s gid w.core k off
      done (ls.foldl (fun s l => resumeLane (wakeDst s w l d (w32 r.2)) w l true) r.1)
    else done s
  | _ => done s

end Sys2Proof.Machine
end

