-- ==== Sys2Proof/Machine/Sched.lean ====
section
/-! DEFINITION. Scheduling (03_work_scheduling.md R69 to R85): launches and their completion, SPAWN, JOINDEC and LAUNCH, the expander,
register growth, the placement of a fresh group, and the exit of a group (17_reference_d_l.md R333). -/
namespace Sys2Proof.Machine

/-! ### Launches -/

/-- A launch record (Table 3.2). -/
abbrev LRec := BitVec 1024

namespace LRec
/-- Slots of channel k. -/
def slots (r : LRec) (k : Nat) : Nat := bits r (519 + 32 * k) (512 + 32 * k)
/-- Bytes of a slot of channel k. -/
def size (r : LRec) (k : Nat) : Nat := (bits r (523 + 32 * k) (520 + 32 * k) + 1) * 64
/-- PSTG of channel k. -/
def stage (r : LRec) (k : Nat) : Nat := bits r (527 + 32 * k) (524 + 32 * k)
/-- The slot bytes of a consumer at a stage. -/
def slotBytes (r : LRec) (st : Nat) : Nat :=
  (List.range 16).foldl (fun a k => if slots r k != 0 && stage r k + 1 == st then a + slots r k * size r k else a) 0
/-- W. -/
def warps (r : LRec) : Nat := bits r 116 112 + 1
/-- n, the initial registers per thread. -/
def regs (r : LRec) : Nat := (bits r 131 128 + 1) * 8
/-- S. -/
def stages (r : LRec) : Nat := bits r 123 120 + 1

/-- The number of the first condition of R74 that rejects a record. -/
def reject (r : LRec) : Option Nat :=
  let f := bits r
  let res0 := f 119 117 != 0 || f 127 124 != 0 || f 143 143 != 0 || f 159 158 != 0 || f 191 171 != 0 || f 319 288 != 0 ||
    (List.range 16).any fun k => f (543 + 32 * k) (528 + 32 * k) != 0
  if res0 then some 1
  else if f 63 0 % 4 ≠ 0 ∨ 2 ^ 57 ≤ f 63 0 then some 2
  else if 2 ^ 32 < (f 79 64 + 1) * (f 95 80 + 1) * (f 111 96 + 1) then some 3
  else if f 137 133 ≠ 0 ∧ f 132 132 = 0 then some 4
  else if 10 ≤ f 147 144 then some 5
  else if warps r ≤ f 157 153 ∧ f 255 192 ≠ 0 then some 6
  else if (List.range 16).any fun k => slots r k != 0 && stages r - 1 ≤ stage r k then some 7
  else if (List.range (stages r)).any fun st => decide (262144 < f 170 160 * 256 + slotBytes r st) then some 8
  else if 131072 < warps r * (32 * regs r + 64) then some 9
  else if f 447 384 % 8 ≠ 0 ∨ f 511 448 % 32 ≠ 0 then some 10
  else none
end LRec

/-- The launch table of a die has an entry free (R75). -/
def tableRoom (s : State) (die : Nat) : Bool := (schedOf s die).launches.length < 1024
/-- A launch table has an entry free, and its HOST record has room outside the reserve (R75, R84). -/
def launchRoom (s : State) (die prio : Nat) : Bool := tableRoom s die && roomOutsideReserve s die prio

/-- An accepted launch takes the lowest free entry of its die's table (log 11) and its HOST record is pushed (R75). Answers the launch
id, which the device chooses (log 9). -/
def acceptLaunch (s : State) (die ctx : Nat) (r : LRec) (byThread : Option Nat) : State × W32 :=
  let i := (schedOf s die).launches.freeFrom 1024 0
  let id := Config.launchId s.nextId
  let s := { s with nextId := s.nextId + 1 }
  let s := updSched s die fun d => { d with launches := d.launches.put i { rcd := r, ctx := ctx, id := id, firstAt := s.cycle + 8 } }
  let prio := bits r 142 140
  (pushRcd s die ctx (Rcd.make 0 (die * 8192 + i) 0 4 prio 8 0 false id.toNat) (if roomForDevice s die prio then byThread else none), id)

/-- A group's launch gains or loses a group (R77). -/
def addLive (s : State) (lti : Nat) : State := updLaunch s lti fun l => { l with live := l.live + 1 }

/-- A store of the device to a completion word (R74, R77): false when it cannot be made, with a record of KIND 6. -/
def compStore (s : State) (die ctx va v : Nat) : State × Bool :=
  match sysAccess s die ctx va 8 true true with
  | (s, .error code) => (postFault s die (structRecord ctx code 3 (w64 va)), false)
  | (s, .ok ks) =>
    let k := ks.headD 0
    let s := probe s none k 8
    let s := if isHost k then hostFill s (k / 128) 3 else s
    (homeWrite (vcTick s die) (vcOf s die) (ks.zip (toBytes 8 v)), true)

/-- The outcome of a JOINDEC on a record (R84): a code, or the new record, whether it is pushed, and the value for D. -/
def joinRecord (s : State) (die : Nat) (r : Rcd) : Except Nat (Rcd × Bool) :=
  if Rcd.invalid r || Rcd.kind r != 1 then .error 0x143
  else if Rcd.join r = 0 then .error 0x144
  else if Rcd.join r = 1 ∧ Rcd.armed r ∧ !roomOutsideReserve s (targetDie r die) (Rcd.prio r) then .error 0x146
  else if Rcd.join r = 1 ∧ Rcd.armed r then .ok (r.withJoin 0 false, true)
  else .ok (r.withJoin (Rcd.join r - 1) (Rcd.armed r), false)

/-- The context in which a record is pushed: that of the launch it belongs to (R84, 04_memory_hierarchy.md R98). -/
def recordCtx (s : State) (r : Rcd) (ctx : Nat) : Nat := ((launchOf s (Rcd.lti r)).map (·.ctx)).getD ctx

/-- The device's JOINDEC on the JREC of a completed launch (R77): refused ones set JERR. -/
def deviceJoin (s : State) (die ctx va : Nat) : State :=
  let refuse := fun (s : State) => updSched s die fun d => { d with jerr := true }
  match sysAccess s die ctx va 32 true false with
  | (s, .error _) => refuse s
  | (s, .ok ks) =>
    let k := ks.headD 0
    let s := recallFrom (probe s none k 32) 512 k
    let r : Rcd := BitVec.ofNat 256 (ofBytes (homeRead s k 32))
    match joinRecord s die r with
    | .error _ => refuse s
    | .ok (n, push) =>
      let s := homeWrite s (vcOf s die) (ks.zip (toBytes 32 n.toNat))
      if push then
        updLaunch (addLive (pushRcd s die (recordCtx s n ctx) n none) (Rcd.lti n)) (Rcd.lti n) fun l => { l with armed := l.armed - 1 }
      else s

/-- A launch completes (R77): its entry is freed, COMP is stored and JREC decremented. -/
def launchCheck (s : State) (lti : Nat) : State :=
  match launchOf s lti with
  | none => s
  | some l =>
    if l.emitted == l.total && l.live == 0 && l.armed == 0 then
      let die := lti / 8192
      let s := updSched s die fun d => { d with launches := d.launches.del (lti % 8192) }
      let s := if l.f 511 384 = 0 then s else s.ms.l1.foldl (fun s e => drainAll s e.1) s
      let comp := l.f 447 384
      let s := if comp = 0 then s else (compStore s die l.ctx comp 1).1
      let jrec := l.f 511 448
      if jrec = 0 then s else deviceJoin s die l.ctx jrec
    else s

/-- A group of a launch has ended, exited or not restored: the generation and the launch may complete. -/
def groupGone (s : State) (lti i : Nat) : State :=
  let chan := match launchOf s lti with | some l => bits l.rcd 1023 512 != 0 | none => false
  let set := match launchOf s lti with | some l => if l.f 152 152 = 1 then some (l.f 151 148) else none | none => none
  let s := updLaunch s lti fun l => { l with live := l.live - 1, gone := if chan then i :: l.gone else l.gone }
  let s := match set with | some n => superstepCheck s n | none => s
  launchCheck s lti

/-- The age of a group (11_traps_and_preemption.md R232). -/
def ageOf (s : State) (g : Group) : Nat := g.age + (s.cycle - g.placed)

/-- M after an exit (R232). -/
def nextM (m life : Nat) : Nat := if m = 0 then life else ((m : Int) + Int.tdiv ((life : Int) - m) 8).toNat

/-- GROUP_EXIT (17_reference_d_l.md R333): handles close, pennant state ends, the reservation is released after the group's commands, and
the group exits once its copies have ended. -/
def execGroupExit (gid : Nat) (s : State) : Host.Outcome State Fault Refusal :=
  match s.groups.get? gid with
  | none => done s
  | some g =>
    if !(g.ending && g.warps.isEmpty) then done s
    else
      let s := updGroup (closeHandles s gid) gid fun g => { g with pn := none, handles := [] }
      let mine := (engineOf s g.core).owner == some gid
      let busy := mine && !(engineOf s g.core).queue.isEmpty
      let s := if mine && !busy then freeEngine s g.core else s
      if busy || !(copiesOf s gid).isEmpty then done s
      else
        let life := ageOf s g
        let i := linearAt s g g.stage
        let s := updLaunch s g.lti fun l => { l with m := nextM l.m life }
        let s := { s with
          groups := s.groups.del gid
          ms.damage := s.ms.damage.filter fun d => match d with | .scratch q _ _ => q != gid | _ => true
          fq := s.fq.map fun q => { q with outstanding := q.outstanding.filter fun r => !((r.kind == 0 || r.kind == 2) && r.gid == gid) } }
        done (groupGone s g.lti i)

/-! ### SPAWN and JOINDEC (R84) -/

/-- An access of a thread to cacheable Scarp memory (R352): the code for an address that is not aligned, then 061h, 060h, 062h, 081h, 080h, 0A9h;
0C6h under the group's own read tenure (06 R139); and damage of what it reads. -/
def scarpAcc (s : State) (c : Cursor) (va size : Nat) (store : Bool) (mis : Nat) : State × Except (Nat × W64) Acc :=
  if va % size != 0 then (s, .error (mis, w64 va))
  else
    match virtAcc s c.w va size with
    | (s, .error e) => (s, .error e)
    | (s, .ok x) =>
      match permit x c.user store with
      | some code => (s, .error (code, x.va))
      | none =>
        if !scarpPage x then (s, .error (0x0A9, x.va))
        else if store && x.keys.any (readOnly s (gidOf s c.w)) then (s, .error (0x0C6, x.va))
        else
          match damageCode s c.w.core (gidOf s c.w) x with
          | some code => (s, .error (code, x.va))
          | none => (s, .ok x)

/-- The record's address (R84): 0A8h where it is not aligned. -/
def recAcc (s : State) (c : Cursor) (l : Nat) (a : Opd) (off : BitVec 24) (size : Nat) (store : Bool) : State × Except (Nat × W64) Acc :=
  scarpAcc s c (wrap ((src s c l a true : Int) + offInt off) 64) size store 0x0A8

/-- A record that another core owns, or that lies under another group's tenure, makes the path wait (05_consistency.md R123, 06 R140). -/
def recNeed (a : Opd) (off : BitVec 24) (c : Cursor) (s : State) (l : Nat) : Option (Why × State) :=
  match recAcc s c l a off 32 true with
  | (_, .error _) => none
  | (s, .ok x) =>
    let k := x.keys.headD 0
    if x.keys.any fun k => (heldUnder s (gidOf s c.w) none k).isSome then some (.tenure k, s)
    else (ownNeed s c.w.core x).or (relNeed s c.w l)

/-- The record, with exclusive ownership (R71). -/
def takeRecord (s : State) (c : Cursor) (x : Acc) : State × Rcd :=
  let s := atomPlace s c.w x plainHint
  (s, BitVec.ofNat 256 (ofBytes (x.keys.map (homeView s c.w.core (gidOf s c.w)))))
/-- Writes the record back at its place. -/
def putRecord (s : State) (c : Cursor) (l : Nat) (x : Acc) (r : Rcd) : State :=
  atomLeave (atomWrite s c.w l x (toBytes 32 r.toNat)) c.w x true

/-- One thread's SPAWN (18_reference_m_s.md R378): a release at .pkg (R72), then the atomic on the record. -/
def spawnLane (d a : Opd) (off : BitVec 24) (c : Cursor) (s : State) (l : Nat) : LRes :=
  match recAcc s c l a off 32 true with
  | (_, .error e) => .trap e.1 e.2
  | (s, .ok x) =>
    let t := takeRecord s c x
    let r := t.2
    let die := dieOf c.w.core
    let lti := (grp s c.w).lti
    if Rcd.invalid r || Rcd.kind r != 1 then .trap 0x143 0
    else if Rcd.armed r then .trap 0x145 0
    else
      let r := r.withLti lti
      if Rcd.join r = 0 then
        if !roomOutsideReserve s (targetDie r die) (Rcd.prio r) then .trap 0x146 0
        else
          let s := putRecord (pathRelease t.1 c.w [l]) c l x r
          .ok (dst (addLive (pushRcd s die (grp s c.w).ctx r (some (pusher c.w.core l))) lti) c l d false 0)
      else
        let s := putRecord (pathRelease t.1 c.w [l]) c l x (r.withJoin (Rcd.join r) true)
        .ok (dst (updLaunch s lti fun l => { l with armed := l.armed + 1 }) c l d false 1)

/-- SPAWN (R378). -/
def execSpawn (h : Hdr) (d a : Opd) (off : BitVec 24) (s : State) : Host.Outcome State Fault Refusal :=
  perLaneW (.spawn h d a off) h s (recNeed a off) (spawnLane d a off)

/-- One thread's JOINDEC (17_reference_d_l.md R350). -/
def joindecLane (d a : Opd) (off : BitVec 24) (c : Cursor) (s : State) (l : Nat) : LRes :=
  match recAcc s c l a off 32 true with
  | (_, .error e) => .trap e.1 e.2
  | (s, .ok x) =>
    let t := takeRecord s c x
    let die := dieOf c.w.core
    match joinRecord s die t.2 with
    | .error code => .trap code 0
    | .ok (r, push) =>
      let s := putRecord (pathRelease t.1 c.w [l]) c l x r
      let lti := Rcd.lti r
      let s := if push then updLaunch (addLive (pushRcd s die (recordCtx s r (grp s c.w).ctx) r (some (pusher c.w.core l))) lti) lti fun l => { l with armed := l.armed - 1 } else s
      .ok (dst s c l d false (Rcd.join r))

/-- JOINDEC (R350). -/
def execJoindec (h : Hdr) (d a : Opd) (off : BitVec 24) (s : State) : Host.Outcome State Fault Refusal :=
  perLaneW (.joindec h d a off) h s (recNeed a off) (joindecLane d a off)

/-- What a thread's LAUNCH waits for, once its address has passed its checks. -/
def launchNeed (a : Opd) (off : BitVec 24) (c : Cursor) (s : State) (l : Nat) : Option (Why × State) :=
  match recAcc s c l a off 128 false with
  | (_, .error _) => none
  | (s, .ok _) => relNeed s c.w l

/-- One thread's LAUNCH (17_reference_d_l.md R351). -/
def launchLane (d a : Opd) (off : BitVec 24) (c : Cursor) (s : State) (l : Nat) : LRes :=
  match recAcc s c l a off 128 false with
  | (_, .error e) => .trap e.1 e.2
  | (s, .ok x) =>
    let r := loadBytes s c.w l x plainHint false
    let rcd : LRec := BitVec.ofNat 1024 (ofBytes r.2)
    let die := dieOf c.w.core
    match LRec.reject rcd with
    | some n => .trap 0x147 (w64 n)
    | none =>
      if !launchRoom r.1 die (bits rcd 142 140) then .trap 0x146 0
      else
        let q := acceptLaunch (pathRelease r.1 c.w [l]) die (grp s c.w).ctx rcd (some (pusher c.w.core l))
        .ok (dst q.1 c l d false q.2.toNat)

/-- LAUNCH (R351). -/
def execLaunch (h : Hdr) (d a : Opd) (off : BitVec 24) (s : State) : Host.Outcome State Fault Refusal :=
  perLaneW (.launch h d a off) h s (launchNeed a off) (launchLane d a off)

/-! ### The expander (R75, R102) -/

/-- The die that takes group i of a launch. -/
def launchDie (l : Launch) (die i : Nat) : Nat :=
  let a := l.f 147 144
  if a < 8 then a else if a = 9 then i % 8 else die

/-- GROUP records of a launch queued on a die. -/
def queuedOf (s : State) (die lti : Nat) : Nat :=
  let d := schedOf s die
  ((d.queues.toList.flatMap id ++ d.waiting).filter fun q => Rcd.kind q.rcd == 1 && Rcd.lti q.rcd == lti).length

/-- A launch that waits for its superstep set joins once the set has no member; the step starts at 0 (04_memory_hierarchy.md R102). -/
def joinSets (s : State) (die : Nat) : State :=
  (schedOf s die).launches.foldl (fun s e =>
    if e.2.active && e.2.waiting && (members s (e.2.f 151 148)).isEmpty then
      let s := updSched s die fun d => { d with launches := d.launches.put e.1 { e.2 with waiting := false } }
      { s with ssets := s.ssets.put (e.2.f 151 148) {} }
    else s) s

/-- An active launch may emit its next group. -/
def mayEmit (s : State) (die : Nat) (e : Nat × Launch) : Bool :=
  e.2.active && !e.2.waiting && e.2.emitted < e.2.total && !(ctxOf s e.2.ctx).suspended &&
    queuedOf s (launchDie e.2 die e.2.emitted) (die * 8192 + e.1) < 64

/-- The GROUP record of group i of a launch. -/
def groupRecord (l : Launch) (die idx i : Nat) : Rcd :=
  let sN := l.f 123 120 + 1
  let xN := l.f 79 64 + 1
  let yN := l.f 95 80 + 1
  let p := i / sN
  let arg := p % xN + (p / xN % yN) * 2 ^ 16 + (p / xN / yN) * 2 ^ 32 + (die * 8192 + idx) * 2 ^ 48
  Rcd.make (l.f 63 0) (l.f 383 320) 0 1 (l.f 142 140) (launchDie l die i) (i % sN) false arg

/-- EXPANDER_EMIT (R75): the next active launch, round-robin, that may emit one GROUP record does so. DESIGN CHOICE (log 63): the round goes by
increasing launch-table index, from the launch served last on. -/
def execExpanderEmit (die : Nat) (s : State) : Host.Outcome State Fault Refusal :=
  let s := joinSets s die
  let es := (schedOf s die).launches.filter (mayEmit s die)
  let last := (schedOf s die).last
  match (es.find? fun e => last < e.1).orElse fun _ => es.head? with
  | none => done s
  | some e =>
    let r := groupRecord e.2 die e.1 e.2.emitted
    let fin := e.2.emitted + 1 == e.2.total
    let s := updSched s die fun d => { d with
      last := e.1
      launches := d.launches.put e.1 { e.2 with emitted := e.2.emitted + 1, live := e.2.live + 1, active := !fin } }
    let s := pushRcd s die e.2.ctx r none
    done (if e.2.f 152 152 = 1 then superstepCheck s (e.2.f 151 148) else s)

/-! ### Registers (R81, R82, 18_reference_m_s.md R372) -/

/-- The warps of a core. -/
def coreWarps (s : State) (core : Nat) : List (WKey × Warp) :=
  (s.warps.filter fun e => e.1 / 32 == core).map fun e => (wKeyOf e.1, e.2)
/-- Free register entries of a core. -/
def freeRegs (s : State) (core : Nat) : Nat := 131072 - (coreWarps s core).foldl (fun a e => a + 32 * e.2.alloc + 64) 0
/-- The waiting RGROW requests of a core. -/
def growOf (s : State) (core : Nat) : List GrowReq := s.grow.getD core []

/-- The destination of RGROW or RSHRINK lies at or above an allocation. -/
def dstBeyond (d : Opd) (alloc : Nat) : Bool := match d with | .g n => alloc ≤ n.val | _ => false

/-- RGROW (R372): each issue by a path is one request, which waits until it is granted. Which allocation its destination is
checked against: log 72. -/
def execRgrow (h : Hdr) (d : Opd) (imm : W32) (s : State) : Host.Outcome State Fault Refusal :=
  perPath (.rgrow h d imm) h s fun c act s =>
    let n := imm.toNat
    let alloc := ((warpAt s c.w).getD {}).alloc
    let queued := ((growOf s c.w.core).filter fun q => q.w == c.w).foldl (fun a q => a + q.n) 0
    if dstBeyond d (alloc + queued + n) then .trap 0x022 0
    else if n = 0 ∨ 120 < n ∨ n % 8 ≠ 0 ∨ 128 < alloc + queued + n then .trap 0x142 0
    else
      let q : GrowReq := { w := c.w, lanes := maskOf act.contains, n := n, d := d, gid := gidOf s c.w }
      .wait (.stall (.rgrow d n)) { once s (.rgrowDeadlock c.w.core) with grow := s.grow.put c.w.core (growOf s c.w.core ++ [q]) }

/-- RSHRINK (R372): the entries are free at once; 022h when D lies above what stays. -/
def execRshrink (h : Hdr) (d : Opd) (imm : W32) (s : State) : Host.Outcome State Fault Refusal :=
  perPath (.rshrink h d imm) h s fun c act s =>
    let n := imm.toNat
    let alloc := ((warpAt s c.w).getD {}).alloc
    if dstBeyond d (alloc - n) && n < alloc then .trap 0x022 0
    else if n = 0 ∨ 120 < n ∨ n % 8 ≠ 0 ∨ alloc < n + 8 then .trap 0x142 0
    else
      let s := updWarp s c.w fun x => { x with alloc := alloc - n }
      .ok (act.foldl (fun s l => dst s c l d false (alloc - n)) s)

/-- A granted request (R82, R84): the new registers read zero in every thread, and the path goes on. -/
def grantGrow (s : State) (q : GrowReq) : State :=
  let alloc := ((warpAt s q.w).getD {}).alloc
  let zero := fun (t : Thread) => (List.range q.n).foldl (fun t i => t.setReg (alloc + i) 0) t
  let s := updWarp s q.w fun x => { x with alloc := alloc + q.n, th := x.th.map zero }
  ((lanesOf q.lanes).filter fun l => (thrAt s q.w l).st == .stall (.rgrow q.d q.n)).foldl
    (fun s l => resumeLane (wakeDst s q.w l q.d (w32 (alloc + q.n))) q.w l false) s

/-- Grants the requests of a core in order while the head fits. -/
def grantGrows (s : State) (core : Nat) : Nat → State
  | 0 => s
  | n + 1 =>
    match growOf s core with
    | [] => s
    | q :: rest =>
      if 32 * q.n ≤ freeRegs s core then grantGrows (grantGrow { s with grow := s.grow.put core rest } q) core n else s

/-- RGROW_GRANT (R82). -/
def execRgrowGrant (core : Nat) (s : State) : Host.Outcome State Fault Refusal := done (grantGrows s core (growOf s core).length)

/-! ### Placement (R38, R70, R76, 02_execution_model.md R36) -/

/-- Free warp slots of a core. -/
def freeSlots (s : State) (core : Nat) : Nat := 32 - (coreWarps s core).length
/-- Free scratch bytes of a core. -/
def freeScratch (s : State) (core : Nat) : Nat :=
  262144 - (s.groups.filter fun e => e.2.core == core).foldl (fun a e => a + e.2.scr * 256 + e.2.slots * 64) 0

/-- A core can run a group of some warps, register entries and scratch bytes (R70). -/
def coreFits (s : State) (core warps regs scratch : Nat) : Bool :=
  warps ≤ freeSlots s core && regs ≤ freeRegs s core && scratch ≤ freeScratch s core && (growOf s core).isEmpty

/-- The place of a new warp on a core (R38): the quadrant with the fewest occupied slots, then the lowest free slot. -/
def placeFor (s : State) (core : Nat) : Option WKey :=
  let occ := fun (q : Nat) => ((coreWarps s core).filter fun e => e.1.quad == q).map fun e => e.1.slot
  let q := [1, 2, 3].foldl (fun b q => if (occ q).length < (occ b).length then q else b) 0
  ((List.range 8).find? fun sl => !(occ q).contains sl).map fun sl => { core := core, quad := q, slot := sl }

/-- Places one warp. -/
def placeWarp (s : State) (core gid : Nat) (x : Warp) : State :=
  match placeFor s core with
  | none => s
  | some w => updGroup (setWarp s w x) gid fun g => { g with warps := g.warps ++ [w] }

/-- The k registers of a fresh warp (R76). -/
def freshK (frame : Nat) (id : W32) : Vector W32 64 :=
  ((((Vector.replicate 64 (0 : W32)).setIfInBounds 0 (w32 frame)).setIfInBounds 1 (w32 (frame / 2 ^ 32))).setIfInBounds 2 id)

/-- Starts a fresh group on a core (R36, R38, R76, R96): an acquire at .pkg (R72), then its warps in order. -/
def startGroup (s : State) (core ctx : Nat) (r : Rcd) (frames : List Nat) (age : Nat) : State :=
  let lti := Rcd.lti r
  let l := ((launchOf s lti).map (·.rcd)).getD 0
  let id := ((launchOf s lti).map (·.id)).getD 0
  let gid := s.nextId
  let code := w64 (Rcd.code r)
  let st := bits r 179 176
  let g : Group :=
    { core := core, nwarps := LRec.warps l, ctx := ctx, lti := lti, launchId := id, x := bits r 207 192, y := bits r 223 208
      z := bits r 239 224, stage := st, scr := bits l 170 160, slots := LRec.slotBytes l st / 64
      pn := if bits l 255 192 = 0 then none else some {}, placed := s.cycle, age := age, frame0 := frames.getD 0 0, order := gid, rcd := r }
  let s := { s with nextId := gid + 1, groups := s.groups.put gid { g with readyAt := s.cycle + 72 } }
  let hwm := bits (ctxOf s ctx).privinit 15 0
  let s := (List.range (LRec.warps l)).foldl (fun s i =>
    placeWarp s core gid
      { gid := gid, num := i, alloc := LRec.regs l, frame := frames.getD i 0, hwm := hwm, k := freshK (Rcd.frame r) id
        th := Vector.replicate 32 { pc := code, rgnpc := code } }) s
  pkgAcquire s core

/-- The lowest core of a die that satisfies a test. -/
def coreFor (die : Nat) (ok : Nat → Bool) : Option Nat := ((List.range 64).map (die * 64 + ·)).find? ok

end Sys2Proof.Machine
end

