-- ==== Sys2Proof/Machine/Save.lean ====
section
/-! DEFINITION. The save area (11_traps_and_preemption.md R238, Tables 11.6 to 11.9): its bytes, writing it, checking it and reading it
back. -/
namespace Sys2Proof.Machine

/-! ### Reaching the area -/

/-- The address of the save region in a frame (R238). -/
def regionVa (r : Ctx) (frame : Nat) : Nat :=
  let sh := bits r.pfctl 4 0
  (r.pfbase.toNat + frame * 2 ^ sh + 2 ^ (sh - 1)) % 2 ^ 64

/-- The keys of n bytes of an area by system accesses, 64 KiB page by page; a failure answers its code and address. -/
def areaKeys (s : State) (die ctx va n : Nat) (store : Bool) : State × Except (Nat × Nat) (List Nat) :=
  (pagesOf va n).foldl (fun (acc : State × Except (Nat × Nat) (List Nat)) p =>
    match acc with
    | (s, .error e) => (s, .error e)
    | (s, .ok ks) =>
      let lo := max p va
      let hi := min (p + 65536) (va + n)
      match sysAccess s die ctx lo (hi - lo) store false with
      | (s, .error code) => (s, .error (code, lo))
      | (s, .ok ls) => (s, .ok (ks ++ ls))) (s, .ok [])

/-- Cells in pieces of 512. -/
def pieces : Nat → List Host.Cell → List (List Host.Cell)
  | 0, _ => []
  | n + 1, cs => if cs.isEmpty then [] else cs.take 512 :: pieces n (cs.drop 512)

/-- Writes segments of a region: every page is reached before anything is written. -/
def areaWrite (s : State) (die ctx base : Nat) (segs : List (Nat × List Byte)) : State × Option (Nat × Nat) :=
  let r := segs.foldl (fun (acc : State × Except (Nat × Nat) (List (List Host.Cell))) g =>
    match acc with
    | (s, .error e) => (s, .error e)
    | (s, .ok ps) =>
      match areaKeys s die ctx (base + g.1) g.2.length true with
      | (s, .error e) => (s, .error e)
      | (s, .ok ks) => (s, .ok (ps ++ pieces (ks.length / 512 + 1) (ks.zip g.2)))) (s, .ok [])
  match r with
  | (s, .error e) => (s, some e)
  | (s, .ok ps) =>
    (ps.foldl (fun s cs =>
      let s := ((cs.map fun c => c.1 / 512 * 512).eraseDups).foldl (fun s b => probe s none b 512) s
      homeWrite s (vcOf s die) cs) s, none)

/-- Reads bytes of a region; none when a page cannot be reached. -/
def areaRead (s : State) (die ctx va n : Nat) : State × Option (List Byte) :=
  match areaKeys s die ctx va n false with
  | (s, .error _) => (s, none)
  | (s, .ok ks) => (s, some (ks.map (homeByte s)))

/-! ### CRC-32 (IEEE 802.3, reflected) -/

/-- Eight steps of the division. -/
def crcBits : Nat → Nat → Nat
  | 0, c => c
  | n + 1, c => crcBits n (if c % 2 = 1 then Nat.xor (c / 2) 0xEDB88320 else c / 2)
/-- CRC-32 of bytes. -/
def crc32 (bs : List Byte) : Nat := Nat.xor (bs.foldl (fun c b => crcBits 8 (Nat.xor c b.toNat)) 0xFFFFFFFF) 0xFFFFFFFF

/-! ### Building the area -/

/-- n bytes of a value. -/
def le (n v : Nat) : List Byte := toBytes n v

/-- The state code of a thread (Table 11.7). -/
def stateCode (t : Thread) : Nat :=
  if t.isParked then 6 else
  match t.st with
  | .barrier _ => 1
  | .sleep _ _ => 2
  | .exited => 7
  | _ => if t.inh then 4 else 0

/-- The fault record for which a thread is parked: the last one that names it. -/
def faultOf (s : State) (w : WKey) (l : Nat) : Option FaultRec :=
  let q := fqOf s (dieOf w.core)
  (q.outstanding ++ q.waiting ++ q.fresh).reverse.find? fun r =>
    r.kind == 0 && !r.ended && r.core == w.core && r.quad == w.quad && r.slot == w.slot && hasLane r.lanes l

/-- A thread parked in its handler is saved, or goes on after an abandoned save, at the instruction that faulted (R237). -/
def atFault (s : State) (w : WKey) (l : Nat) (t : Thread) : Thread :=
  match t.st with
  | .parked => { t with pc := if t.inh then ((faultOf s w l).map (·.ipc)).getD t.pc else t.pc }
  | _ => t

/-- A thread record (Table 11.7). -/
def threadBytes (s : State) (w : WKey) (l : Nat) (t : Thread) : List Byte :=
  let b := fun (x : Bool) (i : Nat) => if x then 2 ^ i else 0
  let preds := (List.range 7).foldl (fun a i => a + b (t.p.getD i false) i) 0
  let nbw := match t.st with | .barrier (.named k) => k.val | _ => 0
  le 8 t.pc.toNat ++ le 1 (stateCode t) ++ le 1 (b t.inh 0 + b t.isParked 1 + b t.yield 2 + b t.xm 3) ++ le 2 t.wait ++ le 1 preds ++ le 1 0 ++
  le 2 t.cause.toNat ++ le 8 t.tepc.toNat ++ le 8 (if t.isParked then ((faultOf s w l).map (·.addr)).getD t.taddr else t.taddr).toNat ++ le 4 t.rgnctr.toNat ++ le 4 0 ++
  le 8 t.rgnpc.toNat ++ le 4 ((t.cych.map (·.toNat)).getD 0) ++ le 1 nbw ++ le 11 0

/-- Bytes, filled up with zeros to a length: unnamed bytes are res0 (R238). -/
def fill (n : Nat) (bs : List Byte) : List Byte := bs ++ List.replicate (n - bs.length) 0

/-- A warp's region (Table 11.6), up to the group part. -/
def warpBytes (s : State) (g : Group) (w : WKey) (x : Warp) : List (Nat × List Byte) :=
  let arrived := if hasLane g.barArrived x.num then 1 else 0
  [(0, fill 0x40 (le 2 1 ++ le 1 x.alloc ++ le 1 arrived ++ le 4 (liveMask x).toNat ++ le 2 x.num ++ le 2 x.hwm)),
   (0x40, (List.range 32).flatMap fun l => threadBytes s w l (x.thr l)),
   (0x840, fill 0x7C0 ((List.range 64).flatMap fun j => le 4 (x.kreg j).toNat)),
   (0x1000, fill 0x7000 ((List.range x.alloc).flatMap fun j => (List.range 32).flatMap fun l => le 4 ((x.thr l).reg j).toNat))]

/-- A handle record (Table 11.9). A queued handle's request has been withdrawn: it is Bound. -/
def handleBytes (h : Handle) : List Byte :=
  let st := if h.st = 2 then 1 else h.st
  let pick := fun (n w : Nat) (xs : List Nat) => (List.range n).flatMap fun i => le w (xs.getD i 0)
  le 1 st ++ le 1 (if h.split then 1 else 0) ++ le 1 h.fmt.code ++ le 1 h.ext.length ++ le 4 0 ++ le 8 h.base.toNat ++ pick 5 4 h.ext ++ le 4 0 ++
  ((List.range 4).flatMap fun i => le 8 (h.str.getD (i + 1) 0)) ++ pick 5 4 h.org ++ pick 5 4 h.n ++ le 16 0

/-- Device-private bytes of n commands, in slots of 64 bytes (log 8). -/
def privateBlock (from_ slots n : Nat) : List Byte :=
  (List.range (slots * 64)).map fun i => if i < n * 64 then Config.privateByte (from_ + i) else 0

/-- The group part (Table 11.8), in warp 0's region. Scratch is filled up to the end of its last 64 KiB page (log 68). -/
def groupBytes (s : State) (gid : Nat) (g : Group) (reason : Nat) (live : List (WKey × Warp)) (coal : List CCmd) : List (Nat × List Byte) :=
  let e := engineOf s g.core
  let mine := e.owner == some gid
  let ncmd := if mine then e.queue.length else 0
  let eb := privateBlock s.freeCtr 9 ncmd
  let ab := privateBlock (s.freeCtr + 576) 32 coal.length
  let warps := live.foldl (fun a p => if hasLane g.barArrived p.2.num then a + 2 ^ p.2.num else a) 0
  let pn := g.pn.getD {}
  let chanBytes := g.slots * 64
  let head :=
    le 2 1 ++ le 1 g.nwarps ++ le 1 reason ++ le 2 g.scr ++ le 2 g.slots ++ le 2 g.x ++ le 2 g.y ++ le 2 g.z ++ le 1 g.stage ++
    le 1 ((if mine then 1 else 0) + (if ncmd != 0 then 2 else 0)) ++ le 2 g.lti ++ le 2 0 ++ le 4 g.launchId.toNat ++ le 8 s.cycle ++
    le 4 g.barGen.toNat ++ le 4 warps ++ le 4 (rprog s g.core gid).toNat ++ le 1 ncmd ++ le 1 coal.length ++ le 2 0 ++ le 8 (ageOf s g) ++
    le 4 (crc32 (eb ++ ab)) ++ le 4 0
  let accs := if mine then (List.range 4).map fun a => (0x50000 + 0x10000 * a, (e.tile a).flatMap (le 4)) else []
  let scr := g.scr * 256 + chanBytes
  [(0x8000, fill 0x100 head),
   (0x8100, (List.range 32).flatMap fun k => let b := g.nb.getD k {}; le 2 b.total ++ le 2 b.expected ++ le 4 b.gen.toNat),
   (0x8200, (List.range 64).flatMap fun h => handleBytes (g.handles.getD h {})),
   (0xA200, fill 0xE00 eb), (0xB000, fill 0x1000 ab),
   (0xC000, fill 0x40 (le 8 pn.mask.toNat ++ le 8 pn.pend.toNat)),
   (0xC040, (List.range 64).flatMap fun i => le 8 (pn.pay.getD i 0).toNat),
   (0xC240, fill 0x3DC0 ((List.range 64).flatMap fun i => le 2 (pn.cnt.getD i 0).toNat)),
   (0x10000, fill ((scr + 65535) / 65536 * 65536) (g.scratch.read 0 scr))] ++ accs

/-! ### Reading the area -/

/-- A field of n bytes at an offset of bytes read from `from_`. -/
def fieldAt (bs : List Byte) (from_ o n : Nat) : Nat := ofBytes ((bs.drop (o - from_)).take n)

/-- The wait of a thread whose record tells of a barrier (Table 11.7): the kind is device-private, and NBW names the barrier of the pool. DESIGN
CHOICE (log 68): where the thread did not wait at a barrier when it was saved, an NBW other than 0 is a barrier of the pool. -/
def barrierFrom (was : TState) (k : Nat) : BarKind :=
  match was with
  | .barrier (.named _) => .named (Fin.ofNat 32 k)
  | .barrier b => b
  | _ => if k % 32 = 0 then .group else .named (Fin.ofNat 32 k)

/-- The state of a thread from its record, as found (R239), with what is device-private of the state that it was saved in: the wait for a
command at which the thread is parked (R183, R237), and the destination of a watch sleep. A record that tells of a sleep which was none leaves no
destination, and the sleep ends with the restore (R57). -/
def stateFrom (h : Thread) (st k : Nat) (pend : Bool) : TState :=
  let behind := match h.st with | .engineParked _ => true | _ => h.parkedBy.isSome
  match st with
  | 7 => .exited
  | 6 => if !pend then .parked else if behind then h.st else .running
  | 1 => .barrier (barrierFrom h.st k)
  | 2 => match h.st with | .sleep d c => .sleep d c | _ => .running
  | _ => .running

/-- A thread from its record; what the record does not show stays as it was (Table 11.7, R237, R239). A thread saved with PENDFLT goes on at its
region entry, or with INH at the instruction. DEDUCED (log 68): TADDR of such a thread holds the faulting address, so that s.taddr, which R223 keeps
for a thread in its handler, is device-private. -/
def threadFrom (bs : List Byte) (h : Thread) : Thread :=
  let f := fieldAt bs 0
  let fl := f 9 1
  let inh := natBit fl 0
  let pend := natBit fl 1
  let rgnpc := w64 (f 40 8)
  let parked := f 8 1 = 6 ∧ pend
  let st := stateFrom h (f 8 1) (f 52 1) pend
  { h with
    st := st, parkedBy := if parked then h.parkedBy else none
    pc := if parked ∧ !inh ∧ h.parkedBy.isNone ∧ st = .running then rgnpc else w64 (f 0 8)
    inh := inh, yield := natBit fl 2, xm := natBit fl 3, wait := f 10 2
    p := Vector.ofFn fun i : Fin 8 => i == 7 || natBit (f 12 1) i.val
    cause := BitVec.ofNat 9 (f 14 2), tepc := w64 (f 16 8), rgnctr := w32 (f 32 4), rgnpc := rgnpc
    taddr := if pend && inh then h.taddr else w64 (f 24 8)
    cych := none, watch := none, blk := none, fromUser := none, gate := false, sstep := false }

/-- The warps that have arrived in the BAR generation, as found: by byte 0003h of each warp's region, and by the group part for a warp that has
none. DESIGN CHOICE (log 68): both tell of it, and a warp's own region decides. -/
def arrivedFrom (hds : List (List Byte)) (m : W32) : W32 :=
  maskOf fun k =>
    match hds.find? fun hd => fieldAt hd 0 8 2 == k with
    | some hd => natBit (fieldAt hd 0 3 1) 0
    | none => m.getLsbD k

/-- A warp from its region: registers, k registers, mark and threads. -/
def warpFrom (hd ths ks rs : List Byte) (gid : Nat) (x : Warp) : Warp :=
  let n := fieldAt hd 0 2 1
  let th := fun (l : Nat) =>
    let t := threadFrom ((ths.drop (64 * l)).take 64) (x.thr l)
    { t with g := Vector.ofFn fun j : Fin 128 => if j.val < n then w32 (fieldAt rs 0 (128 * j.val + 4 * l) 4) else 0 }
  { x with
    gid := gid, alloc := n, num := fieldAt hd 0 8 2, hwm := fieldAt hd 0 10 2, step1 := false
    k := Vector.ofFn fun j : Fin 64 => w32 (fieldAt ks 0 (4 * j.val) 4)
    th := Vector.ofFn fun l : Fin 32 => th l.val }

/-- A handle from its record; the translation and the tenure it holds are device-private. -/
def handleFrom (bs : List Byte) (h : Handle) : Handle :=
  let f := fieldAt bs 0
  let r := min 5 (f 3 1)
  let st := f 0 1
  { h with
    st := st, split := natBit (f 1 1) 0, fmt := Fmt.ofCode (BitVec.ofNat 4 (f 2 1)), base := w64 (f 8 8)
    ext := (List.range r).map fun i => f (16 + 4 * i) 4
    str := (List.range r).map fun i => if i = 0 then 0 else f (40 + 8 * (i - 1)) 8
    org := (List.range r).map fun i => f (72 + 4 * i) 4
    n := (List.range r).map fun i => f (92 + 4 * i) 4
    entry := if st = 3 ∨ st = 4 then h.entry else none
    trans := if st = 3 ∨ st = 4 then h.trans else [] }

/-- The group from its part of the area. -/
def groupFrom (hd nbs hs pns pays cnts scr : List Byte) (g : Group) : Group :=
  let f := fieldAt hd 0x8000
  let handles := (List.range 64).filterMap fun i =>
    let b := (hs.drop (128 * i)).take 128
    if b.headD 0 = 0 then none else some (i, handleFrom b (g.handles.getD i {}))
  let nb := (List.range 32).filterMap fun i =>
    let b := (nbs.drop (8 * i)).take 8
    if ofBytes b = 0 then none else some (i, ({ total := fieldAt b 0 0 2, expected := fieldAt b 0 2 2, gen := w32 (fieldAt b 0 4 4) } : NBar))
  { g with
    nwarps := f 0x8002 1, scr := f 0x8004 2, slots := f 0x8006 2, x := f 0x8008 2, y := f 0x800A 2, z := f 0x800C 2, stage := f 0x800E 1 % 16
    lti := f 0x8010 2, launchId := w32 (f 0x8014 4), barGen := w32 (f 0x8020 4), barArrived := w32 (f 0x8024 4)
    age := f 0x8030 8, nb := nb, handles := handles
    pn := g.pn.map fun _ =>
      { mask := w64 (fieldAt pns 0xC000 0xC000 8), pend := w64 (fieldAt pns 0xC000 0xC008 8)
        pay := Vector.ofFn fun i : Fin 64 => w64 (fieldAt pays 0 (8 * i.val) 8)
        cnt := Vector.ofFn fun i : Fin 64 => BitVec.ofNat 16 (fieldAt cnts 0 (2 * i.val) 2) }
    scratch := Memory.putAll [] (Memory.cells 0 scr) }

end Sys2Proof.Machine
end

