-- ==== Sys2Proof/Machine/Pennant.lean ====
section
/-! DEFINITION. Pennants (12_pennants.md R241 to R255, 18_reference_m_s.md R366): sends and their settling, the pennant instructions, and the
diversion of a handler warp. -/
namespace Sys2Proof.Machine

/-! ### Sends -/

/-- A target descriptor's res0 fields (Table 12.1). -/
def descBad (d : BitVec 128) : Bool := bits d 63 48 != 0 || bits d 127 100 != 0

/-- The lowest-numbered port of a die that is up. -/
def portOf (s : State) (die : Nat) : Option Nat :=
  ((List.range 4).map (4 * die + ·)).find? fun p => (s.ports.getD p {}).up

/-- The status reaches the sender (R245): a thread's wake follows in PNSEND_SETTLE; a peer gets a reply; a host queue's word is stored. -/
def answerSend (s : State) (e : Send) (st : Nat) : State :=
  let drop := fun (s : State) => { s with sends := s.sends.filter fun x => x.id != e.id }
  match e.src with
  | .thread _ _ _ => { s with sends := s.sends.map fun x => if x.id == e.id then { x with status := some st } else x }
  | .fabric port pkg die seq =>
    let m : PennantMsg :=
      { reply := some st, pkg := pkg, srcPkg := pkg, srcDie := die, seq := seq, ctx := e.ctx, lti := e.lti, grp := e.grp, num := e.num
        payload := e.payload, wake := e.wake }
    emit (drop s) port (.pennant port m)
  | .host _ addr =>
    if addr = 0 then drop s
    else
      let k := hostKey addr
      -- a release at .sys (05_consistency.md R122)
      let s := vcTick s 0
      drop (homeWrite (hostFill s (k / 128) 3) (vcOf s 0) (Memory.cells k (toBytes 8 st)))

/-- A send leaves (R243, R246): to the home die of this package, or through a port; with no port up it is settled with status 4. -/
def makeSend (s : State) (src : SendSrc) (die : Nat) (sender : W32) (d : BitVec 128) (n : Nat) (pay : W64) (wake : Bool) : State × Nat :=
  let id := s.nextId
  let pkg := bits d 15 0
  let lti := bits d 47 32
  let local_ := pkg == s.hlpkgid.toNat
  let e : Send :=
    { id := id, src := src, die := if local_ then lti / 8192 else die, sender := sender, pkg := pkg, ctx := bits d 31 16, lti := lti
      grp := bits d 99 64, num := n, payload := pay, wake := wake, at_ := s.cycle, remote := !local_ }
  let s := { s with nextId := id + 1 }
  if local_ then ({ s with sends := s.sends ++ [e] }, id)
  else
    match portOf s die with
    | none => (answerSend { s with sends := s.sends ++ [e] } e 4, id)
    | some p =>
      let q := s.pnSeq.getD die 0 + 1
      let m : PennantMsg :=
        { reply := none, pkg := pkg, srcPkg := s.hlpkgid.toNat, srcDie := die, seq := q, ctx := e.ctx, lti := lti, grp := e.grp, num := n, payload := pay, wake := wake }
      (emit { s with pnSeq := s.pnSeq.setIfInBounds die q, sends := s.sends ++ [{ e with seq := q }] } p (.pennant p m), id)

/-- The permission of a send (R244): always from the target's own context; else by the lowest-numbered matching entry. -/
def permitted (s : State) (e : Send) : Bool :=
  if e.sender.toNat == e.ctx then true
  else
    let base := bits (ctxOf s e.ctx).pnpermbase 51 12 * 4096
    let ent := fun (i : Nat) => ofBytes (devRead s (base + 16 * i) 16)
    let hit := (List.range 256).find? fun i => natBits (ent i) 31 0 == e.sender.toNat && natBit (ent i) 32 && natBits (ent i) 63 33 == 0
    match hit with
    | some i => natBit (ent i) (64 + e.num)
    | none => false

/-- PNREFCNT rises, saturating. -/
def countRefused (s : State) (ctx : Nat) : State := updCtx s ctx fun r => { r with pnrefcnt := if r.pnrefcnt.toNat = 2 ^ 32 - 1 then r.pnrefcnt else r.pnrefcnt + 1 }

/-- An accepted send on pennant state (R242): the new state and the status. -/
def PnState.take (p : PnState) (n : Nat) (v : W64) : PnState × Nat :=
  if p.pend.getLsbD n then
    ({ p with cnt := p.cnt.setIfInBounds n (if (p.cnt.getD n 0).toNat = 0xFFFF then 0xFFFF else p.cnt.getD n 0 + 1) }, 1)
  else
    ({ p with pend := p.pend ||| BitVec.ofNat 64 (2 ^ n), pay := p.pay.setIfInBounds n v, cnt := p.cnt.setIfInBounds n 1 }, 0)

/-- The target of a send (R245, R251). -/
inductive SendTarget where
  | none
  | resident (gid : Nat)
  | saving
  | saved (v : Saved)

/-- Finds the target group. -/
def sendTarget (s : State) (e : Send) : SendTarget :=
  match launchOf s e.lti with
  | none => .none
  | some l =>
    if l.ctx ≠ e.ctx ∨ l.f 255 192 = 0 then .none
    else
      match s.groups.find? fun g => g.2.lti == e.lti && linearAt s g.2 g.2.stage == e.grp && !g.2.ending with
      | some g => (match g.2.pre with | .saving _ => .saving | _ => .resident g.1)
      | none =>
        match s.saved.find? fun v => v.lti == e.lti && linearAt s v.group v.group.stage == e.grp with
        | some v => .saved v
        | none => .none

/-- A send to a saved group (R251, R252): the area's pennant state by system accesses; a failure settles with status 6. -/
def sendSaved (s : State) (e : Send) (v : Saved) : State × Nat :=
  let n := e.num
  let base := v.area.toNat
  let rd := fun (s : State) (o k : Nat) => areaRead s e.die v.ctx (base + o) k
  let fail := fun (s : State) (code va : Nat) => (postFault s e.die (structRecord v.ctx code 2 (w64 va)), 6)
  match areaKeys s e.die v.ctx (base + 0xC000) 0x2C0 true with
  | (s, .error (code, va)) => fail s code va
  | (s, .ok _) =>
    match rd s 0xC008 8, rd s (0xC040 + 8 * n) 8, rd s (0xC240 + 2 * n) 2 with
    | (_, some pd), (_, some py), (_, some ct) =>
      let p : PnState :=
        { pend := w64 (ofBytes pd), pay := (Vector.replicate 64 0).setIfInBounds n (w64 (ofBytes py))
          cnt := (Vector.replicate 64 0).setIfInBounds n (BitVec.ofNat 16 (ofBytes ct)) }
      let q := p.take n e.payload
      match areaWrite s e.die v.ctx base
          [(0xC008, toBytes 8 q.1.pend.toNat), (0xC040 + 8 * n, toBytes 8 (q.1.pay.getD n 0).toNat),
           (0xC240 + 2 * n, toBytes 2 (q.1.cnt.getD n 0).toNat)] with
      | (s, some (code, va)) => fail s code va
      | (s, none) =>
        let prio := lrec s v.group 142 140
        (if e.wake then pushRcd s e.die v.ctx (Rcd.make 0 base 0 3 prio 8 0 false 0) none else s, q.2)
    | _, _, _ => (s, 6)

/-- The pennant unit settles a send (R245); none while its group is being saved. -/
def settle (s : State) (e : Send) : Option (State × Nat) :=
  if (s.ctxs.get? e.ctx).isNone then some (s, 3)
  else if !permitted s e then some (countRefused s e.ctx, 2)
  else
    match sendTarget s e with
    | .none => some (s, 3)
    | .saving => none
    | .resident gid =>
      let p := ((s.groups.getD gid {}).pn.getD {}).take e.num e.payload
      some (updGroup s gid fun g => { g with pn := g.pn.map fun _ => p.1 }, p.2)
    | .saved v => some (sendSaved s e v)

/-- The stop by which a send reaches the pennant unit of a die. DESIGN CHOICE (log 52): the queue agent and the ports of a die, for which the spec
names none, stand behind its boundary stops. -/
def Send.stop (e : Send) (die : Nat) : Nat :=
  match e.src with
  | .thread w _ _ => sourceStop die w.core
  | .host _ _ => if die = 0 then 84 else sourceStop die 0
  | .fabric p _ _ _ => if p / 4 = die then 85 + p % 4 else sourceStop die (p / 4 * 64)
/-- One send is taken before another: by cycle, then by stop. -/
def Send.before (die : Nat) (a b : Send) : Bool := a.at_ < b.at_ || (a.at_ == b.at_ && a.stop die < b.stop die)
/-- A send placed in the order in which a die takes sends; those of one stop and cycle keep theirs. -/
def putSend (die : Nat) (e : Send) : List Send → List Send
  | [] => [e]
  | x :: xs => if e.before die x then e :: x :: xs else x :: putSend die e xs

/-- The first send of a die that can be settled. -/
def nextSend (s : State) (die : Nat) : Option (Send × State × Nat) :=
  ((s.sends.filter fun e => e.die == die && !e.remote && e.status.isNone).foldl (fun xs e => putSend die e xs) []).findSome? fun e =>
    (settle s e).map fun r => (e, r)

/-- PENNANT_SEND_ARRIVAL (R245): one send, in order of arrival. -/
def execPennantSendArrival (die : Nat) (s : State) : Host.Outcome State Fault Refusal :=
  match nextSend s die with
  | none => done s
  | some (e, s', st) => done (answerSend s' e st)

/-- PENNANT_FABRIC_MESSAGE (R246): a peer's send goes to the home die, once for each sequence number; a peer's reply settles a send. -/
def execPennantFabricMessage (port : Nat) (m : PennantMsg) (s : State) : Host.Outcome State Fault Refusal :=
  match m.reply with
  | some st =>
    match s.sends.find? fun e => e.remote && e.status.isNone && e.seq == m.seq && (match e.src with | .thread w _ _ => dieOf w.core == m.srcDie | _ => m.srcDie == 0) with
    | some e => done (answerSend s e st)
    | none => done s
  | none =>
    let key := (m.srcPkg, m.srcDie, m.seq)
    if s.pnSeen.contains key || 64 ≤ m.num then done s
    else
      let sender := w32 (2 ^ 30 + m.srcPkg % 65536)
      let e : Send :=
        { id := s.nextId, src := .fabric port m.srcPkg m.srcDie m.seq, die := m.lti % 65536 / 8192, sender := sender, pkg := s.hlpkgid.toNat
          ctx := m.ctx, lti := m.lti, grp := m.grp, num := m.num, payload := m.payload, wake := m.wake, at_ := s.cycle }
      done { s with nextId := s.nextId + 1, pnSeen := key :: s.pnSeen, sends := s.sends ++ [e] }

/-- A send to another package has had no reply for 2^20 cycles. -/
def sendTimedOut (s : State) (e : Send) : Bool := e.remote && e.status.isNone && e.at_ + 2 ^ 20 ≤ s.cycle

/-- PENNANT_NO_ANSWER (R245): sends without a reply settle with status 4. -/
def execPennantNoAnswer (die : Nat) (s : State) : Host.Outcome State Fault Refusal :=
  done ((s.sends.filter fun e => e.die == die && sendTimedOut s e).foldl (fun s e => answerSend s e 4) s)

/-- A settled send of a thread. -/
def settledFor (s : State) (w : WKey) (lane : Nat) : Option (Opd × Nat × Nat) :=
  match (thrAt s w lane).st with
  | .stall (.pnsend d id) => (s.sends.find? fun e => e.id == id).bind fun e => e.status.map fun st => (d, id, st)
  | _ => none

/-- PNSEND_SETTLE (R254): the thread takes its status and goes on. -/
def execPnsendSettle (w : WKey) (lane : Nat) (s : State) : Host.Outcome State Fault Refusal :=
  match settledFor s w lane with
  | some (d, id, st) => done { resumeLane (wakeDst s w lane d (w32 st)) w lane true with sends := s.sends.filter fun e => e.id != id }
  | none => done s

/-! ### The instructions (R254) -/

/-- One thread's PNSEND: the checks of R254, and the descriptor by a plain load. -/
def pnsendLane (n : BitVec 6) (wake : Bool) (d a b : Opd) (c : Cursor) (s : State) (l : Nat) : LRes :=
  match scarpAcc s c (src s c l a true) 16 false 0x0A0 with
  | (_, .error e) => .trap e.1 e.2
  | (s, .ok x) =>
    let r := loadBytes s c.w l x plainHint false
    let desc : BitVec 128 := BitVec.ofNat 128 (ofBytes r.2)
    if descBad desc then .trap 0x123 0
    else
      -- the sending side of R129 is a release at .pkg
      let s := pathRelease r.1 c.w [l]
      let q := makeSend s (.thread c.w l (gidOf s c.w)) (dieOf c.w.core) (w32 (grp s c.w).ctx) desc n.toNat (w64 (src s c l b true)) wake
      .wait (.stall (.pnsend d q.2)) (updGroup q.1 (gidOf s c.w) fun g => { g with tainted := true })

/-- The threads of a path that a PNSEND leaves out stay beside those that wait for their sends. DEDUCED (log 35): of a path parted here, the threads
left out would open in program 4 of 21_programs_tensor_and_pennants.md the handle that the sender opens too, against R411. -/
def stayBeside (s : State) (c : Cursor) (act : List Nat) : State :=
  let sends := fun (j : Nat) => match (thrAt s c.w j).st with | .stall (.pnsend _ _) => true | _ => false
  if !act.any sends then s
  else
    ((lanesOf c.lanes).filter fun l => !act.contains l).foldl (fun s l => updThr s c.w l fun t =>
      if t.st == .running then { t with st := .stall (.beside (maskOf act.contains)), pc := c.pc } else t) s

/-- PNSEND. Its path goes on together once every send of it is settled. -/
def execPnsend (h : Hdr) (n : BitVec 6) (wake : Bool) (d a b : Opd) (s : State) : Host.Outcome State Fault Refusal :=
  match perLaneW (.pnsend h n wake d a b) h s (fun c s l => relNeed s c.w l) (pnsendLane n wake d a b), s.cur with
  | .next t, some c => done (stayBeside t c (activeLanes s c h))
  | r, _ => r

/-- The pennant state of the executing group; 124h without one. -/
def pnOf (s : State) (c : Cursor) : Option PnState := (grp s c.w).pn
/-- Sets the pennant state of a group. -/
def setPn (s : State) (c : Cursor) (p : PnState) : State := updGroup s (gidOf s c.w) fun g => { g with pn := some p }
/-- The executing warp is the handler warp (HWARP). -/
def isHandlerWarp (s : State) (c : Cursor) : Bool := ((warpAt s c.w).map (·.num)).getD 0 == lrec s (grp s c.w) 157 153
/-- A pair read from the lowest executing thread. -/
def lowPair (s : State) (c : Cursor) (act : List Nat) (o : Opd) : W64 := w64 (src s c (act.headD 0) o true)
/-- What delivery of a pennant orders (R248, R129): an acquire at .pkg. -/
def pnAcquire (s : State) (c : Cursor) (got : Bool) : State := if got then pkgAcquire s c.w.core else s

/-- PNMASK. -/
def execPnmask (h : Hdr) (d a : Opd) (s : State) : Host.Outcome State Fault Refusal :=
  perPath (.pnmask h d a) h s fun c act s =>
    match pnOf s c with
    | none => .trap 0x124 0
    | some p =>
      let s := setPn s c { p with mask := lowPair s c act a }
      .ok (act.foldl (fun s l => dst s c l d true p.mask.toNat) s)

/-- PNPEND: PNPEND, or PNMASK with SEL. -/
def execPnpend (h : Hdr) (sel : Bool) (d : Opd) (s : State) : Host.Outcome State Fault Refusal :=
  perPath (.pnpend h sel d) h s fun c act s =>
    match pnOf s c with
    | none => .trap 0x124 0
    | some p =>
      let s := pnAcquire s c (!sel && p.pend != 0)
      .ok (act.foldl (fun s l => dst s c l d true (if sel then p.mask else p.pend).toNat) s)

/-- PNACK: one acknowledgement for the path (R242). -/
def execPnack (h : Hdr) (d : Opd) (n : W32) (s : State) : Host.Outcome State Fault Refusal :=
  perPath (.pnack h d n) h s fun c act s =>
    match pnOf s c with
    | none => .trap 0x124 0
    | some p =>
      let i := n.toNat
      if 63 < i then .trap 0x120 0
      else
        let v := p.pay.getD i 0
        let k := (p.cnt.getD i 0).toNat
        let got := p.pend.getLsbD i
        let s := setPn (pnAcquire s c got) c
          { p with pend := p.pend &&& ~~~(BitVec.ofNat 64 (2 ^ i)), pay := p.pay.setIfInBounds i 0, cnt := p.cnt.setIfInBounds i 0 }
        .ok (act.foldl (fun s l =>
          dstAt (dstAt (dstAt s c l d 0 (if got then lo32 v else 0)) c l d 1 (if got then hi32 v else 0)) c l d 2 (if got then w32 k else 0)) s)

/-- The lowest set bit. -/
def lowestBit (v : W64) : Nat := ((List.range 64).find? fun i => v.getLsbD i).getD 64

/-- PNWAIT: it returns 64 for an empty mask, and waits for a pending pennant of the mask. -/
def execPnwait (h : Hdr) (d a : Opd) (s : State) : Host.Outcome State Fault Refusal :=
  perPath (.pnwait h d a) h s fun c act s =>
    match pnOf s c with
    | none => .trap 0x124 0
    | some p =>
      if !isHandlerWarp s c then .trap 0x122 0
      else
        let m := lowPair s c act a
        if m = 0 then .ok (act.foldl (fun s l => dst s c l d false 64) s)
        else if p.pend &&& m ≠ 0 then
          let s := pnAcquire s c true
          .ok (act.foldl (fun s l => dst s c l d false (lowestBit (p.pend &&& m))) s)
        else .wait (.stall (.pnwait d m)) s

/-- PNRET: each executing thread returns as RET does, and k62 and k63 become 0; 121h looks at the lanes of the path. -/
def execPnret (h : Hdr) (s : State) : Host.Outcome State Fault Refusal :=
  let path := (s.cur.map (·.lanes)).getD 0
  perLane (.pnret h) h s fun c s l =>
    let x := (warpAt s c.w).getD {}
    let first := (s.cur.map (·.kfree)).getD true
    match pnOf s c with
    | none => .trap 0x124 0
    | some _ =>
      if !isHandlerWarp s c then .trap 0x122 0
      else if first && (!(x.kreg 63).getLsbD 31 || (x.kreg 62 &&& liveMask x &&& ~~~path) != 0) then .trap 0x121 0
      else
        match pop s c l with
        | (_, .error e) => .trap e.1 e.2
        | (s, .ok t) =>
          .ok (updWarp (setPc s c l t) c.w fun x => { x with k := (x.k.setIfInBounds 62 0).setIfInBounds 63 0 })

/-! ### Diversion (R249) -/

/-- The handler warp of a group. -/
def handlerWarp (s : State) (g : Group) : Option (WKey × Warp) :=
  (g.warps.filterMap fun w => (warpAt s w).map fun x => (w, x)).find? fun e => e.2.num == lrec s g 157 153

/-- A thread takes part in a diversion: it is Running, as one is whose instruction is still executing (02_execution_model.md R39,
17_reference_d_l.md R333), or in Watch sleep. -/
def divertible (t : Thread) : Bool := t.parkedBy.isNone && match t.st with | .sleep _ _ => true | _ => t.votes && !t.inh

/-- A thread about to be diverted leaves what it does: a sleep ends with reason 3; an instruction that issues again does so after the handler; a
release of tenure goes on by itself, and is complete for the thread. -/
def leaveFor (s : State) (w : WKey) (l : Nat) : State :=
  match (thrAt s w l).st with
  | .sleep d _ => endSleep s w l d 3
  | .stall (.trel _) => resumeLane s w l true
  | .stall (.beside _) => updThr s w l fun t => { t with st := .running, pc := t.pc + 12 }
  | .stall _ => updThr s w l fun t => { t with st := .running }
  | _ => s

/-- The conditions of R249; a path inside a block is diverted at the block's end (15_instruction_formats.md R300). -/
def mayDivert (s : State) (gid : Nat) : Bool :=
  match s.groups.get? gid with
  | none => false
  | some g =>
    match g.pn, handlerWarp s g with
    | some p, some (_, x) =>
      (p.pend &&& ~~~p.mask) != 0 && !(x.kreg 63).getLsbD 31 && x.th.toList.any divertible && x.th.toList.all (fun t => t.blk.isNone) &&
        (match g.pre with | .saving _ => false | _ => true)
    | _, _ => false

/-- The mode in which a thread's next instruction runs: that of its page (18_reference_m_s.md R379). -/
def nextUser (s : State) (core ctx : Nat) (t : Thread) : Bool :=
  match (translate s (some core) (dieOf core) ctx t.pc.toNat).2 with
  | .ok p => p.u
  | .error _ => t.fromUser.getD false

/-- One thread is diverted, or traps as a CALL at its next instruction would. -/
def divertLane (w : WKey) (entry : W64) (acc : State × List Nat × List (W64 × TrapOf)) (l : Nat) : State × List Nat × List (W64 × TrapOf) :=
  let s := acc.1
  let s := leaveFor s w l
  let t := thrAt s w l
  let c : Cursor := { w := w, lanes := maskOf (· == l), pc := t.pc, user := nextUser s w.core (grp s w).ctx t }
  match push s c l t.pc with
  | (s', .ok _) => (updThr s' w l fun t => { t with pc := entry, wait := 0 }, acc.2.1 ++ [l], acc.2.2)
  | (_, .error e) => (s, acc.2.1, acc.2.2 ++ [(t.pc, { lane := l, code := e.1, addr := e.2 })])

/-- Diverts the handler warp of a group (R249). -/
def divert (s : State) (gid : Nat) : State :=
  if !mayDivert s gid then s
  else
    match s.groups.get? gid with
    | none => s
    | some g =>
      match handlerWarp s g with
      | none => s
      | some (w, x) =>
        let n := lowestBit ((g.pn.getD {}).pend &&& ~~~(g.pn.getD {}).mask)
        let ls := (List.range 32).filter fun l => divertible (x.thr l)
        let r := ls.foldl (divertLane w (w64 (lrec s g 255 192))) (pkgAcquire s w.core, [], [])
        let s := if r.2.1.isEmpty then r.1
          else updWarp r.1 w fun x => { x with k := (x.k.setIfInBounds 62 (maskOf r.2.1.contains)).setIfInBounds 63 (w32 (2 ^ 31 + n)) }
        ((r.2.2.map (·.1)).eraseDups).foldl (fun s pc => takeTraps s w pc ((r.2.2.filter fun e => e.1 == pc).map (·.2))) s

/-- PENNANT_DIVERSION (R249). -/
def execPennantDiversion (gid : Nat) (s : State) : Host.Outcome State Fault Refusal := done (divert s gid)

end Sys2Proof.Machine
end

