-- ==== Sys2Proof/Machine/Collective.lean ====
section
/-! DEFINITION. Halyard collectives, links and time alignment (10_halyard_collectives.md R203 to R214, 17_reference_d_l.md R343, R344). -/
namespace Sys2Proof.Machine

/-! ### Descriptors and entries -/

/-- A command descriptor (Table 10.3). -/
abbrev Dsc := BitVec 512

namespace Dsc
/-- CE. -/
def ce (d : Dsc) : Nat := bits d 7 0
/-- RS. -/
def rs (d : Dsc) : Bool := d.getLsbD 8
/-- CARRY. -/
def carry (d : Dsc) : Bool := d.getLsbD 9
/-- FMT. -/
def fmt (d : Dsc) : Nat := bits d 13 10
/-- TAG. -/
def tag (d : Dsc) : Nat := bits d 31 20
/-- COUNT. -/
def count (d : Dsc) : Nat := bits d 63 32
/-- SRC. -/
def src (d : Dsc) : Nat := bits d 127 64
/-- DST. -/
def dst (d : Dsc) : Nat := bits d 191 128
/-- SCOPE. -/
def scope (d : Dsc) : Scope := (Scope.ofCode (BitVec.ofNat 3 (bits d 16 14))).getD .pkg
/-- Bytes of an element of the source. -/
def elem (d : Dsc) (kind : Nat) : Nat := if kind = 0 then (if fmt d = 0xA then 2 else 4) else 1
/-- E (R209). -/
def seg (d : Dsc) (n : Nat) : Nat := (count d + n - 1) / n
/-- Bytes of the destination (R206). -/
def dstBytes (d : Dsc) (kind n : Nat) : Nat :=
  match kind with
  | 0 => if rs d then seg d n * elem d 0 else count d * elem d 0
  | 1 => n * count d
  | _ => count d

/-- A malformed descriptor (R206): 10Bh. -/
def malformed (d : Dsc) (kind n : Nat) : Bool :=
  let el := if kind = 0 then elem d 0 else 64
  let sb := count d * elem d kind
  d.getLsbD 19 || bits d 511 192 != 0 || 4 < bits d 16 14 || (kind != 0 && bits d 13 8 != 0) ||
  (kind == 0 && ((fmt d != 8 && fmt d != 0xA) || (carry d && fmt d == 8) || count d == 0 || 2 ^ 26 < count d)) ||
  (kind != 0 && (count d % 64 != 0 || count d < 64 || 2 ^ 28 < count d)) || src d % el != 0 || dst d % el != 0 ||
  2 ^ 57 ≤ src d || 2 ^ 57 ≤ dst d ||
  (src d < dst d + dstBytes d kind n && dst d < src d + sb && !(kind == 0 && !rs d && src d == dst d))
end Dsc

/-- A collective table entry (Table 10.2). -/
abbrev HEnt := BitVec 512

namespace HEnt
/-- N. -/
def n (e : HEnt) : Nat := bits e 13 1 + 1
/-- POS. -/
def pos (e : HEnt) : Nat := bits e 28 16
/-- COLLID. -/
def collid (e : HEnt) : Nat := bits e 95 64
/-- The identity at a position of the rank list. -/
def rank (s : State) (e : HEnt) (p : Nat) : Nat := ofBytes (devRead s (bits e 179 128 + 2 * p) 2)
/-- Unusable by what the entry itself holds (R205): 10Ch. -/
def bad (e : HEnt) (ctx : Nat) : Bool :=
  !e.getLsbD 0 || bits e 15 14 != 0 || bits e 31 29 != 0 || bits e 63 48 != 0 || bits e 127 96 != 0 || bits e 191 180 != 0 ||
  bits e 511 197 != 0 || n e ≤ pos e || bits e 47 32 != ctx
end HEnt

/-- The address of an entry of a die (R205). -/
def collAddr (s : State) (die ce : Nat) : Nat := bits (s.hlctbase.getD die 0) 51 14 * 2 ^ 14 + 64 * ce

/-! ### Commands -/

/-- The commands of a die. -/
def collOf (s : State) (die : Nat) : List HCmd := s.coll.getD die []
/-- Sets the commands of a die. -/
def setColl (s : State) (die : Nat) (q : List HCmd) : State := { s with coll := s.coll.setIfInBounds die q }
/-- A command of a die. -/
def collCmd (s : State) (die id : Nat) : Option HCmd := (collOf s die).find? fun x => x.id == id
/-- Changes a command of a die. -/
def updColl (s : State) (die id : Nat) (f : HCmd → HCmd) : State :=
  setColl s die ((collOf s die).map fun x => if x.id == id then f x else x)

namespace HCmd
/-- N. -/
def n (x : HCmd) : Nat := HEnt.n x.ent
/-- The package's position. -/
def pos (x : HCmd) : Nat := HEnt.pos x.ent
/-- The position of the successor. -/
def next (x : HCmd) : Nat := (pos x + 1) % n x
/-- For whom the command accesses memory. -/
def agent (x : HCmd) (die : Nat) : Agent :=
  { core := none, die := die, ctx := x.ctx, gid := x.gid, user := x.user, cmd := x.id, hint := x.hint }
/-- Partials travel as FP32 but under BF16 carry (R209). -/
def partBytes (x : HCmd) : Nat := if Dsc.carry x.dsc then 2 else 4
/-- Elements of a chunk of partials of 2,048 bytes; for other kinds, bytes of a chunk. -/
def per (x : HCmd) : Nat := if x.kind = 0 then 2048 / partBytes x else 2048
/-- Elements of segment q: of the reduction, or a rank's whole source. -/
def segLen (x : HCmd) (q : Nat) : Nat :=
  if x.kind = 0 then
    let e := Dsc.seg x.dsc (n x)
    min ((q + 1) * e) (Dsc.count x.dsc) - q * e
  else Dsc.count x.dsc
/-- Chunks of segment q. -/
def chunksOf (x : HCmd) (q : Nat) : Nat := (segLen x q + per x - 1) / per x
/-- Elements of chunk i of segment q. -/
def chunkLen (x : HCmd) (q i : Nat) : Nat := min (per x) (segLen x q - i * per x)
/-- The segment whose first contribution is the package's own (R209), or its own data. -/
def ownSeg (x : HCmd) : Nat := if x.kind = 0 then (pos x + n x - 1) % n x else pos x
/-- Chunks that the package starts. -/
def ownChunks (x : HCmd) : Nat := chunksOf x (ownSeg x)
/-- Chunks that the predecessor sends. -/
def expected (x : HCmd) : Nat :=
  if n x = 1 then 0
  else
    let sum := fun (skip : Nat) => ((List.range (n x)).filter (· != skip)).foldl (fun a q => a + chunksOf x q) 0
    match x.kind with
    | 0 => sum (ownSeg x) + (if Dsc.rs x.dsc then 0 else sum (pos x))
    | 1 => sum (pos x)
    | _ => chunksOf x 0
/-- The source address of chunk i of segment q. -/
def srcAt (x : HCmd) (q i : Nat) : Nat :=
  if x.kind = 0 then Dsc.src x.dsc + (q * Dsc.seg x.dsc (n x) + i * per x) * Dsc.elem x.dsc 0 else Dsc.src x.dsc + i * per x
/-- The destination address of chunk i of segment q. -/
def dstAt (x : HCmd) (q i : Nat) : Nat :=
  match x.kind with
  | 0 => Dsc.dst x.dsc + ((if Dsc.rs x.dsc then 0 else q * Dsc.seg x.dsc (n x)) + i * per x) * Dsc.elem x.dsc 0
  | 1 => Dsc.dst x.dsc + q * Dsc.count x.dsc + i * per x
  | _ => Dsc.dst x.dsc + i * per x
/-- Bytes of chunk i of segment q at the source or the destination. -/
def memBytes (x : HCmd) (q i : Nat) : Nat := chunkLen x q i * Dsc.elem x.dsc x.kind
/-- The port toward the successor. -/
def port (x : HCmd) (die : Nat) : Nat := 4 * die + (if x.alt then bits x.ent 195 194 else bits x.ent 193 192)
end HCmd

/-- A command ends (R213): its status is kept, and its implicit place among the die's commands is free. -/
def endColl (s : State) (die : Nat) (x : HCmd) (code : Nat) : State :=
  let st : HStatus :=
    { die := die, collid := HEnt.collid x.ent, ordinal := x.ordinal, ctx := x.ctx, tag := Dsc.tag x.dsc, id := x.id, code := code
      reroutes := x.reroutes }
  let s := if isSoft code then markSoft s else s
  let s := cmdRelease s die (x.dsc.getLsbD 18 && code == 0) (Dsc.scope x.dsc)
  { setColl s die ((collOf s die).filter fun y => y.id != x.id) with collStat := s.collStat ++ [st] }

/-- Sends every unacknowledged chunk again over the alternate port and counts a reroute, each time where it is up, or fails with 10Dh (R211,
log 70). -/
def reroute (s : State) (die id : Nat) : State :=
  match collCmd s die id with
  | none => s
  | some x =>
    let p := 4 * die + bits x.ent 195 194
    if x.ent.getLsbD 196 && (s.ports.getD p {}).up then
      let s := updColl s die id fun x =>
        { x with alt := true, reroutes := min 255 (x.reroutes + 1), unacked := x.unacked.map fun u => ({ u.1 with port := p }, s.cycle) }
      x.unacked.foldl (fun s u => emit s p (.chunk { u.1 with port := p })) s
    else endColl s die x 0x10D

/-- Sends a chunk to the successor (R211). -/
def sendChunk (s : State) (die id phase seg index : Nat) (data : List Byte) : State :=
  match collCmd s die id with
  | none => s
  | some x =>
    let p := x.port die
    let m : ChunkMsg :=
      { port := p, dst := x.succ, collid := HEnt.collid x.ent, ordinal := x.ordinal, kind := x.kind, count := Dsc.count x.dsc, fmt := Dsc.fmt x.dsc
        carry := Dsc.carry x.dsc, seq := x.seq % 2 ^ 32, phase := phase, seg := seg, index := index, data := data }
    let s := updColl s die id fun x => { x with seq := x.seq + 1, unacked := x.unacked ++ [(m, s.cycle)] }
    if (s.ports.getD p {}).up then emit s p (.chunk m) else reroute s die id

/-- A chunk's accesses fail (R212): a recoverable fault stops the command and is reported; any other failure ends it. -/
def collFails (s : State) (die id va code : Nat) : State :=
  match collCmd s die id with
  | none => s
  | some x =>
    if code = 0x060 then
      let r : FaultRec :=
        { code := code, kind := 3, recov := true, addr := w64 va, ipc := x.pc, ctx := x.ctx, core := x.w.core, slot := x.w.slot, quad := x.w.quad
          obj := Dsc.ce x.dsc, cmd := some id, gid := x.gid }
      postFault (updColl s die id fun x => { x with stopped := true }) die r
    else endColl s die x code

/-- Reaches the bytes of a chunk: its reads and its writes, and 0A9h for a page that is not cacheable Scarp memory (R212). -/
def collPages (s : State) (die : Nat) (x : HCmd) (rds wrs : List Nat) : State × PageMap × Option (Nat × Nat) :=
  let a := x.agent die
  let r := a.pages s (rds ++ wrs)
  let wrong := (rds ++ wrs).find? fun va => match r.2.at va with | .ok p => !p.c || p.host | .error _ => false
  (r.1, r.2, lowest (a.failure r.1 r.2 rds wrs) (wrong.map fun va => (va, 0x0A9)))

/-- Bytes of elements of n bytes. -/
def elemBytes (n : Nat) (vs : List Nat) : List Byte := vs.flatMap (toBytes n)
/-- Elements of n bytes. -/
def elemsOf (n : Nat) (bs : List Byte) : List Nat := (List.range (bs.length / n)).map fun i => ofBytes ((bs.drop (n * i)).take n)

/-- The first contribution as a partial (R209): widened exactly under FP32 carry. -/
def firstPartial (x : HCmd) (bs : List Byte) : List Byte :=
  if Dsc.carry x.dsc || Dsc.fmt x.dsc == 8 then bs
  else elemBytes 4 ((elemsOf 2 bs).map fun v => Num.rne .f32 (Num.ofFloat .bf16 v))
/-- One hop of the reduction (R209). -/
def addPartial (x : HCmd) (part own : List Byte) : List Byte :=
  let f : Fmt := if Dsc.carry x.dsc then .bf16 else .f32
  let src : Fmt := if Dsc.fmt x.dsc = 8 then .f32 else .bf16
  let n := x.partBytes
  elemBytes n (((elemsOf n part).zip (elemsOf (Dsc.elem x.dsc 0) own)).map fun p =>
    Num.rne f (Num.addFV (Num.ofFloat f p.1) (Num.ofFloat src p.2)))
/-- The result of a segment's elements from their last partials. -/
def finalPartial (x : HCmd) (part : List Byte) : List Byte :=
  if Dsc.fmt x.dsc == 0xA && !Dsc.carry x.dsc then elemBytes 2 ((elemsOf 4 part).map fun v => Num.rne .bf16 (Num.ofFloat .f32 v)) else part

/-- The command's next own chunk (R209, R210): read, copied where its own data belongs, and sent when there is another rank. -/
def ownStep (s : State) (die : Nat) (x : HCmd) : State :=
  let q := x.ownSeg
  let i := x.own
  let rds := span (x.srcAt q i) (x.memBytes q i)
  let local_ := x.kind == 1 || x.n == 1
  let wrs := if local_ then span (x.dstAt q i) (x.memBytes q i) else []
  match collPages s die x rds wrs with
  | (s, _, some e) => collFails s die x.id e.1 e.2
  | (s, ps, none) =>
    let a := x.agent die
    let r := a.read s ps rds
    let s := if local_ then a.write r.1 ps (wrs.zip r.2) else r.1
    let s := updColl s die x.id fun x => { x with own := x.own + 1 }
    if x.n == 1 then s
    else sendChunk s die x.id (if x.kind = 0 then 0 else 2) q i (if x.kind = 0 then firstPartial x r.2 else r.2)

/-- A chunk that the command can take is well formed for it. -/
def chunkFits (x : HCmd) (m : ChunkMsg) : Bool :=
  m.seg < x.n && m.index < x.chunksOf m.seg &&
    (if x.kind = 0 then (m.phase == 0 && m.data.length == x.chunkLen m.seg m.index * x.partBytes && m.seg != x.ownSeg) ||
      (m.phase == 1 && !Dsc.rs x.dsc && m.data.length == x.memBytes m.seg m.index && m.seg != x.pos)
     else m.phase == 2 && m.data.length == x.memBytes m.seg m.index && m.seg != x.pos)

/-- What an accepted chunk does (R209, R210). -/
def takeChunk (s : State) (die : Nat) (x : HCmd) (m : ChunkMsg) : State :=
  let partial' := x.kind == 0 && m.phase == 0
  let last := partial' && m.seg == x.pos
  let mem := x.memBytes m.seg m.index
  let rds := if partial' then span (x.srcAt m.seg m.index) mem else []
  let wrs := if last || !partial' then span (x.dstAt m.seg m.index) mem else []
  match collPages s die x rds wrs with
  | (s, _, some e) =>
    let s := { s with collHeld := s.collHeld ++ [m] }
    collFails s die x.id e.1 e.2
  | (s, ps, none) =>
    let a := x.agent die
    let own := a.read s ps rds
    let s := updColl own.1 die x.id fun x => { x with seen := m.seq :: x.seen, last := s.cycle }
    let s := emit s m.port (.ack m.port m.collid m.ordinal m.seq)
    if partial' then
      let v := addPartial x m.data own.2
      if last then
        let out := finalPartial x v
        let s := a.write s ps (wrs.zip out)
        if Dsc.rs x.dsc then s else sendChunk s die x.id 1 m.seg m.index out
      else sendChunk s die x.id 0 m.seg m.index v
    else
      let s := a.write s ps (wrs.zip m.data)
      if x.kind == 2 || x.next == m.seg then s else sendChunk s die x.id m.phase m.seg m.index m.data

/-- A chunk for a die (R208, R211): taken by its command, acknowledged again when it has been taken before, held back while its command
has not started, or discarded. -/
def offerChunk (s : State) (die : Nat) (m : ChunkMsg) : State :=
  match (collOf s die).find? fun x => HEnt.collid x.ent == m.collid && x.ordinal == m.ordinal with
  | some x =>
    if !x.started || x.stopped then { s with collHeld := s.collHeld ++ [m] }
    else if m.kind != x.kind || m.count != Dsc.count x.dsc || m.fmt != Dsc.fmt x.dsc || m.carry != Dsc.carry x.dsc then endColl s die x 0x10E
    else if x.seen.contains m.seq then emit s m.port (.ack m.port m.collid m.ordinal m.seq)
    else if chunkFits x m then takeChunk s die x m
    else s
  | none =>
    match s.collStat.find? fun e => e.die == die && e.collid == m.collid && e.ordinal == m.ordinal with
    | some e => if e.code = 0 then emit s m.port (.ack m.port m.collid m.ordinal m.seq) else s
    | none => { s with collHeld := s.collHeld ++ [m] }

/-- Offers the chunks held back on a die again. -/
def offerHeld (s : State) (die : Nat) : State :=
  let mine := s.collHeld.filter fun m => m.port / 4 == die
  mine.foldl (fun s m => offerChunk s die m) { s with collHeld := s.collHeld.filter fun m => m.port / 4 != die }

/-- The oldest command of its entry starts (R208, R126); with other ranks and its port down it is rerouted or fails (R211). -/
def startColl (s : State) (die : Nat) (x : HCmd) : State :=
  let s := if x.dsc.getLsbD 17 then drainAll s x.w.core else s
  let s := updColl s die x.id fun x => { x with started := true, last := s.cycle }
  if x.n == 1 || (s.ports.getD (x.port die) {}).up then s else reroute s die x.id

/-- A command advances by one of its own chunks. -/
def ownTurn (s : State) (die id : Nat) : State :=
  match collCmd s die id with
  | none => s
  | some x => if x.started && !x.stopped && x.own < x.ownChunks then ownStep s die x else s

/-- A command has done everything (R211, R126). -/
def collFinished (s : State) (x : HCmd) : Bool :=
  x.started && x.own == x.ownChunks && x.seen.length == x.expected && x.unacked.isEmpty && !(x.dsc.getLsbD 18 && cmdHeld s x.id)

/-- The command that runs on its entry: the oldest (R208). -/
def runsNow (s : State) (die : Nat) (x : HCmd) : Bool :=
  (collOf s die).all fun y => Dsc.ce y.dsc != Dsc.ce x.dsc || x.id ≤ y.id

/-- One round of a die's engine: commands end and start, each entry's command takes a turn of one chunk in increasing entry index (R208), and the
chunks held back are offered. -/
def collRun (s : State) (die : Nat) : State :=
  let s := (collOf s die).foldl (fun s x => if collFinished s x then endColl s die x 0 else s) s
  let ready := (collOf s die).filter (runsNow s die)
  let order := (List.range 256).flatMap fun ce => ready.filter fun x => Dsc.ce x.dsc == ce
  let s := order.foldl (fun s x => ownTurn (if x.started then s else startColl s die x) die x.id) s
  let s := offerHeld s die
  (collOf s die).foldl (fun s x => if collFinished s x then endColl s die x 0 else s) s

/-! ### HLRED, HLGATH and HLROT -/

/-- The command with a descriptor and an entry that a thread's path issued takes its place in the die's queue (R207). -/
def hlEnqueue (s : State) (w : WKey) (user : Bool) (pc : W64) (kind : Nat) (dsc : Dsc) (ent : HEnt) (hint : BitVec 2) : State :=
  let die := dieOf w.core
  let key := 256 * die + Dsc.ce dsc
  let ord := s.collOrd.getD key 0 + 1
  let x : HCmd :=
    { id := s.nextId, kind := kind, dsc := dsc, ent := ent, succ := HEnt.rank s ent ((HEnt.pos ent + 1) % HEnt.n ent), ordinal := ord
      ctx := (grp s w).ctx, gid := gidOf s w, user := user, w := w, pc := pc, hint := hint }
  let s := { s with nextId := s.nextId + 1, collOrd := s.collOrd.put key ord }
  collRun (setColl s die (collOf s die ++ [x])) die

/-- The die's queue has a place. -/
def hlRoom (s : State) (w : WKey) : Bool := (collOf s (dieOf w.core)).length < 16

/-- The issue of a collective command (R207): the descriptor and the entry are read once, before a wait for the queue; with ACQUIRE what lies
behind the releases that its threads have read is drained (05_consistency.md R126). -/
def hlIssue (kind : Nat) (d a : Opd) (c : Cursor) (act : List Nat) (s : State) : LRes :=
  match pairAcc s c (act.headD 0) a 64 false with
  | (_, .error e) => .trap e.1 e.2
  | (s, .ok acc) =>
    if !scarpPage acc then .trap 0x0A9 acc.va
    else
      let r := loadBytes s c.w (act.headD 0) acc plainHint false
      let dsc : Dsc := BitVec.ofNat 512 (ofBytes r.2)
      let die := dieOf c.w.core
      let ctx := (grp s c.w).ctx
      let at_ := collAddr s die (Dsc.ce dsc)
      let s := devCheck r.1 at_ 64
      let ent : HEnt := BitVec.ofNat 512 (ofBytes (devRead s at_ 64))
      if Dsc.malformed dsc kind (HEnt.n ent) then .trap 0x10B 0
      else if HEnt.bad ent ctx then .trap 0x10C 0
      else
        let s := devCheck s (bits ent 179 128) (2 * HEnt.n ent)
        if HEnt.rank s ent (HEnt.pos ent) ≠ s.hlpkgid.toNat then .trap 0x10C 0
        else
          let s := if dsc.getLsbD 17 then drainSeen s c.w act else s
          if !hlRoom s c.w then .wait (.stall (.collRoom d kind c.user dsc ent plainHint c.lanes)) s
          else .ok (act.foldl (fun s l => dst s c l d false 0) (hlEnqueue s c.w c.user c.pc kind dsc ent plainHint))

/-- HLRED (17_reference_d_l.md R343). -/
def execHlred (h : Hdr) (d a : Opd) (s : State) : Host.Outcome State Fault Refusal :=
  perPath (.hlred h d a) h s (hlIssue 0 d a)
/-- HLGATH (R343). -/
def execHlgath (h : Hdr) (d a : Opd) (s : State) : Host.Outcome State Fault Refusal :=
  perPath (.hlgath h d a) h s (hlIssue 1 d a)
/-- HLROT (R343). -/
def execHlrot (h : Hdr) (d a : Opd) (s : State) : Host.Outcome State Fault Refusal :=
  perPath (.hlrot h d a) h s (hlIssue 2 d a)

/-! ### HLWAIT and HLSTAT (R213, R344) -/

/-- The commands of a context with a tag on a die, ended or not, in issue order. -/
def tagged (s : State) (die ctx tag : Nat) : List Nat :=
  let done := (s.collStat.filter fun e => e.die == die && e.ctx == ctx && e.tag == tag).map (·.id)
  let open_ := ((collOf s die).filter fun x => x.ctx == ctx && Dsc.tag x.dsc == tag).map (·.id)
  (done ++ open_).mergeSort (· ≤ ·)

/-- Some of the commands have not ended. -/
def collOpen (s : State) (die : Nat) (ids : List Nat) : Bool := (collOf s die).any fun x => ids.contains x.id

/-- HLWAIT's value: the code of the first failed command in issue order. -/
def collStatus (s : State) (ids : List Nat) : Nat :=
  let code := fun (id : Nat) => ((s.collStat.find? fun e => e.id == id).map (·.code)).getD 0
  match ids.find? fun id => code id != 0 with
  | some id => 0x200 + code id
  | none => 0

/-- The status word of the last command (Table 10.4). -/
def statusWord (s : State) (die : Nat) (ids : List Nat) : Nat :=
  match ids.getLast? with
  | none => 4
  | some id =>
    match s.collStat.find? fun e => e.id == id with
    | some e => 1 + (if e.code = 0 then 0 else 2) + 256 * e.reroutes + 65536 * e.code
    | none => 256 * ((collCmd s die id).map (·.reroutes)).getD 0

/-- HLWAIT. -/
def execHlwait (h : Hdr) (d a : Opd) (s : State) : Host.Outcome State Fault Refusal :=
  perPath (.hlwait h d a) h s fun c act s =>
    let w := kval s c a 0
    if natBits w 31 12 ≠ 0 then .trap 0x10B 0
    else
      let die := dieOf c.w.core
      let ids := tagged s die (grp s c.w).ctx w
      if collOpen s die ids then .wait (.stall (.coll d ids)) s
      else .ok (act.foldl (fun s l => observe (dst s c l d false (collStatus s ids)) c.w l) s)

/-- HLSTAT. -/
def execHlstat (h : Hdr) (d a : Opd) (s : State) : Host.Outcome State Fault Refusal :=
  perPath (.hlstat h d a) h s fun c act s =>
    let w := kval s c a 0
    if natBits w 31 12 ≠ 0 then .trap 0x10B 0
    else
      let die := dieOf c.w.core
      let v := statusWord s die (tagged s die (grp s c.w).ctx w)
      .ok (act.foldl (fun s l => let s := dst s c l d false v; if v % 2 = 1 then observe s c.w l else s) s)

/-! ### Chunks, acknowledgements and timeouts -/

/-- COLLECTIVE_CHUNK_ARRIVAL (R208, R209, R211). -/
def execCollectiveChunkArrival (m : ChunkMsg) (s : State) : Host.Outcome State Fault Refusal :=
  let die := m.port / 4
  done (collRun (offerChunk s die m) die)

/-- COLLECTIVE_CHUNK_ACK (R211). -/
def execCollectiveChunkAck (port collid ordinal seq : Nat) (s : State) : Host.Outcome State Fault Refusal :=
  let die := port / 4
  match (collOf s die).find? fun x => HEnt.collid x.ent == collid && x.ordinal == ordinal with
  | some x => done (collRun (updColl s die x.id fun x => { x with unacked := x.unacked.filter fun u => u.1.seq != seq }) die)
  | none => done s

/-- A command has a chunk that has gone unacknowledged for 2^20 cycles. -/
def ackLate (s : State) (x : HCmd) : Bool := x.unacked.any fun u => u.2 + 2 ^ 20 ≤ s.cycle

/-- CHUNK_ACK_TIMEOUT (R211). -/
def execChunkAckTimeout (die : Nat) (s : State) : Host.Outcome State Fault Refusal :=
  done (collRun (((collOf s die).filter (ackLate s)).foldl (fun s x => reroute s die x.id) s) die)

/-- A command has received nothing from its predecessor for 2^24 cycles. -/
def predLate (s : State) (x : HCmd) : Bool := x.started && x.last + 2 ^ 24 ≤ s.cycle

/-- PREDECESSOR_TIMEOUT (R211). -/
def execPredecessorTimeout (die : Nat) (s : State) : Host.Outcome State Fault Refusal :=
  done (collRun (((collOf s die).filter (predLate s)).foldl (fun s x => endColl s die x 0x10F) s) die)

/-! ### Links (R203, R204) -/

/-- Changes a port. -/
def updPort (s : State) (p : Nat) (f : HPort → HPort) : State := { s with ports := s.ports.setIfInBounds p (f (s.ports.getD p {})) }

/-- A port is down with so many lanes trained, and the commands that use it are sent over the alternate or fail (R203, R211). -/
def linkLost (s : State) (port lanes : Nat) : State :=
  let s := updPort s port fun p => { p with up := false, ver := 0, downev := p.downev || p.up, lanes := lanes, failed := 0 }
  let die := port / 4
  let hit := (collOf s die).filter fun x => x.started && x.n != 1 && x.port die == port
  hit.foldl (fun s x => reroute s die x.id) s

/-- LINK_UP: the device sends its bitmap 0006h, and both sides adopt the highest version in both; a link carries with four trained lanes, and a
port that keeps fewer is down (R203, R204). -/
def execLinkUp (port versions lanes : Nat) (s : State) : Host.Outcome State Fault Refusal :=
  if lanes < 4 then done (if (s.ports.getD port {}).up then linkLost s port lanes else updPort s port fun p => { p with lanes := lanes })
  else
    let s := emit s port (.versions port 0x0006)
    let v := if natBit versions 2 then 2 else if natBit versions 1 then 1 else 0
    if v = 0 then done (updPort s port fun p => { p with nover := true, lanes := 4 })
    else done (updPort s port fun p => { p with up := true, ver := v, lanes := 4, failed := 0 })

/-- LINK_DOWN. The lanes still trained are not given: a free value (log 4). -/
def execLinkDown (port : Nat) (s : State) : Host.Outcome State Fault Refusal :=
  let f := free s
  done (linkLost f.2 port (f.1 % 5))

/-- FLIT_RETRY (R203): a flit is sent again, `failed` where a retry of the same flit has failed; after eight such failures the link is down. -/
def execFlitRetry (flit : FlitTry) (s : State) : Host.Outcome State Fault Refusal :=
  let n := if flit.failed then (s.ports.getD flit.port {}).failed + 1 else 0
  if 8 ≤ n then execLinkDown flit.port s else done (updPort s flit.port fun p => { p with retry := min 0xFFFF (p.retry + 1), failed := n })

/-! ### Time alignment (R214) -/

/-- K is legal (Table 10.1). -/
def timeK (r : W32) : Nat := bits r 11 7
/-- An exchange is due in this cycle. DESIGN CHOICE (log 37): R214 gives the period 2^K and no origin; the exchanges lie at counts that are
multiples of it. -/
def timeDue (s : State) : Bool :=
  s.hltctl.getLsbD 0 && !s.hltctl.getLsbD 1 && 16 ≤ timeK s.hltctl && timeK s.hltctl ≤ 28 && s.cycle % 2 ^ timeK s.hltctl == 0

/-- TIME_ALIGN_EXCHANGE: a request leaves stamped with the count; a version 1 link makes no exchange and sets VERERR. -/
def execTimeAlignExchange (s : State) : Host.Outcome State Fault Refusal :=
  let p := bits s.hltctl 6 2
  let q := s.ports.getD p {}
  if !q.up then done s
  else if q.ver = 1 then done { s with hltctl := s.hltctl ||| 0x1000#32 }
  else done (emit s p (.timeRequest p (w64 s.cycle)))

/-- TIME_ALIGN_REQUEST: a master stamps the arrival and the departure of its reply. -/
def execTimeAlignRequest (port : Nat) (t1 : W64) (s : State) : Host.Outcome State Fault Refusal :=
  if s.hltctl.getLsbD 0 && s.hltctl.getLsbD 1 && (s.ports.getD port {}).up && (s.ports.getD port {}).ver == 2 then
    done (emit s port (.timeReply port t1 (w64 s.cycle) (w64 s.cycle)))
  else done s

/-- TIME_ALIGN_REPLY: HLTDLY and HLTOFF, rounded toward zero. DESIGN CHOICE (log 37): R214 stamps the arrivals t2 and t4 and does not tell the
crossing from the applied cycle; both are the applied cycle. -/
def execTimeAlignReply (t1 t2 t3 : W64) (s : State) : Host.Outcome State Fault Refusal :=
  let t4 := w64 s.cycle
  let there : Int := (t2 - t1).toInt
  let back : Int := (t4 - t3).toInt
  done { s with hltdly := w32 (wrap (Int.tdiv (there + back) 2) 32), hltoff := w64 (wrap (Int.tdiv (there - back) 2) 64) }

end Sys2Proof.Machine
end

