-- ==== Sys2Proof/Machine/Preempt.lean ====
section
/-! DEFINITION. Pre-emption, save and restore, suspension, the disposal of fault records (11_traps_and_preemption.md R228 to R240), register
deadlock (03_work_scheduling.md R83) and the scheduler's grant (R69, R70). -/
namespace Sys2Proof.Machine

/-! ### Modes of pre-emption (R233) -/

/-- The drain window in cycles. -/
def drainWindow (s : State) : Nat := bits s.preemptWin 15 0 * 64

/-- Flush-and-restart applies to a group (R233). -/
def mayFlush (s : State) (gid : Nat) (g : Group) : Bool :=
  lrec s g 139 139 == 1 && ageOf s g < bits s.preemptWin 31 16 * 64 && !(s.ten.any fun e => e.2.gid == gid && e.2.st != 0) &&
  (engineOf s g.core).owner != some gid && (copiesOf s gid).isEmpty && (match g.pn with | some p => p.pend == 0 | none => true) && !g.tainted

/-- A drain is expected to end in time. -/
def mayDrain (s : State) (g : Group) : Bool :=
  let m := ((launchOf s g.lti).map (·.m)).getD 0
  0 < m && (m : Int) - (ageOf s g : Int) ≤ (drainWindow s : Int)

/-- A save begins (R234 step 1): issue stops, and an engine whose command has not started, or has only its release to make, is at a boundary
already and takes no step (08_tensor_engines.md R183). -/
def startSave (s : State) (gid reason : Nat) : State :=
  match s.groups.get? gid with
  | none => s
  | some g =>
    let s := updGroup s gid fun g => { g with pre := .saving reason }
    let e := engineOf s g.core
    let idle := match e.queue with | x :: _ => !x.started || decide (x.nstep ≤ x.done) | [] => true
    if e.owner == some gid && idle && !e.queue.isEmpty then updEngine s g.core fun e => { e with stop := true } else s

/-- Warps of a group that are still there, by place. -/
def liveWarps (s : State) (g : Group) : List (WKey × Warp) := g.warps.filterMap fun w => (warpAt s w).map fun x => (w, x)

/-- The group leaves its core: its slots, registers and scratch are free. -/
def vacate (s : State) (gid : Nat) (g : Group) : State :=
  let s := disown s g.warps.contains
  { s with
    warps := s.warps.filter fun e => e.2.gid != gid
    groups := s.groups.del gid
    grow := s.grow.map fun e => (e.1, e.2.filter fun q => q.gid != gid)
    issue := s.issue.filter fun q => !g.warps.contains q.w
    preTargets := s.preTargets.filter (· != gid) }

/-- A flush (R235): the group's state is discarded, its frames are kept, and its original record is pushed again. -/
def flushGroup (s : State) (gid : Nat) (g : Group) : State :=
  let frames := (liveWarps s g).map fun e => (e.2.num, e.2.frame)
  let s := { s with flushed := s.flushed ++ [(g.rcd, g.ctx, frames, ageOf s g)] }
  pushRcd (vacate s gid g) (dieOf g.core) g.ctx g.rcd none

/-- One targeted group (R233): drain, flush or save. -/
def preemptGroup (s : State) (gid : Nat) : State :=
  match s.groups.get? gid with
  | none => s
  | some g =>
    match g.pre with
    | .saving _ => s
    | _ =>
      if mayDrain s g then updGroup s gid fun g => { g with pre := .draining (s.cycle + drainWindow s) }
      else if mayFlush s gid g then flushGroup s gid g
      else startSave s gid 1

/-- A request takes effect on some groups (R231). -/
def preemptAll (s : State) (test : Group → Bool) : State :=
  let ids := (s.groups.filter fun e => test e.2 && !e.2.ending).map (·.1)
  ids.foldl preemptGroup { s with preTargets := ids }

/-- BUSY (Table 11.5): targeted groups remain, or records of a suspended context are not on its list yet. -/
def preemptBusy (s : State) : Bool :=
  s.preTargets.any (fun i => (s.groups.get? i).isSome) ||
    match s.preSuspend with
    | some c => !(ctxOf s c).heldWait.isEmpty
    | none => false

/-- BUSY clears. -/
def preemptDone (s : State) : State :=
  let waits := s.timed.any fun e => match e.2 with | .preemptContext _ | .preemptCore _ | .preemptSuspend _ => true | _ => false
  if s.preempt.getLsbD 30 && !waits && !preemptBusy s then { s with preempt := s.preempt &&& ~~~0x40000000#32, preTargets := [], preSuspend := none } else s

/-- PREEMPT_CONTEXT (R231, R233). -/
def execPreemptContext (ctx : Nat) (s : State) : Host.Outcome State Fault Refusal :=
  done (preemptDone (preemptAll s fun g => g.ctx == ctx))
/-- PREEMPT_CORE (R231, R233). -/
def execPreemptCore (core : Nat) (s : State) : Host.Outcome State Fault Refusal :=
  done (preemptDone (preemptAll s fun g => g.core == core))

/-! ### Suspension (R236) -/

/-- Records of a context queued on a die, level 7 to 0 and in FIFO order, then the device pushes that wait for room. -/
def queuedRcds (s : State) (die ctx : Nat) : List (BitVec 256) :=
  let d := schedOf s die
  let of := fun (qs : List Queued) => (qs.filter fun q => q.ctx == ctx).map (·.rcd)
  ((List.range 8).reverse.flatMap fun lv => of (levelOf d lv)) ++ of d.waiting

/-- A context's queued records move to its held list. -/
def holdRecords (s : State) (ctx : Nat) : State :=
  let all := (List.range 8).flatMap fun die => (queuedRcds s die ctx).map fun r => (r, die)
  let drop := fun (d : DieSched) =>
    { d with queues := d.queues.map fun qs => qs.filter fun q => q.ctx != ctx, waiting := d.waiting.filter fun q => q.ctx != ctx }
  let s := (List.range 8).foldl ovSettle { s with sched := s.sched.map drop }
  let s := updCtx s ctx fun r => { r with heldWait := r.heldWait ++ all }
  heldPump s ((all.head?.map (·.2)).getD 0) ctx (ctxOf s ctx).heldWait.length

/-- PREEMPT_SUSPEND (R233, R236). -/
def execPreemptSuspend (ctx : Nat) (s : State) : Host.Outcome State Fault Refusal :=
  let s := updCtx s ctx fun r => { r with suspended := true }
  let s := holdRecords { s with preSuspend := some ctx } ctx
  done (preemptDone (preemptAll s fun g => g.ctx == ctx))

/-- The records on a held list, as memory holds them; none when one cannot be read. -/
def heldRecords (s : State) (ctx : Nat) : State × Option (List (BitVec 256)) :=
  let r := ctxOf s ctx
  (List.range r.heldcnt.toNat).foldl (fun (acc : State × Option (List (BitVec 256))) i =>
    match acc with
    | (s, none) => (s, none)
    | (s, some rs) =>
      match sysAccess s 0 ctx (bits r.heldbase 56 5 * 32 + 32 * i) 32 false false with
      | (s, .error _) => (s, none)
      | (s, .ok ks) =>
        let s := s.ms.l1.foldl (fun s e => drainCore s e.1 fun k _ => ks.contains k) s
        (s, some (rs ++ [BitVec.ofNat 256 (ofBytes (homeRead s (ks.headD 0) 32))]))) (s, some [])

/-- CTXRESUME (R236): the records are pushed in list order as device pushes, and the list is empty; the expanders go on. -/
def execCtxresume (ctx : Nat) (s : State) : Host.Outcome State Fault Refusal :=
  if !(ctxOf s ctx).suspended then done s
  else
    match heldRecords s ctx with
    | (s, none) => done s
    | (s, some rs) =>
      let r := ctxOf s ctx
      let all := rs.zip (r.heldDies ++ List.replicate rs.length 0) ++ r.heldWait
      let s := updCtx s ctx fun r => { r with suspended := false, heldcnt := 0, heldDies := [], heldWait := [] }
      done (all.foldl (fun s e => pushRcd s e.2 ctx e.1 none) s)

/-! ### Saving (R234) -/

/-- A thread whose instruction the save waits for: one already issued that has not completed, but for the commands of the engine; a block;
a release or a send in progress; an EXIT that has nothing left to wait for. -/
def unsettled (cmds : List Nat) (t : Thread) : Bool :=
  t.blk.isSome || (t.pend.any fun p => match p.held with | some i => !cmds.contains i | none => true) ||
    (match t.st with | .stall (.trel _) | .stall (.pnsend _ _) => true | .exiting => t.pend.isEmpty | _ => false)

/-- The group may be saved now (R234 steps 2 to 4, R183, R193, R230). DEDUCED (log 28): a copy command whose TILE record stands on the held list of a
suspended context is neither complete nor stopped at a fault, so that R193 has the save wait until CTXRESUME. -/
def saveReady (s : State) (gid : Nat) : Bool :=
  match s.groups.get? gid with
  | none => false
  | some g =>
    let e := engineOf s g.core
    let mine := e.owner == some gid
    let cmds := if mine then e.queue.map (·.id) else []
    (match g.pre with | .saving _ => true | _ => false) && !g.ending && !s.issue.any (fun q => g.warps.contains q.w) &&
      (groupThreads s g).all (fun t => t.2.2.st == .exited || !unsettled cmds t.2.2) &&
      (!mine || e.queue.isEmpty || e.stop || (e.queue.headD { id := 0, op := 0 }).stopped) && (copiesOf s gid).all (·.stopped)

/-- A thread as a save takes it (R234): one that stalls issues its instruction again, and so does an EXIT that waits for commands of the
engine. -/
def savedThread (t : Thread) : Thread :=
  match t.st with
  | .stall _ | .member _ _ => { t with st := .running }
  | .exiting => { t with st := .running, pc := t.pc - 12 }
  | _ => t

/-- A record that is not written yet ends where it is one of some. -/
def endRec (mine : FaultRec → Bool) (r : FaultRec) : FaultRec := if mine r then { r with ended := true } else r

/-- The commands of a group's engine. -/
def engineIds (s : State) (gid core : Nat) : List Nat :=
  if (engineOf s core).owner == some gid then (engineOf s core).queue.map (·.id) else []

/-- The implicit requests of engine commands that have not started are made again (R234, 06_tile_tenure.md R143). -/
def askAgain (s : State) (gid core : Nat) : State :=
  if (engineOf s core).owner == some gid then
    ((engineOf s core).queue.filter fun x => x.fl.it && !x.started && !(s.ten.any fun e => e.2.cmd == some x.id)).foldl (fun s x =>
      (x.agent core).request s x.fl.sc x.w x.tiles) s
  else s

/-- Steps 4 to 6 of a save: footprints drain to their shadows, requests are withdrawn, and fault records end. -/
def settleSave (s : State) (gid : Nat) (g : Group) : State :=
  let feet := (s.ten.filter fun e => e.2.gid == gid && e.2.write && e.2.st == 1).flatMap fun e => e.2.foot
  let s := drainCore s g.core fun k d => d.gid == gid && inFoot feet k
  let cmds := engineIds s gid g.core
  let s := { s with ten := s.ten.filter fun e => !(e.2.gid == gid && e.2.st == 0 && e.2.cmd.all cmds.contains) }
  let s := updGroup s gid fun g => { g with handles := g.handles.map fun h => (h.1, if h.2.st = 2 then { h.2 with st := 1, entry := none } else h.2) }
  let mine := fun (r : FaultRec) => (r.kind == 0 || r.kind == 2) && r.gid == gid
  let fix := fun (q : FaultQ) =>
    { q with outstanding := q.outstanding.filter fun r => !mine r, waiting := q.waiting.map (endRec mine), fresh := q.fresh.map (endRec mine) }
  let keep := fun (e : Nat × List GrowReq) => (e.1, e.2.filter fun q => q.gid != gid)
  let s := { s with grow := s.grow.map keep }
  pkgRelease { s with fq := s.fq.map fix } g.core

/-- An abandoned save gives back what it stopped (R234). -/
def abandonSave (s : State) (gid : Nat) (g : Group) (code : Nat) (va : Nat) : State :=
  let die := dieOf g.core
  let s := postFault s die { code := code, kind := 4, addr := w64 va, ctx := g.ctx, core := g.core, gid := gid }
  let back := fun (t : Thread) =>
    match t.st with
    | .parked => { t with st := .running, pc := if t.inh then t.pc else t.rgnpc }
    | _ => t
  let s := updGroupThreads s gid (fun t => t.st != .exited) fun t => back (savedThread t)
  let s := updGroup s gid fun g => { g with pre := .draining (s.cycle + drainWindow s) }
  let s := if (engineOf s g.core).owner == some gid then
      showHead (updEngine (updHead s g.core fun x => { x with stopped := false }) g.core fun e => { e with stop := false }) g.core
    else s
  let s := askAgain s gid g.core
  let s := updCoal s g.core fun q => q.map fun x => if x.gid == gid then { x with stopped := false } else x
  (List.range 8).foldl (fun s d =>
    (ctabOf s d).foldl (fun s e =>
      if e.2.gid == gid && e.2.stopped then
        pushRcd (updCtab s d fun t => t.put e.1 { e.2 with stopped := false }) d e.2.ctx (tileRecord e.2.prio (2 ^ 63 + e.1)) none
      else s) s) s

/-- The save completes (R234, R238): the area is written, the group leaves its core, and its RESUME record is pushed. -/
def completeSave (s : State) (gid : Nat) : State :=
  match s.groups.get? gid with
  | none => s
  | some g0 =>
    let reason := match g0.pre with | .saving r => r | _ => 1
    let die := dieOf g0.core
    -- the addresses of the faults stand in the records, which end now
    let was := s
    let put := fun (s : State) (e : WKey × Nat × Thread) => updThr s e.1 e.2.1 (atFault was e.1 e.2.1)
    let s := settleSave ((groupThreads s g0).foldl put s) gid g0
    let g := s.groups.getD gid g0
    let live := (liveWarps s g).map fun e => (e.1, { e.2 with th := e.2.th.map savedThread })
    let coal := (coalOf s g.core).filter fun x => x.gid == gid
    let r := ctxOf s g.ctx
    let area := regionVa r g.frame0
    let parts := (area, groupBytes s gid g reason live coal) :: live.map fun e => (regionVa r e.2.frame, warpBytes was g e.1 e.2)
    let s := { s with freeCtr := s.freeCtr + 576 + 2048 }
    let w := parts.foldl (fun (acc : State × Option (Nat × Nat)) p =>
      match acc with
      | (s, some e) => (s, some e)
      | (s, none) => areaWrite s die g.ctx p.1 p.2) (s, none)
    match w with
    | (s, some e) => abandonSave s gid g 0x149 e.2
    | (s, none) =>
      let e := engineOf s g.core
      let mine := e.owner == some gid
      let v : Saved :=
        { gid := gid, ctx := g.ctx, area := w64 area, lti := g.lti, group := { g with pre := .none, age := ageOf s g }, warps := live
          engine := if mine then some e else none, coal := coal }
      let s := { s with saved := s.saved ++ [v] }
      let s := updCoal s g.core fun q => q.filter fun x => x.gid != gid
      let s := { s with ctab := s.ctab.map fun t => t.map fun c => (c.1, if c.2.gid == gid then { c.2 with kept := true } else c.2) }
      let s := if mine then freeEngine s g.core else s
      let rcd := Rcd.make (Rcd.code g.rcd) area 0 1 (lrec s g 142 140) die g.stage true (Rcd.arg g.rcd)
      pushRcd (vacate s gid g) die g.ctx rcd none

/-- SAVE_COMPLETE (R234). -/
def execSaveComplete (gid : Nat) (s : State) : Host.Outcome State Fault Refusal :=
  if saveReady s gid then done (completeSave s gid) else done s

/-- A drained group has not exited in time (R233). -/
def drainLate (s : State) (g : Group) : Bool := match g.pre with | .draining d => d ≤ s.cycle && !g.ending | _ => false

/-- DRAIN_WINDOW_EXPIRY (R233): the group is saved. -/
def execDrainWindowExpiry (gid : Nat) (s : State) : Host.Outcome State Fault Refusal :=
  match s.groups.get? gid with
  | some g => done (if drainLate s g then startSave s gid 1 else s)
  | none => done s

/-! ### Register deadlock (03_work_scheduling.md R83) -/

/-- A group is blocked. -/
def regBlocked (s : State) (g : Group) : Bool :=
  let ts := (groupThreads s g).map (·.2.2)
  ts.any (fun t => match t.st with | .stall (.rgrow _ _) => true | _ => false) && !ts.any Thread.votes

/-- The resident groups of a core. -/
def coreGroups (s : State) (core : Nat) : List (Nat × Group) := s.groups.filter fun e => e.2.core == core && !e.2.warps.isEmpty

/-- The core is deadlocked on registers, and no save for it is in progress. -/
def regDeadlock (s : State) (core : Nat) : Bool :=
  match growOf s core with
  | [] => false
  | q :: _ =>
    let gs := coreGroups s core
    freeRegs s core < 32 * q.n && !gs.isEmpty && gs.all (fun e => regBlocked s e.2) &&
      gs.all fun e => match e.2.pre with | .saving 2 => false | _ => true

/-- RGROW_DEADLOCK: the youngest of several groups is saved; the head request of the only one traps with 141h. -/
def execRgrowDeadlock (core : Nat) (s : State) : Host.Outcome State Fault Refusal :=
  if !regDeadlock s core then done s
  else
    match coreGroups s core, growOf s core with
    | [_], q :: rest =>
      let s := { s with grow := s.grow.put core rest }
      let ls := (lanesOf q.lanes).filter fun l => (thrAt s q.w l).st == .stall (.rgrow q.d q.n)
      let pc := (thrAt s q.w (ls.headD 0)).pc
      done (takeTraps s q.w pc (ls.map fun l => { lane := l, code := 0x141, addr := 0 }))
    | g0 :: gs, _ =>
      let y := gs.foldl (fun b e => if b.2.order < e.2.order then e else b) g0
      let s := { s with grow := s.grow.put core ((growOf s core).filter fun q => q.gid != y.1) }
      done (startSave s y.1 2)
    | _, _ => done s

/-! ### Disposal of fault records (R228) -/

/-- An outstanding record of a die. -/
def outstandingRec (s : State) (die seq : Nat) : Option FaultRec := (fqOf s die).outstanding.find? fun r => r.seq == seq
/-- A record is no longer outstanding. -/
def dispose (s : State) (die seq : Nat) : State := updFq s die fun q => { q with outstanding := q.outstanding.filter fun r => r.seq != seq }
/-- A refused write of FLTDONE. -/
def refuseDone (s : State) (die : Nat) : State := updFq s die fun q => { q with derr := true }
/-- The place of a record's threads. -/
def FaultRec.place (r : FaultRec) : WKey := { core := r.core, quad := r.quad, slot := r.slot }

/-- The engine goes on with its stopped command (R183). -/
def resumeEngine (s : State) (core : Nat) : State :=
  showHead (updEngine (updHead s core fun x => { x with stopped := false, due := s.work }) core fun e => { e with stop := false }) core

/-- The copy commands of a killed group that are stopped at a fault end, and their implicit tenure is released. DESIGN CHOICE (log 66): their
records are no longer outstanding (R228), and the spec does not say what becomes of them. -/
def endCopies (s : State) (gid : Nat) : State :=
  let mine := fun (x : CCmd) => x.gid == gid && x.stopped
  let s := ((allCopies s).filter mine).foldl (fun s x => releaseCmd s x.id .core) s
  { s with
    coal := s.coal.map fun e => (e.1, e.2.filter fun x => !mine x)
    ctab := s.ctab.map fun t => t.filter fun e => !mine e.2 }

/-- The core whose coalescer holds a stopped ACOPY command, or the copy table's entry of a die. -/
def copyById (s : State) (die id : Nat) : Option (Nat × CCmd) := ((ctabOf s die).find? fun e => e.2.id == id)

/-- FLTDONE_RETRY (R228). A record of a group that was flushed stays outstanding, and resumes no lane of the group that has its place now. -/
def execFltdoneRetry (die seq : Nat) (s : State) : Host.Outcome State Fault Refusal :=
  match outstandingRec s die seq with
  | none => done (refuseDone s die)
  | some r =>
    let s := dispose s die seq
    match r.kind with
    | 0 =>
      if r.cmd.isSome then done (resumeEngine s r.core)
      else
        let w := r.place
        let go := fun (t : Thread) => { t with st := .running, pc := if r.inh then r.ipc else t.rgnpc }
        done (if gidOf s w = r.gid then (lanesOf r.lanes).foldl (fun s l => updThr s w l fun t => if t.st == .parked then go t else t) s else s)
    | 1 =>
      let s := setTasks s die fun tb => match tb.get? r.obj with | some t => tb.put r.obj { t with st := 0 } | none => tb
      done (pushRcd s die r.ctx (tileRecord ((((taskTab s die).get? r.obj).map (·.f 104 102)).getD 0) r.obj) none)
    | 2 =>
      match copyById s die (r.cmd.getD 0) with
      | some e =>
        let s := updCtab s die fun t => t.map fun p => if p.1 == e.1 then (p.1, { p.2 with stopped := false }) else p
        done (pushRcd s die r.ctx (tileRecord e.2.prio (2 ^ 63 + e.1)) none)
      | none => done (updCoal s r.core fun q => q.map fun x => if some x.id == r.cmd then { x with stopped := false } else x)
    | _ => done (collRun (updColl s die (r.cmd.getD 0) fun x => { x with stopped := false }) die)

/-- FLTDONE_SKIP (R228): the lanes resume after the instruction. -/
def execFltdoneSkip (die seq : Nat) (s : State) : Host.Outcome State Fault Refusal :=
  match outstandingRec s die seq with
  | none => done (refuseDone s die)
  | some r =>
    if r.kind ≠ 0 ∨ r.code < 0x160 ∨ 0x163 < r.code then done (refuseDone s die)
    else
      let go := fun (t : Thread) => { t with st := .running, pc := if r.code = 0x161 then t.pc else r.ipc + 12 }
      let s := dispose s die seq
      done (if gidOf s r.place = r.gid then (lanesOf r.lanes).foldl (fun s l => updThr s r.place l fun t => if t.st == .parked then go t else t) s else s)

/-- FLTDONE_DELIVER (R228): the lanes take the code in their handler (R221), a trap like any other for the trace (14_determinism_and_debug.md
R283), or the command fails with it. -/
def execFltdoneDeliver (die seq : Nat) (s : State) : Host.Outcome State Fault Refusal :=
  match outstandingRec s die seq with
  | none => done (refuseDone s die)
  | some r =>
    match r.kind with
    | 0 =>
      let entry := (ctxOf s r.ctx).trapentry &&& 0x01FFFFFFFFFFFFFC#64
      if r.inh || entry == 0 then done (refuseDone s die)
      else
        let s := dispose s die seq
        let ls := if gidOf s r.place = r.gid then (lanesOf r.lanes).filter fun l => (thrAt s r.place l).isParked else []
        let s := if r.cmd.isSome then discardAll s r.core else s
        let take := fun (t : Thread) =>
          { t with
            st := .running, inh := true, gate := true, pc := entry, wait := 0, cause := BitVec.ofNat 9 r.code, tepc := r.ipc
            taddr := if r.cmd.isSome then r.addr else t.taddr, parkedBy := none }
        let ts : List TrapOf := ls.map fun l => { lane := l, code := r.code, addr := r.addr }
        done (noteTraps s r.place r.ipc ts (ls.foldl (fun s l => updThr s r.place l take) s))
    | 1 => done (finishTask (dispose s die seq) die r.obj r.code)
    | 2 =>
      let s := dispose s die seq
      let x := match copyById s die (r.cmd.getD 0) with
        | some e => some e.2
        | none => (coalOf s r.core).find? fun x => some x.id == r.cmd
      match x with
      | some x => done (failCopy s r.core x r.code)
      | none => done s
    | _ =>
      let s := dispose s die seq
      match collCmd s die (r.cmd.getD 0) with
      | some x => done (collRun (endColl s die x r.code) die)
      | none => done s

/-- Every thread of a group exits (R228): a stopped tile instruction's commands are discarded and the engine is released (R175), and the group's
records are no longer outstanding. -/
def killGroup (s : State) (gid : Nat) (g : Group) : State :=
  let mine := (engineOf s g.core).owner == some gid
  let stopped := mine && ((engineOf s g.core).queue.head?.map (·.stopped)).getD false
  let s := if stopped then freeEngine (discardAll s g.core) g.core else s
  let kill := fun (t : Thread) => { t with st := if t.pend.isEmpty then .exited else .exiting, inh := false, watch := none, blk := none, parkedBy := none }
  let s := updGroupThreads s gid (fun t => t.st != .exited) kill
  let mineRec := fun (r : FaultRec) => (r.kind == 0 || r.kind == 2) && r.gid == gid
  let fix := fun (q : FaultQ) =>
    { q with outstanding := q.outstanding.filter fun r => !mineRec r, waiting := q.waiting.map (endRec mineRec), fresh := q.fresh.map (endRec mineRec) }
  g.warps.foldl afterExit (endCopies { s with fq := s.fq.map fix } gid)

/-- FLTDONE_KILL (R228). -/
def execFltdoneKill (die seq : Nat) (s : State) : Host.Outcome State Fault Refusal :=
  match outstandingRec s die seq with
  | none => done (refuseDone s die)
  | some r =>
    if r.kind ≠ 0 then done (refuseDone s die)
    else
      match s.groups.get? r.gid with
      | some g => done (killGroup (dispose s die seq) r.gid g)
      | none => done (dispose s die seq)

/-- FAULT_RECORD_RETRY (R227): records that wait in the die are written while the queue has room. -/
def execFaultRecordRetry (die : Nat) (s : State) : Host.Outcome State Fault Refusal :=
  done ((List.range (fqOf s die).waiting.length).foldl (fun s _ => fqPump s die) s)

/-! ### Restoring (R70, R183, R237, R239) -/

/-- The saved group whose area a record names. -/
def savedAt (s : State) (ctx : Nat) (area : Nat) : Option Saved := s.saved.find? fun v => v.ctx == ctx && v.area.toNat == area

/-- What a restore reads: the group part's segments, and each warp's. -/
structure AreaBytes where
  hd : List Byte
  nbs : List Byte
  hs : List Byte
  cmds : List Byte
  pns : List Byte
  pays : List Byte
  cnts : List Byte
  scr : List Byte
  accs : List (List Byte)
  warps : List (List Byte × List Byte × List Byte × List Byte)

/-- Reads several segments of a region. -/
def readSegs (s : State) (die ctx base : Nat) : List (Nat × Nat) → State × Option (List (List Byte))
  | [] => (s, some [])
  | (o, n) :: rest =>
    match areaRead s die ctx (base + o) n with
    | (s, none) => (s, none)
    | (s, some b) =>
      match readSegs s die ctx base rest with
      | (s, none) => (s, none)
      | (s, some bs) => (s, some (b :: bs))

/-- Reads a warp's region. -/
def readWarp (s : State) (die ctx base : Nat) : State × Option (List Byte × List Byte × List Byte × List Byte) :=
  match readSegs s die ctx base [(0, 64), (0x40, 2048), (0x840, 256)] with
  | (s, some [hd, ths, ks]) =>
    match areaRead s die ctx (base + 0x1000) (128 * fieldAt hd 0 2 1) with
    | (s, some rs) => (s, some (hd, ths, ks, rs))
    | (s, none) => (s, none)
  | (s, _) => (s, none)

/-- Reads the area of a saved group. -/
def readArea (s : State) (die : Nat) (v : Saved) : State × Option AreaBytes :=
  let base := v.area.toNat
  match readSegs s die v.ctx base
      [(0x8000, 64), (0x8100, 256), (0x8200, 8192), (0xA200, 576), (0xB000, 2048), (0xC000, 16), (0xC040, 512), (0xC240, 128)] with
  | (s, some [hd, nbs, hs, c1, c2, pns, pays, cnts]) =>
    let n := fieldAt hd 0 4 2 * 256 + fieldAt hd 0 6 2 * 64
    match areaRead s die v.ctx (base + 0x10000) n with
    | (s, none) => (s, none)
    | (s, some scr) =>
      let accSegs := if natBit (fieldAt hd 0x8000 0x800F 1) 0 then (List.range 4).map fun a => (0x50000 + 0x10000 * a, 65536) else []
      match readSegs s die v.ctx base accSegs with
      | (s, none) => (s, none)
      | (s, some accs) =>
        let r := ctxOf s v.ctx
        let ws := v.warps.foldl (fun (acc : State × Option (List (List Byte × List Byte × List Byte × List Byte))) e =>
          match acc with
          | (s, none) => (s, none)
          | (s, some xs) =>
            match readWarp s die v.ctx (regionVa r e.2.frame) with
            | (s, none) => (s, none)
            | (s, some x) => (s, some (xs ++ [x]))) (s, some [])
        match ws with
        | (s, none) => (s, none)
        | (s, some xs) =>
          (s, some { hd := hd, nbs := nbs, hs := hs, cmds := c1 ++ c2, pns := pns, pays := pays, cnts := cnts, scr := scr, accs := accs, warps := xs })
  | (s, _) => (s, none)

/-- VERSION and CRC of an area (R239). -/
def areaBad (b : AreaBytes) : Bool :=
  fieldAt b.hd 0 0 2 != 1 || b.warps.any (fun w => fieldAt w.1 0 0 2 != 1) || crc32 b.cmds != fieldAt b.hd 0 0x38 4

/-- Changes the place recorded for a moved warp's commands and held stores. -/
def moveKey (m : List (WKey × WKey)) (w : WKey) : WKey := ((m.find? fun e => e.1 == w).map (·.2)).getD w

/-- A group that is not restored (R239): a record of KIND 4, and its threads count as exited. -/
def dropSaved (s : State) (die : Nat) (v : Saved) : State :=
  let s := postFault s die { code := 0x14A, kind := 4, addr := v.area, ctx := v.ctx, gid := v.gid }
  let s := { s with saved := s.saved.filter fun x => x.gid != v.gid }
  let s := v.warps.foldl (fun s e => (frameBit s die v.ctx e.2.frame false).1) s
  let s := closeHandles { s with groups := s.groups.put v.gid v.group } v.gid
  let s := { s with groups := s.groups.del v.gid, ctab := s.ctab.map fun t => t.filter fun c => c.2.gid != v.gid }
  let cmds := ((v.engine.map (·.queue)).getD []).map (·.id)
  let s := cmds.foldl (fun s id => releaseCmd s id .core) s
  groupGone s v.lti (linearAt s v.group v.group.stage)

/-- The engine that an area names (R239): the reservation in bit 0 of 800Fh, whether a command is stopped in bit 1, and as many of the commands as
802Ch counts. -/
def AreaBytes.engine (b : AreaBytes) (v : Saved) : Option Engine :=
  if natBit (fieldAt b.hd 0x8000 0x800F 1) 0 then
    let e : Engine := v.engine.getD { owner := some v.gid }
    let q := e.queue.take (fieldAt b.hd 0x8000 0x802C 1)
    -- without bit 1 no command is stopped: the first has not started
    some { e with queue := if natBit (fieldAt b.hd 0x8000 0x800F 1) 1 then q else q.map fun x => { x with started := false, done := 0 } }
  else none
/-- The ACOPY commands that an area names: as many as 802Dh counts (R239). -/
def AreaBytes.coal (b : AreaBytes) (v : Saved) : List CCmd := v.coal.take (fieldAt b.hd 0x8000 0x802D 1)

/-- The engine of a restored group (R183): reserved, and going on at step DONE, with the accumulators that the area holds. -/
def restoreEngine (s : State) (core : Nat) (b : AreaBytes) (m : List (WKey × WKey)) (e : Engine) : State :=
  let accs := b.accs.map fun bs => sparse 0 ((List.range 16384).map fun i => ofBytes ((bs.drop (4 * i)).take 4))
  let rp := fieldAt b.hd 0x8000 0x8028 4
  let q := match e.queue with
    | x :: xs => { x with w := moveKey m x.w, stopped := false, due := s.work } :: xs.map fun x => { x with w := moveKey m x.w }
    | [] => []
  updEngine s core fun _ =>
    { e with
      queue := q, stop := false, acc := Vector.ofFn fun i : Fin 4 => accs.getD i.val [], scale := []
      done := natBits rp 7 0, nstep := natBits rp 15 8, op := natBits rp 18 16 }

/-- A saved group starts again on a core. -/
def restoreGroup (s : State) (core : Nat) (v : Saved) (b : AreaBytes) : State :=
  let gid := v.gid
  let s := { s with saved := s.saved.filter fun x => x.gid != gid }
  let g := groupFrom b.hd b.nbs b.hs b.pns b.pays b.cnts b.scr v.group
  let g := { g with
    core := core, warps := [], placed := s.cycle, pre := .none, order := s.nextId, barArrived := arrivedFrom (b.warps.map (·.1)) g.barArrived }
  let s := { s with nextId := s.nextId + 1, groups := s.groups.put gid g }
  let wake := fun (t : Thread) =>
    match t.st with
    | .sleep d _ => (match d with | .g n => t.setReg n.val 3 | _ => t)
    | _ => t
  let run := fun (t : Thread) => match t.st with | .sleep _ _ => { wake t with st := .running, watch := none } | _ => t
  let kwake := fun (x : Warp) =>
    x.th.toList.foldl (fun (x : Warp) t => match t.st with | .sleep (.k n) _ => { x with k := x.k.setIfInBounds n.val 3 } | _ => x) x
  let r := (v.warps.zip b.warps).foldl (fun (acc : State × List (WKey × WKey)) p =>
    let x := kwake (warpFrom p.2.1 p.2.2.1 p.2.2.2.1 p.2.2.2.2 gid p.1.2)
    match placeFor acc.1 core with
    | none => acc
    | some w => (placeWarp acc.1 core gid { x with th := x.th.map run }, acc.2 ++ [(p.1.1, w)])) (s, [])
  let m := r.2
  let s := { r.1 with
    ten := r.1.ten.map fun e =>
      let t := if e.2.gid == gid then { e.2 with core := core } else e.2
      (e.1, { t with held := t.held.map fun h => if h.gid == gid then { h with w := moveKey m h.w } else h })
    ms.posted := r.1.ms.posted.map fun p => if p.gid == gid then { p with w := moveKey m p.w } else p }
  let s := updCoal s core fun q => q ++ (b.coal v).map fun x => { x with w := moveKey m x.w, stopped := false }
  let s := match b.engine v with | some e => askAgain (restoreEngine s core b m e) gid core | none => s
  let back := (List.range 8).flatMap fun d => ((ctabOf s d).filter fun c => c.2.kept && c.2.gid == gid).map fun c => (d, c)
  let s := back.foldl (fun s e =>
    let s := updCtab s e.1 fun t => t.put e.2.1 { e.2.2 with kept := false, stopped := false, w := moveKey m e.2.2.w }
    pushRcd s e.1 v.ctx (tileRecord e.2.2.prio (2 ^ 63 + e.2.1)) none) s
  divert (pkgAcquire s core) gid

/-- A core of a die can run a saved group (R70, R183, R193): W, scratch and channel space come from the group part, and n is the largest that a
warp's region names. DEDUCED (log 69): R70 has one n where warps may have grown apart. -/
def coreRestores (s : State) (core : Nat) (v : Saved) (b : AreaBytes) : Bool :=
  let f := fieldAt b.hd 0x8000
  let n := b.warps.foldl (fun a w => max a (fieldAt w.1 0 2 1)) 0
  coreFits s core (f 0x8002 1) (f 0x8002 1 * (32 * n + 64)) (f 0x8004 2 * 256 + f 0x8006 2 * 64) &&
    ((b.engine v).isNone || engineFree s core) && ((b.coal v).isEmpty || (coalOf s core).length + (b.coal v).length ≤ 16)

/-- A RESUME or WAKE record: restored, refused, or left in its queue. -/
def grantRestore (s : State) (die : Nat) (v : Saved) : State × Bool :=
  match readArea s die v with
  | (s, none) => (s, false)
  | (s, some b) =>
    if areaBad b then (dropSaved s die v, true)
    else
      match coreFor die fun c => coreRestores s c v b with
      | none => (s, false)
      | some core => (restoreGroup s core v b, true)

/-! ### The scheduler's grant (03_work_scheduling.md R69) -/

/-- A RESUME record of a saved group is queued. -/
def resumeQueued (s : State) (v : Saved) : Bool :=
  s.sched.toList.any fun d =>
    (d.queues.toList.flatMap id ++ d.waiting).any fun q => q.ctx == v.ctx && Rcd.kind q.rcd == 1 && Rcd.isResume q.rcd && Rcd.frame q.rcd == v.area.toNat

/-- The flushed group that a record starts again. -/
def flushedFor (s : State) (ctx : Nat) (r : Rcd) : Option (BitVec 256 × Nat × List (Nat × Nat) × Nat) :=
  s.flushed.find? fun f => f.1 == r && f.2.1 == ctx

/-- A fresh group (R70, R96, R235). -/
def grantGroup (s : State) (die ctx : Nat) (r : Rcd) : State × Bool :=
  match launchOf s (Rcd.lti r) with
  | none => (s, true)
  | some l =>
    if s.cycle < l.firstAt then (s, false) else
    let w := LRec.warps l.rcd
    let scr := bits l.rcd 170 160 * 256 + LRec.slotBytes l.rcd (bits r 179 176)
    match coreFor die fun c => coreFits s c w (w * (32 * LRec.regs l.rcd + 64)) scr with
    | none => (s, false)
    | some core =>
      match flushedFor s ctx r with
      | some f =>
        let missing := (List.range w).filter fun i => (Tab.get? f.2.2.1 i).isNone
        match (if missing.isEmpty then (s, some []) else takeFrames s die ctx missing.length) with
        | (s, none) => (s, false)
        | (s, some new) =>
          let extra := missing.zip new
          let frames := (List.range w).map fun i => ((Tab.get? f.2.2.1 i).orElse fun _ => (extra.find? fun e => e.1 == i).map (·.2)).getD 0
          (startGroup { s with flushed := s.flushed.erase f } core ctx r frames f.2.2.2, true)
      | none =>
        match takeFrames s die ctx w with
        | (s, none) => (s, false)
        | (s, some frames) => (startGroup s core ctx r frames 0, true)

/-- A HOST record (R75, 04_memory_hierarchy.md R102): its launch becomes active. -/
def grantHost (s : State) (die : Nat) (r : Rcd) : State × Bool :=
  if 16 ≤ ((schedOf s die).launches.filter fun e => e.2.active).length then (s, false)
  else
    let s := updLaunch s (die * 8192 + Rcd.frame r % 8192) fun l => { l with active := true, waiting := l.f 152 152 == 1 }
    (joinSets s die, true)

/-- A TILE record: a task for a matrix engine, or a copy for a copy engine (R65, R69). -/
def grantTile (s : State) (die : Nat) (r : Rcd) : State × Bool :=
  let f := Rcd.frame r
  let idx := f % 2 ^ 63
  if natBit f 63 then
    match (ctabOf s die).get? idx with
    | none => (s, true)
    | some x =>
      if x.kept then (s, false)
      else
        match coreFor die (copyIdle s) with
        | none => (s, false)
        | some core => (grantCopy s core idx, true)
  else
    match (taskTab s die).get? idx with
    | none => (s, true)
    | some _ =>
      if !taskReady s die idx then (s, false)
      else
        match coreFor die (engineFree s) with
        | none => (s, false)
        | some core => (grantTask s core idx, true)

/-- One record visited: whether it is granted, or discarded (R65). DESIGN CHOICE (log 64): a record that is discarded uses up the die's grant of
the cycle. -/
def grantRecord (s : State) (die : Nat) (q : Queued) : State × Bool :=
  let r := q.rcd
  match Rcd.kind r with
  | 1 =>
    if Rcd.isResume r then
      match savedAt s q.ctx (Rcd.frame r) with
      | some v => grantRestore s die v
      | none => (launchCheck (updLaunch s (Rcd.lti r) fun l => { l with live := l.live - 1 }) (Rcd.lti r), true)
    else grantGroup s die q.ctx r
  | 2 => grantTile s die r
  | 3 =>
    match savedAt s q.ctx (Rcd.frame r) with
    | none => (s, true)
    | some v => if resumeQueued s v then (s, true) else grantRestore s die v
  | _ => grantHost s die r

/-- The records a die visits: levels 7 to 0, the first eight of each. -/
def visited (s : State) (die : Nat) : List (Nat × Queued) :=
  (List.range 8).reverse.flatMap fun lv => ((levelOf (schedOf s die) lv).take 8).map fun q => (lv, q)

/-- Removes the first copy of a record from its level. -/
def popRcd (s : State) (die lv : Nat) (q : Queued) : State :=
  updSched s die fun d => { d with queues := d.queues.setIfInBounds lv ((levelOf d lv).erase q) }

/-- Visits records until one is granted. -/
def grantFirst (s : State) (die : Nat) : List (Nat × Queued) → State
  | [] => s
  | (lv, q) :: rest =>
    match grantRecord (popRcd s die lv q) die q with
    | (s', true) => ovSettle s' die
    | (s', false) =>
      -- the record stays where it was; what its attempt reported stays
      grantFirst { s' with sched := s'.sched.setIfInBounds die { schedOf s' die with queues := (schedOf s die).queues } } die rest

/-- SCHEDULER_GRANT (R69): at most one record. -/
def execSchedulerGrant (die : Nat) (s : State) : Host.Outcome State Fault Refusal := done (grantFirst s die (visited s die))

end Sys2Proof.Machine
end

