-- ==== Sys2Proof/Machine/Regs.lean ====
section
/-! DEFINITION. The registers of BAR0 and of a context (13_host_and_system.md R258, R259, Tables 13.1 and 13.2 and the tables they cite;
18_reference_m_s.md Table 18.1): reading and writing one. -/
namespace Sys2Proof.Machine

/-- The value of a Boolean as a bit. -/
def flag (b : Bool) : Nat := if b then 1 else 0
/-- A value with only bits hi:lo kept in place. -/
def keep (v hi lo : Nat) : Nat := natBits v hi lo * 2 ^ lo

/-! ### Context registers (Table 18.1) -/

/-- Reads the register of an index. -/
def ctxReg (r : Ctx) (i : Nat) : Nat :=
  match i with
  | 0 => r.ttbase.toNat
  | 1 => r.pfbase.toNat
  | 2 => r.pfctl.toNat
  | 3 => r.pfmap.toNat
  | 4 => r.privinit.toNat
  | 5 => flag r.vlten
  | 6 => r.tidbase.toNat
  | 7 => r.trapentry.toNat
  | 8 => r.heldbase.toNat
  | 9 => r.heldsize.toNat
  | 10 => r.heldcnt.toNat
  | 11 => r.pnpermbase.toNat
  | 12 => r.pnrefcnt.toNat
  | 13 => r.svcentry.toNat
  | _ => 0

/-- Writes the register of an index: a res0 field keeps reading zero, and HELDCNT is read only. -/
def setCtxReg (r : Ctx) (i v : Nat) : Ctx :=
  match i with
  | 0 => { r with ttbase := w64 (keep v 51 12) }
  | 1 => { r with pfbase := w64 (keep v 56 0) }
  | 2 => { r with pfctl := w32 (keep v 4 0 + keep v 31 8) }
  | 3 => { r with pfmap := w64 v, mapFailed := false }
  | 4 => { r with privinit := w32 (keep v 15 0) }
  | 5 => { r with vlten := natBit v 0 }
  | 6 => { r with tidbase := w64 (keep v 51 17) }
  | 7 => { r with trapentry := w64 (keep v 56 2) }
  | 8 => { r with heldbase := w64 (keep v 56 5), heldFailed := false }
  | 9 => { r with heldsize := w32 v }
  | 11 => { r with pnpermbase := w64 (keep v 51 12) }
  | 12 => { r with pnrefcnt := w32 v }
  | 13 => { r with svcentry := w64 (keep v 56 2) }
  | _ => r

/-! ### The state of the package as a whole -/

/-- The package is frozen by a slack-water stop (14_determinism_and_debug.md R280). -/
def frozen (s : State) : Bool := s.swState != 0
/-- REPLAYCTL.MODE. -/
def replayMode (s : State) : Bool := s.replayCtl.getLsbD 0

/-! ### Where registers lie -/

/-- The register at a multiple of 4 is, or is part of, an 8-byte register (R259). -/
def inLong (off : Nat) : Bool := bar8 (off / 8 * 8)
/-- The gate whose registers hold an offset (Table 14.2). -/
def gateAt (off : Nat) : Option (Nat × Nat) :=
  if 0x2400 ≤ off ∧ off < 0x2840 then some ((off - 0x2400) / 0x20, (off - 0x2400) % 0x20) else none
/-- The host queue whose registers hold an offset (Table 13.2). -/
def hqAt (off : Nat) : Option (Nat × Nat) :=
  if 0x2900 ≤ off ∧ off < 0x2B00 then some ((off - 0x2900) / 0x20, (off - 0x2900) % 0x20) else none
/-- The die block that holds an offset (R259). -/
def dieAt (off : Nat) : Option (Nat × Nat) :=
  if 0x10000 ≤ off ∧ off < 0x90000 then some ((off - 0x10000) / 0x10000, off % 0x10000) else none
/-- The context window's index at an offset. -/
def windowAt (off : Nat) : Option Nat := if 0x2100 ≤ off ∧ off < 0x2170 then some ((off - 0x2100) / 8) else none

/-! ### Reading -/

/-- The capability list's entries (R264). -/
def capabilities : List Nat :=
  [0x0000003F00810001, 0x0000002001010002, 0x0000400701810003, 0x0000000702010004, 0x0000000602810005, 0x0000000703010006,
   0x0001010100010007]

/-- ATTIDX (Table 13.1). -/
def attIndex (s : State) : Nat := if s.attUsed < 2 ^ 20 then s.attUsed else 0xFFFFFFFF

/-- HPSTATn (10_halyard_collectives.md Table 10.1). -/
def hpstat (p : HPort) : Nat :=
  flag p.up + 2 * flag p.downev + 4 * flag p.nover + 8 * (p.ver % 8) + 64 * (p.lanes % 8) + 65536 * (p.retry % 65536)
/-- HQCTLn (03_work_scheduling.md Table 3.3). -/
def hqctl (q : HostQueue) : Nat := flag q.en + 16 * (q.size % 16) + 256 * flag q.ovf + 512 * flag q.rej + 65536 * natBits q.head.toNat 15 0
/-- GATELOGCTLn (14_determinism_and_debug.md Table 14.2). -/
def gatectl (g : Gate) : Nat := flag g.en + 2 * flag g.payload + 16 * (g.size % 16) + 256 * flag g.ovf
/-- TRCCTL (Table 14.4). -/
def trcctl (t : Trace) : Nat :=
  flag t.en + 2 * flag t.brs + 4 * flag t.trs + 8 * t.src.toNat + 64 * flag t.stopped + 128 * (t.size % 32)
/-- FLTQCTL (11_traps_and_preemption.md Table 11.4). -/
def fltqctl (q : FaultQ) : Nat :=
  flag q.en + 2 * flag q.ie + 4 * flag q.full + 8 * flag q.derr + 16 * (q.size % 16) + 65536 * natBits q.tail.toNat 15 0
/-- PWRCTL (Table 13.1). -/
def pwrctl (s : State) : Nat := s.pwrStep.toNat + 8 * flag s.pwrCmd.isSome + 16 * s.pwrCur.toNat + 64 * flag s.therm
/-- BOOTSTAT (Table 13.1). -/
def bootstat (s : State) : Nat := flag s.ready + 2 * flag s.verified + 4 * s.bootErr.toNat

/-- The 8-byte registers. -/
def readLong (s : State) (off : Nat) : Nat :=
  match off with
  | 0x2000 => s.mbxbase.toNat
  | 0x2010 => s.pwrcyc.toNat
  | 0x2030 => s.cycle
  | 0x2038 => s.replayCtl.toNat
  | 0x2040 => s.replayEnd.toNat
  | 0x2048 => flag s.noReplay + 2 * flag s.soft + 4 * flag s.diverge
  | 0x2050 => s.nrcyc.toNat
  | 0x2058 => s.slackStop.toNat
  | 0x2070 => s.imgBase.toNat
  | 0x2088 => s.tide.base.toNat
  | 0x2098 => s.dcapbase.toNat
  | 0x21A0 => s.hltoff.toNat
  | _ =>
    match windowAt off, gateAt off, hqAt off, dieAt off with
    | some i, _, _, _ => ((s.ctxs.get? s.ctxSel.toNat).map fun r => ctxReg r i).getD 0
    | _, some (n, 0), _, _ => (s.gates.getD n {}).base.toNat
    | _, _, some (n, 0), _ => (s.hq.getD n {}).base.toNat
    | _, _, some (n, 8), _ => (s.hq.getD n {}).tail.toNat
    | _, _, _, some (d, 0x00) => (schedOf s d).ovBase.toNat
    | _, _, _, some (d, 0x10) => (s.spillBase.getD d 0).toNat
    | _, _, _, some (d, 0x20) => (s.tkspill.getD d 0).toNat
    | _, _, _, some (d, 0x28) => (s.hlctbase.getD d 0).toNat
    | _, _, _, some (d, 0x30) => (fqOf s d).base.toNat
    | _, _, _, some (d, 0x100) => (traceOf s d).base.toNat
    | _, _, _, some (d, 0x110) => (traceOf s d).cores.toNat
    | _, _, _, some (d, 0x120) => (traceOf s d).cyc.toNat
    | _, _, _, _ => 0

/-- The 4-byte registers of a die's block. -/
def readDie (s : State) (d o : Nat) : Nat :=
  match o with
  | 0x08 => (schedOf s d).ovSize.toNat
  | 0x0C => flag (schedOf s d).qfull + 2 * flag (schedOf s d).jerr
  | 0x18 => (s.spillSize.getD d 0).toNat
  | 0x1C => flag (s.spillFull.getD d false)
  | 0x38 => fltqctl (fqOf s d)
  | 0x3C => (fqOf s d).head.toNat
  | 0x48 => (fqOf s d).tail.toNat
  | 0x108 => trcctl (traceOf s d)
  | 0x10C => (traceOf s d).post.toNat
  | 0x118 => (traceOf s d).code.toNat
  | 0x128 => (traceOf s d).wr.toNat
  | _ => 0

/-- The identification block: BOOTSTAT at 10h; the spec does not give the rest (log 8). -/
def identWord (s : State) (off : Nat) : Nat :=
  if off = 0x10 then bootstat s else ofBytes ((List.range 4).map fun i => Config.digestByte (off + i))

/-- The 4-byte registers; an unassigned offset reads zero. -/
def readWord (s : State) (off : Nat) : Nat :=
  match off with
  | 0x2018 => pwrctl s
  | 0x2028 => attIndex s
  | 0x2068 => s.swState.toNat + 4 * s.swErr.toNat
  | 0x2078 => s.imgSize.toNat
  | 0x207C => 0x1C740
  | 0x2080 => s.tide.k % 32 + 32 * flag s.tide.en
  | 0x2090 => s.tide.rows.toNat
  | 0x2094 => s.tide.seq.toNat
  | 0x20B4 => flag s.ctxRefused + 2 * flag s.ctxFull + 4 * flag s.ctxBadId + 65536 * (s.ctxs.length % 65536)
  | 0x20C0 => s.ctxSel.toNat
  | 0x2180 => s.preempt.toNat
  | 0x2184 => s.preemptWin.toNat
  | 0x2190 => s.pnhqsel.toNat
  | 0x2198 => s.hlpkgid.toNat
  | 0x219C => s.hltctl.toNat
  | 0x21A8 => s.hltdly.toNat
  | 0x3800 => s.msix.pend.toNat
  | _ =>
    if off < 0x1000 then identWord s off
    else if off < 0x1038 then natBits (capabilities.getD ((off - 0x1000) / 8) 0) (off % 8 * 8 + 31) (off % 8 * 8)
    else if 0x2200 ≤ off ∧ off < 0x2280 then hpstat (s.ports.getD ((off - 0x2200) / 4) {})
    else if 0x3000 ≤ off ∧ off < 0x3100 then
      if off % 16 = 12 then flag (s.msix.mask.getLsbD ((off - 0x3000) / 16)) else (s.msixWords.getD off 0).toNat
    else
      match gateAt off, hqAt off, dieAt off with
      | some (n, 8), _, _ => gatectl (s.gates.getD n {})
      | some (n, 0xC), _, _ => (s.gates.getD n {}).tail.toNat
      | some (n, 0x10), _, _ => (s.gates.getD n {}).head.toNat
      | some (n, 0x14), _, _ => (s.gates.getD n {}).drops.toNat
      | _, some (n, 0x10), _ => hqctl (s.hq.getD n {})
      | _, some (n, 0x14), _ => (s.hq.getD n {}).ctx
      | _, _, some (d, o) => readDie s d o
      | _, _, _ => 0

/-- An access of `len` bytes to BAR0 is one that R258 and R259 let through. -/
def barAccess (off len : Nat) : Bool :=
  (len == 4 && off % 4 == 0 && !inLong off) || (len == 8 && off % 8 == 0)

/-- Reads 4 or 8 bytes (R259). -/
def readBar (s : State) (off len : Nat) : Nat :=
  if len = 8 then (if inLong off then readLong s off else readWord s off + 2 ^ 32 * readWord s (off + 4)) else readWord s off

/-! ### Writing -/

/-- Changes a gate. -/
def updGate (s : State) (n : Nat) (f : Gate → Gate) : State := { s with gates := s.gates.setIfInBounds n (f (s.gates.getD n {})) }
/-- Changes a host queue. -/
def updHq (s : State) (n : Nat) (f : HostQueue → HostQueue) : State := { s with hq := s.hq.setIfInBounds n (f (s.hq.getD n {})) }

/-- FLTDONE: the event of a disposition (11_traps_and_preemption.md R228). -/
def disposition (d seq disp : Nat) : Option Instr :=
  match disp with
  | 0 => some (.fltdoneRetry d seq)
  | 1 => some (.fltdoneSkip d seq)
  | 2 => some (.fltdoneDeliver d seq)
  | 3 => some (.fltdoneKill d seq)
  | _ => none

/-- The 8-byte registers; `by_` is the capability under which a thread in user mode writes. -/
def writeLong (s : State) (by_ : Option Nat) (off v : Nat) : State :=
  match off with
  | 0x2000 =>
    let base := if s.mbxbase.getLsbD 0 then keep s.mbxbase.toNat 51 28 else keep v 51 28
    { s with mbxbase := w64 (base + keep v 0 0) }
  | 0x2010 => { s with pwrcyc := w64 v }
  | 0x2020 => due s (.attreq (w64 v))
  | 0x2038 => { s with replayCtl := w64 (keep v 0 0 + keep v 35 2) }
  | 0x2040 => { s with replayEnd := w64 v }
  | 0x2048 => { s with noReplay := s.noReplay && !natBit v 0, soft := s.soft && !natBit v 1, diverge := s.diverge && !natBit v 2 }
  | 0x2058 => { s with slackStop := w64 v }
  | 0x2070 => { s with imgBase := w64 (keep v 51 16) }
  | 0x2088 => { s with tide.base := w64 (keep v 51 15) }
  | 0x2098 => { s with dcapbase := w64 (keep v 51 16) }
  | _ =>
    match windowAt off, gateAt off, hqAt off, dieAt off with
    | some i, _, _, _ => updCtx s s.ctxSel.toNat fun r => setCtxReg r i v
    | _, some (n, 0), _, _ => updGate s n fun g => { g with base := w64 (keep v 51 7) }
    | _, _, some (n, 0), _ => updHq s n fun q => { q with base := w64 v }
    | _, _, some (n, 8), _ => updHq s n fun q => { q with tail := w64 v }
    | _, _, _, some (d, 0x00) => updSched s d fun x => { x with ovBase := w64 v }
    | _, _, _, some (d, 0x10) => { s with spillBase := s.spillBase.setIfInBounds d (w64 (keep v 51 12)) }
    | _, _, _, some (d, 0x20) => { s with tkspill := s.tkspill.setIfInBounds d (w64 (keep v 51 16)) }
    | _, _, _, some (d, 0x28) => { s with hlctbase := s.hlctbase.setIfInBounds d (w64 (keep v 51 14)) }
    | _, _, _, some (d, 0x30) => updFq s d fun q => { q with base := w64 (keep v 51 12) }
    | _, _, _, some (d, 0x40) =>
      match disposition d (natBits v 31 0) (natBits v 34 32) with
      | some i => due s i
      | none => refuseDone s d
    | _, _, _, some (d, 0x100) => updTrace s d fun t => { t with base := w64 (keep v 51 12) }
    | _, _, _, some (d, 0x110) => updTrace s d fun t => { t with cores := w64 v, by_ := by_ }
    | _, _, _, some (d, 0x120) => updTrace s d fun t => { t with cyc := w64 v, by_ := by_ }
    | _, _, _, _ => s

/-- A write of TRCCTL: setting EN starts the count of records, and STOPPED written 1 rearms capture. -/
def writeTrcctl (s : State) (d v : Nat) (by_ : Option Nat) : State :=
  updTrace s d fun t =>
    let t := if natBit v 0 && !t.en then { t with wr := 0, last := s.cycle, left := none, effect := none } else t
    let t := if natBit v 6 then { t with stopped := false, left := none, effect := none } else t
    { t with en := natBit v 0, brs := natBit v 1, trs := natBit v 2, src := BitVec.ofNat 3 (natBits v 5 3), size := natBits v 11 7, by_ := by_ }

/-- The 4-byte registers of a die's block. -/
def writeDie (s : State) (by_ : Option Nat) (d o v : Nat) : State :=
  match o with
  | 0x08 => updSched s d fun x => { x with ovSize := w32 v }
  | 0x0C => updSched s d fun x => { x with qfull := x.qfull && !natBit v 0, jerr := x.jerr && !natBit v 1 }
  | 0x18 => { s with spillSize := s.spillSize.setIfInBounds d (w32 v) }
  | 0x1C => { s with spillFull := s.spillFull.setIfInBounds d (s.spillFull.getD d false && !natBit v 0) }
  | 0x38 => updFq s d fun q =>
    { q with en := natBit v 0, ie := natBit v 1, full := q.full && !natBit v 2, derr := q.derr && !natBit v 3, size := natBits v 7 4 }
  | 0x3C => updFq s d fun q => { q with head := w32 v }
  | 0x108 => writeTrcctl s d v by_
  | 0x10C => updTrace s d fun t => { t with post := w32 v }
  | 0x118 => updTrace s d fun t => { t with code := BitVec.ofNat 9 v, by_ := by_ }
  | _ => s

/-- PREEMPT (R231): the request takes effect in the next cycle; BYCORE leaves SUSPEND without meaning. -/
def writePreempt (s : State) (v : Nat) : State :=
  let busy := s.preempt.getLsbD 30
  let go := natBit v 31 && !busy
  let s := { s with preempt := w32 (keep v 17 0 + keep s.preempt.toNat 30 30 + (if go then 2 ^ 30 else 0)) }
  if !go then s
  else
    let i : Instr := if natBit v 16 then .preemptCore (natBits v 8 0) else if natBit v 17 then .preemptSuspend (natBits v 15 0) else .preemptContext (natBits v 15 0)
    { s with timed := s.timed ++ [((s.cycle + 1) % 2 ^ 64, i)] }

/-- PWRCTL (R267): GO with STEP = 11b is ignored. -/
def writePwrctl (s : State) (v : Nat) : State :=
  let s := { s with pwrStep := BitVec.ofNat 2 v, therm := s.therm && !natBit v 6 }
  if natBit v 2 && natBits v 1 0 != 3 then due s (.pwrctlGo (BitVec.ofNat 2 v)) else s

/-- TIDETABLEK (14_determinism_and_debug.md R285): K outside 10 to 24 keeps EN at 0. -/
def writeTidek (s : State) (v : Nat) : State :=
  let k := natBits v 4 0
  let en := natBit v 5 && 10 ≤ k && k ≤ 24
  if en && !s.tide.en then { s with tide.k := k, tide.en := true, tide.start := s.cycle, tide.heldCycles := 0, tide.counts := [], ms.sliceN := [], ms.vaultN := [] }
  else { s with tide.k := k, tide.en := en }

/-- HLTCTL (10_halyard_collectives.md Table 10.1): K outside 16 to 28 keeps EN at 0. -/
def writeHltctl (s : State) (v : Nat) : State :=
  let k := natBits v 11 7
  let en := natBit v 0 && 16 ≤ k && k ≤ 28
  { s with hltctl := w32 (flag en + keep v 11 1 + (if natBit v 12 then 0 else keep s.hltctl.toNat 12 12)) }

/-- DBGHALT (18_reference_m_s.md Table 18.3). -/
def writeDbghalt (s : State) (by_ : Option Nat) (v : Nat) : State :=
  let core := natBits v 8 0
  let all := natBit v 9
  let ctx := natBits v 25 10
  let s := { s with dbgBy := by_ }
  due s (if !natBit v 27 then .dbghaltResume core all ctx else if natBit v 26 then .dbghaltStep core all ctx else .dbghaltHalt core all ctx)

/-- HQCTLn (Table 3.3): SIZE from 13 to 15 keeps EN at 0; setting EN wakes the queue agent (R79). -/
def writeHqctl (s : State) (n v : Nat) : State :=
  let en := natBit v 0 && natBits v 7 4 < 13
  let was := (s.hq.getD n {}).en
  let s := updHq s n fun q => { q with en := en, size := natBits v 7 4, ovf := q.ovf && !natBit v 8, rej := q.rej && !natBit v 9 }
  if en && !was then due s (.hqEnable n) else s

/-- GATELOGCTLn (Table 14.2): PAYLOAD is fixed for gates 0 and 33. -/
def writeGatectl (s : State) (n v : Nat) : State :=
  updGate s n fun g =>
    { g with en := natBit v 0, payload := if n = 0 ∨ n = 33 then true else natBit v 1, size := natBits v 7 4, ovf := g.ovf && !natBit v 8 }

/-- A word of the MSI-X table (R262): word 3 of a vector holds its mask bit; unmasking sends what pends. -/
def writeMsix (s : State) (off v : Nat) : State :=
  if off % 16 = 12 then
    let n := (off - 0x3000) / 16
    let m := if natBit v 0 then s.msix.mask ||| BitVec.ofNat 16 (2 ^ n) else s.msix.mask &&& ~~~BitVec.ofNat 16 (2 ^ n)
    let s := { s with msix.mask := m }
    if !natBit v 0 && s.msix.pend.getLsbD n then due s (.msixVectorUnmask n) else s
  else { s with msixWords := s.msixWords.put off (w32 v) }

/-- The 4-byte registers; a write to a read-only register or an unassigned offset is ignored. -/
def writeWord (s : State) (by_ : Option Nat) (off v : Nat) : State :=
  match off with
  | 0x2018 => writePwrctl s v
  | 0x2060 => if natBit v 0 then due s .swctlRestore else s
  | 0x2068 => { s with swErr := s.swErr &&& ~~~BitVec.ofNat 2 (natBits v 3 2) }
  | 0x2078 => { s with imgSize := w32 v }
  | 0x2080 => writeTidek s v
  | 0x2090 => { s with tide.rows := w32 v }
  | 0x20A0 => writeDbghalt s by_ v
  | 0x20B0 =>
    match natBits v 17 16 with
    | 1 => due s (.ctxCreate (natBits v 15 0))
    | 2 => due s (.ctxDestroy (natBits v 15 0))
    | _ => s
  | 0x20B4 => { s with ctxRefused := s.ctxRefused && !natBit v 0, ctxFull := s.ctxFull && !natBit v 1, ctxBadId := s.ctxBadId && !natBit v 2 }
  | 0x20C0 => { s with ctxSel := w32 (keep v 15 0) }
  | 0x2180 => writePreempt s v
  | 0x2184 => { s with preemptWin := w32 v }
  | 0x2188 => due s (.ctxresume (natBits v 15 0))
  | 0x2190 => { s with pnhqsel := BitVec.ofNat 16 v }
  | 0x2198 => { s with hlpkgid := BitVec.ofNat 16 v }
  | 0x219C => writeHltctl s v
  | _ =>
    if 0x2200 ≤ off ∧ off < 0x2280 then updPort s ((off - 0x2200) / 4) fun p => { p with downev := p.downev && !natBit v 1, nover := p.nover && !natBit v 2 }
    else if 0x3000 ≤ off ∧ off < 0x3100 then writeMsix s off v
    else
      match gateAt off, hqAt off, dieAt off with
      | some (n, 8), _, _ => writeGatectl s n v
      | some (n, 0xC), _, _ => if replayMode s && (frozen s || s.inReset) then updGate s n fun g => { g with tail := w32 v } else s
      | some (n, 0x10), _, _ => updGate s n fun g => { g with head := w32 v }
      | some (n, 0x14), _, _ => updGate s n fun g => { g with drops := w32 v }
      | _, some (n, 0x10), _ => writeHqctl s n v
      | _, some (n, 0x14), _ => updHq s n fun q => { q with ctx := v % 65536 }
      | _, _, some (d, o) => writeDie s by_ d o v
      | _, _, _ => s

/-- Writes 4 or 8 bytes (R259): an 8-byte access to two 4-byte registers acts on the lower one first. -/
def writeBar (s : State) (by_ : Option Nat) (off len v : Nat) : State :=
  if len = 8 then
    if inLong off then writeLong s by_ off v
    else writeWord (writeWord s by_ off (natBits v 31 0)) by_ (off + 4) (natBits v 63 32)
  else writeWord s by_ off (natBits v 31 0)

/-- REGISTER_WRITE (R259): a host write of a register; where the register starts an operation, its event is due. -/
def execRegisterWrite (off : Nat) (eight : Bool) (val : W64) (s : State) : Host.Outcome State Fault Refusal :=
  done (writeBar s none off (if eight then 8 else 4) val.toNat)

/-- A reply leaves for the host; gate 0 discards it while it replays (14_determinism_and_debug.md R277). -/
def reply (s : State) (r : HostReply) : State := if s.replay.getLsbD 0 then s else { s with hostOut := r :: s.hostOut }

/-- BAR0_BAD_ACCESS (R258): Completer Abort, without effect. -/
def execBar0BadAccess (off len tag : Nat) (s : State) : Host.Outcome State Fault Refusal :=
  done (if barAccess off len then s else reply s (.abort tag))

end Sys2Proof.Machine
end

