-- ==== Sys2Proof/Machine/System.lean ====
section
/-! DEFINITION. The system and debug instructions SRD, SWR, SVC, SRET, TLBI, DCAP and TRIG (18_reference_m_s.md R379 to R382,
19_reference_t_z.md R395, R397, 17_reference_d_l.md R332), capabilities (14_determinism_and_debug.md R286 to R288) and debug halts. -/
namespace Sys2Proof.Machine

/-! ### The capability table (R286, Table 14.7) -/

/-- An entry of the capability table. -/
abbrev DEnt := BitVec 128

/-- The address of an entry (R286). -/
def dentAddr (s : State) (e : Nat) : Nat := s.dcapbase.toNat + 16 * e
/-- Reads an entry. -/
def dent (s : State) (e : Nat) : DEnt := BitVec.ofNat 128 (ofBytes (devRead s (dentAddr s e) 16))
/-- VALID. -/
def DEnt.valid (e : DEnt) : Bool := e.getLsbD 0
/-- RIGHTS, by the bit positions of Table 14.7. -/
def DEnt.rights (e : DEnt) : Nat := keep e.toNat 7 1
/-- HOLDER. -/
def DEnt.holder (e : DEnt) : Nat := bits e 23 8
/-- TARGET. -/
def DEnt.target (e : DEnt) : Nat := bits e 39 24
/-- PARENT. -/
def DEnt.parent (e : DEnt) : Nat := bits e 51 40
/-- GEN. -/
def DEnt.gen (e : DEnt) : Nat := bits e 71 52
/-- An entry from its fields. -/
def DEnt.make (valid : Bool) (rights holder target parent gen : Nat) : DEnt :=
  BitVec.ofNat 128 (flag valid + keep rights 7 1 + holder % 65536 * 2 ^ 8 + target % 65536 * 2 ^ 24 + parent % 4096 * 2 ^ 40 + gen % 2 ^ 20 * 2 ^ 52)
/-- The entry after a revocation (R288). -/
def DEnt.revoke (e : DEnt) : DEnt := DEnt.make false e.rights e.holder e.target e.parent (e.gen + 1)

/-- The rights that a launch's DCAPH grants its threads: the entry's index and the entry (R286). -/
def grantOf (s : State) (w : WKey) : Option (Nat × DEnt) :=
  let h := lrec s (grp s w) 287 256
  let e := dent s (h % 4096)
  if h ≠ 0 && e.valid && e.gen == h / 4096 && e.holder == (grp s w).ctx then some (h % 4096, e) else none

/-- A right of R287: its bit in RIGHTS. -/
inductive Right where | halt | readState | writeState | trace | profile | replay | scan
  deriving DecidableEq, Repr

/-- The bit of a right (Table 14.7). -/
def Right.bit : Right → Nat
  | .halt => 1 | .readState => 2 | .writeState => 3 | .trace => 4 | .profile => 5 | .replay => 6 | .scan => 7

/-- The entry under which a thread in user mode holds a right for a target context. -/
def holds (s : State) (w : WKey) (r : Right) (ok : Nat → Bool) : Option Nat :=
  match grantOf s w with
  | some (i, e) => if natBit e.rights r.bit && ok e.target then some i else none
  | none => none

/-- The right that R287 assigns to a register of BAR0. -/
def rightOf (off : Nat) : Option Right :=
  if off = 0x20A0 then some .halt
  else if (0x2080 ≤ off ∧ off < 0x2084) ∨ (0x2088 ≤ off ∧ off < 0x2098) then some .profile
  else if (0x2030 ≤ off ∧ off < 0x2058) ∨ (0x2400 ≤ off ∧ off < 0x2840 ∧ off % 0x20 < 0x18) then some .replay
  else if (0x2058 ≤ off ∧ off < 0x2064) ∨ (0x2070 ≤ off ∧ off < 0x207C) then some .scan
  else if 0x10000 ≤ off ∧ off < 0x90000 ∧ 0x100 ≤ off % 0x10000 ∧ off % 0x10000 < 0x12C ∧ ¬(0x11C ≤ off % 0x10000 ∧ off % 0x10000 < 0x120) then
    some .trace
  else none

/-- The target context that a right must cover: the one named for HALT; every context for REPLAY and SCAN; any for the others. -/
def Right.covers (r : Right) (ctx target : Nat) : Bool :=
  match r with
  | .halt | .readState | .writeState => target == 0xFFFF || target == ctx
  | .replay | .scan => target == 0xFFFF
  | .trace | .profile => true

/-! ### SRD and SWR (R380, R381) -/

/-- The context that SRD, SWR and TLBI name: the executing one when B is 3FFh. -/
def namedCtx (s : State) (c : Cursor) (l : Nat) (b : Opd) : Nat :=
  if b == .zero then (grp s c.w).ctx else src s c l b false % 65536

/-- The thread that a selector names (R380), when it may be reached (R381): resident, of the target context, and Parked or in a halted
group. A selector with a nonzero bit in 31:19 names none (log 72). -/
def namedThread (s : State) (c : Cursor) (l : Nat) (b : Opd) : Option (WKey × Nat) :=
  let v := src s c l b false
  let w : WKey := { core := natBits v 8 0, quad := natBits v 10 9, slot := natBits v 13 11 }
  let t := natBits v 18 14
  if v / 2 ^ 19 ≠ 0 ∨ (warpAt s w).isNone then none
  else
    let parked := (thrAt s w t).isParked
    if parked || (grp s w).halted then some (w, t) else none

/-- A register of a thread by its operand code (R296), or the program counter; none where the thread has no such register. -/
def readThr (s : State) (w : WKey) (t n : Nat) : Option Nat :=
  if n = 0x3FE then some (thrAt s w t).pc.toNat
  else
    match Opd.ofCode (BitVec.ofNat 10 n) with
    | .g i => if i.val < ((warpAt s w).getD {}).alloc then some ((thrAt s w t).reg i.val).toNat else none
    | .k i => some (((warpAt s w).getD {}).kreg i.val).toNat
    | .p i => some (flag ((thrAt s w t).pred i))
    | .s r => some (sreg s w 0 t r).toNat
    | _ => none

/-- Writes it: a special register only where it is s.privhwm (R97, R381). DESIGN CHOICE (log 65): of the register pair, bits 31:0 are the value of
s.privhwm that R97 checks, and the upper 32 bits are ignored. -/
def writeThr (s : State) (w : WKey) (t n v : Nat) : Option State :=
  if n = 0x3FE then some (updThr s w t fun h => { h with pc := w64 v, blk := none })
  else
    match Opd.ofCode (BitVec.ofNat 10 n) with
    | .g i =>
      if i.val < ((warpAt s w).getD {}).alloc then
        let s := updThr s w t fun h => h.setReg i.val (w32 v)
        some { s with ms.damage := s.ms.damage.filter (· != .reg w t n) }
      else none
    | .k i => some (updWarp s w fun x => { x with k := x.k.setIfInBounds i.val (w32 v) })
    | .p i => some (updThr s w t fun h => h.setPred i.val (natBit v 0))
    | .s .privhwm =>
      let top := 2 ^ (bits (ctxOf s (grp s w).ctx).pfctl 4 0 - 6) / 2048
      if v % 2 ^ 32 = 0 ∨ top < v % 2 ^ 32 then none else some (updWarp s w fun x => { x with hwm := v % 2 ^ 32 })
    | _ => none

/-- The length of the register at an offset of BAR0. -/
def barLen (off : Nat) : Nat := if bar8 off then 8 else 4

/-- SRD for one thread. -/
def srdLane (o : SysOps) (c : Cursor) (s : State) (l : Nat) : LRes :=
  let s := settlePosted s c.w l
  let n := o.n.toNat
  match o.sp with
  | .ctx =>
    if c.user then .trap 0x128 0
    else
      match s.ctxs.get? (namedCtx s c l o.b) with
      | some r => if n < 14 then .ok (dst s c l o.r true (ctxReg r n)) else .trap 0x129 0
      | none => .trap 0x129 0
  | .bar =>
    if !c.user then .ok (dst s c l o.r true (readBar s n (barLen n)))
    else
      match rightOf n with
      | none => .trap 0x129 0
      | some r =>
        match holds s c.w r fun t => r == .halt || r.covers 0 t with
        | some _ => .ok (dst s c l o.r true (readBar s n (barLen n)))
        | none => .trap 0x12A 0
  | .thr =>
    let who := namedThread s c l o.b
    let ctx := (who.map fun e => (grp s e.1).ctx).getD 0
    if c.user && (holds s c.w .readState fun t => who.isNone || Right.readState.covers ctx t).isNone then .trap 0x12A 0
    else
      match who with
      | none => .trap 0x129 0
      | some (w, t) =>
        match readThr s w t n with
        | some v => .ok (dst s c l o.r true v)
        | none => .trap 0x129 0

/-- SRD (R380). -/
def execSrd (h : Hdr) (o : SysOps) (s : State) : Host.Outcome State Fault Refusal :=
  perLaneW (.srd h o) h s (fun c s l => rangeNeed s c l) (srdLane o)

/-- SWR for one thread; a write that starts an operation makes its event due. -/
def swrLane (o : SysOps) (c : Cursor) (s : State) (l : Nat) : LRes :=
  let s := settlePosted s c.w l
  let n := o.n.toNat
  let v := src s c l o.r true
  match o.sp with
  | .ctx =>
    if c.user then .trap 0x128 0
    else
      let x := namedCtx s c l o.b
      if (s.ctxs.get? x).isSome && n < 14 then .ok (updCtx s x fun r => setCtxReg r n v) else .trap 0x129 0
  | .bar =>
    if !c.user then .ok (writeBar s none n (barLen n) v)
    else
      match rightOf n with
      | none => .trap 0x129 0
      | some r =>
        match holds s c.w r fun t => r.covers (natBits v 25 10) t with
        | some i => .ok (writeBar s (some i) n (barLen n) v)
        | none => .trap 0x12A 0
  | .thr =>
    let who := namedThread s c l o.b
    let ctx := (who.map fun e => (grp s e.1).ctx).getD 0
    if c.user && (holds s c.w .writeState fun t => who.isNone || Right.writeState.covers ctx t).isNone then .trap 0x12A 0
    else
      match who with
      | none => .trap 0x129 0
      | some (w, t) =>
        match writeThr s w t n v with
        | some s => .ok s
        | none => .trap 0x129 0

/-- The events that an instruction has made due take place in the order in which it made them: `n` were due before it. -/
def inOrder (n : Nat) (s : State) : State :=
  let k := s.agenda.length - n
  { s with agenda := (s.agenda.take k).reverse ++ s.agenda.drop k }

/-- SWR (R380). -/
def execSwr (h : Hdr) (o : SysOps) (s : State) : Host.Outcome State Fault Refusal :=
  andThen (perLaneW (.swr h o) h s (fun c s l => rangeNeed s c l) (swrLane o)) (inOrder s.agenda.length)

/-! ### SVC and SRET (R382) -/

/-- SVC (R382). -/
def execSvc (h : Hdr) (imm : W32) (s : State) : Host.Outcome State Fault Refusal :=
  perLane (.svc h imm) h s fun c s l =>
    let e := bits (ctxOf s (grp s c.w).ctx).svcentry 56 2
    if !c.user || e == 0 then .trap 0x162 0
    else
      match push s c l (c.pc + 12) with
      | (_, .error (code, addr)) => .trap code addr
      | (s, .ok ()) => .ok (updThr s c.w l fun t => { t with pc := w64 (e * 4), gate := true })

/-- SRET (R382). -/
def execSret (h : Hdr) (s : State) : Host.Outcome State Fault Refusal :=
  perLane (.sret h) h s fun c s l =>
    if c.user then .trap 0x128 0
    else
      match pop s c l with
      | (_, .error (code, addr)) => .trap code addr
      | (s, .ok t) => .ok (updThr s c.w l fun h => { h with pc := t })

/-! ### TLBI (R395) -/

/-- Removes the cached translations that satisfy a test, from every TLB and translation cache, and the walks that restart. -/
def dropPages (s : State) (test : Nat → Nat → Nat → Bool) : State :=
  let out := fun (e : TlbEntry) => test e.page.ctx e.page.va e.page.size
  let bad := fun (d : Damage) => match d with | .tlb c va => test c va 1 | _ => false
  { s with
    ms.tlb := s.ms.tlb.map fun e => (e.1, e.2.filter fun x => !out x)
    ms.tcache := s.ms.tcache.map fun es => es.filter fun x => !out x
    ms.damage := s.ms.damage.filter fun d => !bad d }

/-- TLBI (R395). -/
def execTlbi (h : Hdr) (mode : TlbiMode) (a b : Opd) (s : State) : Host.Outcome State Fault Refusal :=
  perLaneW (.tlbi h mode a b) h s (fun c s l => rangeNeed s c l) fun c s l =>
    if c.user then .trap 0x128 0
    else
      let x := namedCtx s c l b
      if mode != .all && (s.ctxs.get? x).isNone then .trap 0x129 0
      else
        let s := pkgRelease (settlePosted s c.w l) c.w.core
        let va := src s c l a true
        match mode with
        | .va => .ok (dropPages s fun c p n => c == x && p ≤ va && va < p + n)
        | .ctx => .ok (dropPages s fun c _ _ => c == x)
        | .all => .ok (dropPages s fun _ _ _ => true)

/-! ### DCAP (R332) -/

/-- The entry as DCAP sees it: a revocation that is yet to take effect has been made (R288). -/
def dentNow (s : State) (e : Nat) : DEnt := if s.revoked.any (·.2 == e) then (dent s e).revoke else dent s e

/-- The entries above one, by PARENT, up to a root. -/
def ancestors (s : State) : Nat → Nat → List Nat
  | 0, _ => []
  | n + 1, e =>
    let p := (dentNow s e).parent
    if p = e then [] else p :: ancestors s n p

/-- Writes an entry at its home with a release at .sys. -/
def putDent (s : State) (core e : Nat) (v : DEnt) : State :=
  devWrite (pkgRelease s core) (dentAddr s e) (toBytes 16 v.toNat)

/-- Revoke (R332): the entry and its descendants, in the cycle after DCAP completes (R288), so many cycles after its issue. -/
def revoke (s : State) (e lat : Nat) : State :=
  let down := (List.range 4096).filter fun i => (dentNow s i).valid && (i == e || (ancestors s 4096 i).contains e)
  { s with revoked := s.revoked ++ down.map fun i => ((s.cycle + lat) % 2 ^ 64, i) }

/-- The lowest entry from 1 that is not valid. -/
def freeDent (s : State) : Option Nat := (List.range 4096).find? fun i => 1 ≤ i && !(dentNow s i).valid

/-- DCAP for one thread. -/
def dcapLane (op : DcapOp) (d a b g : Opd) (c : Cursor) (s : State) (l : Nat) : LRes :=
  let h := src s c l a false
  let e := h % 4096
  let s := devCheck s s.dcapbase.toNat 65536
  let x := dentNow s e
  let live := x.valid && x.gen == h / 4096
  let ctx := (grp s c.w).ctx
  match op with
  | .dlg =>
    let r := src s c l b false
    if !live || (c.user && x.holder != ctx) then .trap 0x12A 0
    else if natBit r 0 || r / 256 != 0 || Nat.land (keep r 7 1) (254 - x.rights) != 0 then .trap 0x12B 0
    else
      match freeDent s with
      | none => .ok (dst s c l d false 0)
      | some n =>
        let gen := (dentNow s n).gen
        let pend := fun (r : Nat × Nat) => if r.2 == n then (r.1, n + 4096) else r
        let s := { s with revoked := s.revoked.map pend }
        let s := putDent s c.w.core n (DEnt.make true r (src s c l g false) x.target e gen)
        .ok (dst s c l d false (gen * 4096 + n))
  | .rev =>
    if !live then .ok (dst s c l d false 0)
    else if c.user && x.holder != ctx && !(ancestors s 4096 e).any fun i => (dentNow s i).holder == ctx then .trap 0x12A 0
    else .ok (dst (pkgRelease (revoke s e c.lat) c.w.core) c l d false 1)
  | .qry => .ok (dst s c l d false (if live then x.rights + 1 else 0))

/-- DCAP (R332). -/
def execDcap (h : Hdr) (op : DcapOp) (d a b c : Opd) (s : State) : Host.Outcome State Fault Refusal :=
  perLane (.dcap h op d a b c) h s (dcapLane op d a b c)

/-- A saved group's halt and its warps' single steps made under an entry end. -/
def Saved.unhalt (e : Nat) (v : Saved) : Saved :=
  if v.group.haltBy == some e then
    { v with
      group := { v.group with halted := false, haltBy := none }
      warps := v.warps.map fun p => (p.1, { p.2 with step1 := false, th := p.2.th.map fun t => { t with sstep := false } }) }
  else v

/-- Halts, single-steps and triggers made under an entry end, a saved group's too (R288). -/
def endUnder (s : State) (e : Nat) : State :=
  let s := { s with saved := s.saved.map (Saved.unhalt e) }
  let mine := (s.groups.filter fun g => g.2.haltBy == some e).map (·.1)
  let s := mine.foldl (fun s gid =>
    let s := updGroup s gid fun g => { g with halted := false, haltBy := none }
    let s := updGroupThreads s gid (fun _ => true) fun t => { t with sstep := false }
    (s.groups.getD gid {}).warps.foldl (fun s w => updWarp s w fun x => { x with step1 := false }) s) s
  let stop := fun (t : Trace) => if t.by_ == some e && t.en && (t.src != 0 || t.effect.isSome || t.left.isSome) then { t with stopped := true, effect := none, left := none, by_ := none } else t
  { s with trace := s.trace.map stop }

/-- Revocations that take effect in this cycle (R288). -/
def takeRevocations (s : State) : State :=
  -- nothing completed in a held cycle before this one (01_device_overview.md R25)
  let late := heldCycle s ((s.cycle + 2 ^ 64 - 1) % 2 ^ 64)
  let now := s.revoked.filter fun r => r.1 ≤ s.cycle && !late
  let s := { s with revoked := s.revoked.filter fun r => !(r.1 ≤ s.cycle && !late) }
  now.foldl (fun s r =>
    let s := if r.2 < 4096 then devWrite s (dentAddr s r.2) (toBytes 16 (dent s r.2).revoke.toNat) else s
    endUnder s (r.2 % 4096)) s

/-! ### TRIG (R397) -/

/-- TRIG (R397): one trigger for the path. -/
def execTrig (h : Hdr) (imm : W32) (s : State) : Host.Outcome State Fault Refusal :=
  perPath (.trig h imm) h s fun c _ s =>
    if c.user && (holds s c.w .trace fun _ => true).isNone then .trap 0x12A 0 else .ok (trigger s fun t => t.src.getLsbD 0)

/-! ### Debug halts (R380) -/

/-- Changes the groups of a context on the cores named. -/
def haltGroups (s : State) (core : Nat) (all : Bool) (ctx : Nat) (f : State → Nat → State) : State :=
  ((s.groups.filter fun g => g.2.ctx == ctx && (all || g.2.core == core)).map (·.1)).foldl f s

/-- DBGHALT_HALT (R380). -/
def execDbghaltHalt (core : Nat) (all : Bool) (ctx : Nat) (s : State) : Host.Outcome State Fault Refusal :=
  done (haltGroups s core all ctx fun s gid => updGroup s gid fun g => { g with halted := true, haltBy := s.dbgBy })

/-- Each warp of a group drops what is left of a single step. -/
def dropStep (s : State) (gid : Nat) (on : Bool) : State :=
  (s.groups.getD gid {}).warps.foldl (fun s w => updWarp s w fun x => { x with step1 := on }) s

/-- DBGHALT_RESUME (R380). -/
def execDbghaltResume (core : Nat) (all : Bool) (ctx : Nat) (s : State) : Host.Outcome State Fault Refusal :=
  done (haltGroups s core all ctx fun s gid =>
    let s := dropStep (updGroup s gid fun g => { g with halted := false, haltBy := none }) gid false
    updGroupThreads s gid (fun _ => true) fun t => { t with sstep := false })

/-- DBGHALT_STEP (R380): each warp of a halted group may issue once; groups not yet halted are halted. -/
def execDbghaltStep (core : Nat) (all : Bool) (ctx : Nat) (s : State) : Host.Outcome State Fault Refusal :=
  done (haltGroups s core all ctx fun s gid =>
    let was := (s.groups.getD gid {}).halted
    let s := updGroup s gid fun g => { g with halted := true, haltBy := s.dbgBy }
    if was then dropStep s gid true else s)

end Sys2Proof.Machine
end

