-- ==== Sys2Proof/Machine/Host.lean ====
section
/-! DEFINITION. The host link (13_host_and_system.md R256 to R262, R266): snoops, configuration requests, MSI-X, the queue agent
(03_work_scheduling.md R74, R78, R79, 12_pennants.md R247), attestation, and contexts made known and unknown (04_memory_hierarchy.md R98). -/
namespace Sys2Proof.Machine

/-! ### Requests that are only answered -/

/-- HOST_REQUEST_NOT_READY (01_device_overview.md R27, 14_determinism_and_debug.md R277, R280): Configuration Request Retry Status, or
Unsupported Request. -/
def execHostRequestNotReady (config : Bool) (tag : Nat) (s : State) : Host.Outcome State Fault Refusal :=
  done { s with hostOut := (if config then .retry tag else .unsupported tag) :: s.hostOut }

/-- CXL_UNSUPPORTED_REQUEST (R257). -/
def execCxlUnsupportedRequest (tag : Nat) (s : State) : Host.Outcome State Fault Refusal := done (reply s (.unsupported tag))

/-- The widths and rates at which PCI Express trains, up to x16 at 128 GT/s; 2 stands for 2.5 GT/s (PRESUMED, log 12). -/
def linkFits (width gts : Nat) : Bool := [1, 2, 4, 8, 16].contains width && [2, 5, 8, 16, 32, 64, 128].contains gts

/-- HOST_LINK_TRAINING (R256, R265): the width and rate that the link has, and the version negotiated: the lower of the host's and the device's 7
(PRESUMED, log 12). Another width or rate is none that a link trains at. -/
def execHostLinkTraining (width : Nat) (terms : LinkTerms) (s : State) : Host.Outcome State Fault Refusal :=
  done (if linkFits width terms.gts then { s with linkWidth := width, linkRate := terms.gts, linkVer := min terms.ver 7 } else s)

/-! ### MSI-X (R262) -/

/-- MSIX_VECTOR_UNMASK (R262): the pending message is sent and its bit cleared. -/
def execMsixVectorUnmask (n : Nat) (s : State) : Host.Outcome State Fault Refusal :=
  let m := s.msix
  if m.enable && !m.fmask && !m.mask.getLsbD n && m.pend.getLsbD n then
    done (msixRaise { s with msix.pend := m.pend &&& ~~~BitVec.ofNat 16 (2 ^ n) } n)
  else done s

/-- The register that holds MSI-X Message Control, among those that PCI Express leaves to capabilities (log 12). -/
def msixReg : Nat := 16 + Config.msixCap % 46

/-- A register with a value in some of its bits and a free value in the others. -/
def maskedReg (free mask v : Nat) : W32 := (w32 free &&& ~~~w32 mask) ||| w32 v

/-- Register `reg` of the configuration space (R256 to R258, R262), at the places of PCI Express and CXL (PRESUMED, log 12): a header of one
function; BAR0, 64-bit and non-prefetchable, of 16 MiB, and no other BAR; the MSI-X capability; and the one extended capability, the CXL
DVSEC, which reports Mem_Capable 0 and HDM_Count 0, so that there is no SR-IOV, no ATS and no PASID. -/
def configReg (s : State) (reg free : Nat) : W32 :=
  if reg = 3 then maskedReg free 0x00FF0000 0
  else if reg = 4 then w32 (s.bar0.toNat % 2 ^ 32 / 2 ^ 24 * 2 ^ 24 + 4)
  else if reg = 5 then hi32 s.bar0
  else if 6 ≤ reg ∧ reg ≤ 9 then 0
  else if reg = msixReg then maskedReg free 0xC7FF00FF (0x000F0011 + flag s.msix.enable * 2 ^ 31 + flag s.msix.fmask * 2 ^ 30)
  else if reg = msixReg + 1 then 0x3000#32
  else if reg = msixReg + 2 then 0x3800#32
  else if reg = 64 then 0x00010023#32
  else if reg = 66 then maskedReg free 0x0037FFFF 0x00030000
  else w32 free

/-- HOST_CONFIG_REQUEST (R256): function 0 alone is there; a request to another draws Unsupported Request. -/
def execHostConfigRequest (write : Bool) (at_ : ConfigAddr) (val : W32) (tag : Nat) (s : State) : Host.Outcome State Fault Refusal :=
  let reg := at_.reg
  if at_.fn ≠ 0 then done (reply s (.unsupported tag))
  else if write then
    let s := if reg = msixReg then { s with msix.enable := val.getLsbD 31, msix.fmask := val.getLsbD 30 } else s
    let s := if reg = 4 then { s with bar0 := w64 (s.bar0.toNat / 2 ^ 32 * 2 ^ 32 + val.toNat / 2 ^ 24 * 2 ^ 24) } else s
    let s := if reg = 5 then { s with bar0 := w64 (val.toNat * 2 ^ 32 + s.bar0.toNat % 2 ^ 32) } else s
    let vs := (List.range 16).filter fun n => s.msix.enable && !s.msix.fmask && !s.msix.mask.getLsbD n && s.msix.pend.getLsbD n
    done (reply { s with agenda := vs.map Instr.msixVectorUnmask ++ s.agenda } (.config tag 0))
  else
    let r := free s
    done (reply r.2 (.config tag (configReg s reg r.1)))

/-! ### CXL.cache -/

/-- The key of the line of 128 bytes that holds a host line of 64. -/
def hostLineKey (line : Nat) : Nat := 2 ^ 52 / 128 + line / 2

/-- The response to a snoop gives the dirty bytes of a half of D0's line to the host, but in replay, where it is discarded. -/
def hostGive (s : State) (k half : Nat) : State :=
  match s.ms.hostLines.get? k with
  | none => s
  | some h =>
    let mine := (h.cells k).filter fun c => c.1 / 64 == half
    { s with
      mem := if s.replay.getLsbD 0 then s.mem else s.mem.putAll mine
      ms.hostLines := s.ms.hostLines.put k { h with dirty := (List.range 128).map fun i => h.dirty.getD i false && !(k * 128 + i) / 64 == half } }

/-- The other half of a line of the window leaves D0 when one half is invalidated: by DirtyEvict with its dirty bytes, else by CleanEvict (R257,
log 43). -/
def evictHalf (s : State) (k other : Nat) : State :=
  match s.ms.hostLines.get? k with
  | none => s
  | some h =>
    let cs := (h.cells k).filter fun c => c.1 / 64 == other
    if !cs.isEmpty then hostPut s (if inWindow s (k * 128) then .dirtyEvict else .wrCur) k cs
    else if inWindow s (k * 128) then hostSend s .cleanEvict (other * 64 - 2 ^ 52) []
    else s

/-- HOST_SNOOP (R257) of a 64-byte line: the home's line is answered; SnpData leaves it Shared; SnpInv drops it, wakes the queue agent of a tail
line (R79), and the tail count and the packet are there 90 cycles after it (R80). The other half of D0's line stays as it is at SnpData, and goes
as an eviction at SnpInv. -/
def execHostSnoop (kind : SnoopKind) (line : Nat) (s : State) : Host.Outcome State Fault Refusal :=
  let k := hostLineKey line
  let half := 2 ^ 52 / 64 + line
  let data := match s.ms.hostLines.get? k with | some h => (h.data.drop (line % 2 * 64)).take 64 | none => []
  let s := reply s (.snoop kind line data)
  match kind with
  | .cur => done s
  | .data =>
    let s := hostGive s k half
    match s.ms.hostLines.get? k with
    | some h =>
      let h := if h.dirty.any id then { h with shared := some (line * 64) } else { h with cxl := min h.cxl 1, shared := none }
      done { s with ms.hostLines := s.ms.hostLines.put k h }
    | none => done s
  | .inv =>
    let s := hostForget (evictHalf (hostGive s k half) k (2 * k + (1 - line % 2))) k
    let s := { s with ms.l2 := s.ms.l2.filter fun e => e.1 != k || e.2.pinned }
    let wake := fun (q : HostQueue) =>
      if q.en && q.tail.toNat / 64 == line then { q with woken := true, readAt := s.cycle + 90, tailIs := none, pkt := none } else q
    done { s with hq := s.hq.map wake }

/-- The device writes bytes of host memory: the home takes each line of the window in Modified state. -/
def hostWrite (s : State) (addr : Nat) (bs : List Byte) : State :=
  let cs := Memory.cells (hostKey addr) bs
  let s := (linesOf cs).foldl (fun s ln => if inWindow s (ln * 128) then hostFill s ln 3 else s) s
  homeWrite (vcTick s 0) (vcOf s 0) cs

/-! ### The queue agent (R79) -/

/-- The agent serves a queue: it is enabled, its tail line lies in the window, and, unless it is a pennant queue, its context is known
(R78, R98, R260). -/
def served (s : State) (n : Nat) : Bool :=
  let q := s.hq.getD n {}
  q.en && inWindow s (hostKey q.tail.toNat) && (s.pnhqsel.getLsbD n || (s.ctxs.get? q.ctx).isSome)

/-- The packets the ring holds (Table 3.3). -/
def HostQueue.ring (q : HostQueue) : Nat := 2 ^ (q.size + 4)

/-- HEAD passes a packet. -/
def passPacket (s : State) (n : Nat) : State := updHq s n fun q => { q with head := q.head + 1 }

/-- A rejected launch packet (R74): the failure word at COMP, or REJ. -/
def rejectPacket (s : State) (n : Nat) (r : LRec) (why : Nat) : State :=
  let comp := bits r 447 384
  let rej := fun (s : State) => updHq s n fun q => { q with rej := true }
  if comp = 0 ∨ why = 10 ∨ comp % 8 ≠ 0 ∨ bits r 511 448 % 32 ≠ 0 then rej s
  else
    match compStore s 0 (s.hq.getD n {}).ctx comp (2 + 256 * 0x147 + 2 ^ 32 * why) with
    | (s, true) => s
    | (s, false) => rej s

/-- A pennant packet (12_pennants.md R247): malformed ones settle with status 5. -/
def pennantPacket (s : State) (n : Nat) (r : LRec) : State :=
  let status := bits r 319 256
  let bad := descBad (BitVec.ofNat 128 (bits r 127 0)) || natBit r.toNat 199 || bits r 255 200 != 0 || bits r 1023 320 != 0 || status % 8 != 0
  if bad then (if status = 0 ∨ status % 8 ≠ 0 then s else hostWrite s status (toBytes 8 5))
  else
    (makeSend s (.host n status) 0 (w32 (2 ^ 31 + n)) (BitVec.ofNat 128 (bits r 127 0)) (bits r 197 192) (w64 (bits r 191 128)) (natBit r.toNat 198)).1

/-- The bytes of the packet at the head count. -/
def packetKey (q : HostQueue) : Nat := hostKey (q.base.toNat + 128 * (q.head.toNat % q.ring))

/-- The agent of a queue asks the host for what it needs of some keys: its requests are its own (13_host_and_system.md R257). -/
def agentAsks (s : State) (n : Nat) (ks : List Nat) : State := markAsks (hostAsks s ks) s.hostReqs.length fun q => { q with hq := some n }

/-- The agent reads the tail count and the head packet, issued together (R79, R80). -/
def agentRead (s : State) (n : Nat) : State :=
  let q := s.hq.getD n {}
  let t := hostKey q.tail.toNat
  let p := packetKey q
  updHq (agentAsks s n [t, p, p + 64]) n fun q => { q with tailIs := some (w32 (ofBytes (homeRead s t 4))), pkt := some (homeRead s p 128) }

/-- The agent has the head packet, or asks for it. -/
def agentFetch (s : State) (n : Nat) : State :=
  let p := packetKey (s.hq.getD n {})
  updHq (agentAsks s n [p, p + 64]) n fun q => { q with pkt := some (homeRead s p 128) }

/-- One packet (R74, R78, 12_pennants.md R247): HEAD passes it, but where a launch finds no room. -/
def agentPacket (s : State) (n : Nat) (bs : List Byte) : Option State :=
  let q := s.hq.getD n {}
  let r : LRec := BitVec.ofNat 1024 (ofBytes bs)
  if s.pnhqsel.getLsbD n then some (passPacket (pennantPacket s n r) n)
  else
    match r.reject with
    | some why => some (passPacket (rejectPacket s n r why) n)
    | none =>
      if tableRoom s 0 && roomForDevice s 0 (bits r 142 140) then some (passPacket (acceptLaunch s 0 q.ctx r none).1 n) else none

/-- The agent has taken every packet: the tail line is taken in Shared state again (R79). DEDUCED (log 82): a tail count that the line then shows
to be another is served at once, since no snoop told of it. -/
def agentRest (s : State) (n : Nat) : State :=
  let t := hostKey (s.hq.getD n {}).tail.toNat
  let s := hostFill s (t / 128) 1
  let more := w32 (ofBytes (homeRead s t 4)) != (s.hq.getD n {}).head
  updHq s n fun q => { q with woken := more, readAt := if more then s.cycle else q.readAt, tailIs := none, pkt := none }

/-- What the agent does with the tail count and the packet that it has: the packets up to the tail count, as long as their bytes are there. -/
def agentWork (n : Nat) (tail : W32) : Nat → State → State
  | 0, s => s
  | m + 1, s =>
    let q := s.hq.getD n {}
    if q.head = tail then agentRest s n
    else
      match q.pkt with
      | none => agentWork n tail m (agentFetch s n)
      | some bs =>
        if s.hostReqs.any fun r => r.hq == some n then s
        else
          match agentPacket s n bs with
          | none => s
          | some s => agentWork n tail m (updHq s n fun q => { q with pkt := none })

/-- The agent has work on a queue: it reads 80 cycles before the cycle in which R80 has the packet there, and goes on once the host has
answered. -/
def agentDue (s : State) (n : Nat) : Bool :=
  let q := s.hq.getD n {}
  q.woken && served s n && !(s.hostReqs.any fun r => r.hq == some n) && (if q.tailIs.isNone then q.readAt ≤ s.cycle + 80 else q.readAt ≤ s.cycle)

/-- QUEUE_AGENT_PACKETS (R78, R79): the tail count and the head packet are read; when the host has answered, an overrun sets OVF and clears EN, or
the packets are taken. -/
def execQueueAgentPackets (hq : Nat) (s : State) : Host.Outcome State Fault Refusal :=
  if !agentDue s hq then done s
  else
    let q := s.hq.getD hq {}
    match q.tailIs with
    | none => done (agentRead s hq)
    | some tail =>
      if q.ring < (tail - q.head).toNat then
        done (updHq s hq fun q => { q with ovf := true, en := false, woken := false, tailIs := none, pkt := none })
      else done (agentWork hq tail (3 * q.ring + 3) s)

/-- HQ_ENABLE (R79): the agent takes the tail line and begins to serve the ring. -/
def execHqEnable (n : Nat) (s : State) : Host.Outcome State Fault Refusal := 
  done (updHq s n fun q => { q with woken := true, readAt := s.cycle, tailIs := none, pkt := none })

/-! ### Contexts (04_memory_hierarchy.md R98) -/

/-- CTX_CREATE (R98). DESIGN CHOICE (log 83): R98 gives both BADID and FULL to an identity that is known, 0 or 0FFFFh while 4,096 contexts are known,
and no order: BADID alone is set. -/
def execCtxCreate (id : Nat) (s : State) : Host.Outcome State Fault Refusal :=
  if id = 0 ∨ 0xFFFF ≤ id ∨ (s.ctxs.get? id).isSome then done { s with ctxBadId := true }
  else if 4096 ≤ s.ctxs.length then done { s with ctxFull := true }
  else done { s with ctxs := s.ctxs.put id {} }

/-- What keeps a context known (R98). -/
def ctxInUse (s : State) (id : Nat) : Bool :=
  let dies := List.range 8
  dies.any (fun d => (schedOf s d).launches.any fun e => e.2.ctx == id) ||
  dies.any (fun d => (schedOf s d).waiting.any fun q => q.ctx == id) ||
  dies.any (fun d => (schedOf s d).queues.toList.any fun l => l.any fun q => q.ctx == id) ||
  s.groups.any (fun e => e.2.ctx == id) || s.saved.any (fun v => v.ctx == id) || s.flushed.any (fun f => f.2.1 == id) ||
  (ctxOf s id).heldcnt != 0 || !(ctxOf s id).heldWait.isEmpty ||
  dies.any (fun d => (taskTab s d).any fun e => e.2.ctx == id) ||
  s.coal.any (fun e => e.2.any fun x => x.ctx == id) || dies.any (fun d => (ctabOf s d).any fun e => e.2.ctx == id) ||
  dies.any fun d => (collOf s d).any fun x => x.ctx == id

/-- CTX_DESTROY (R98). -/
def execCtxDestroy (id : Nat) (s : State) : Host.Outcome State Fault Refusal :=
  if (s.ctxs.get? id).isNone then done { s with ctxBadId := true }
  else if ctxInUse s id then done { s with ctxRefused := true }
  else done (dropPages { s with ctxs := s.ctxs.del id } fun c _ _ => c == id)

/-! ### Attestation (R266) -/

/-- ATTREQ (R266): the next counter fuse is burnt first; a request in progress makes the write of no effect. -/
def execAttreq (addr : W64) (s : State) : Host.Outcome State Fault Refusal :=
  if s.att.isSome then done s
  else
    let idx := w32 (attIndex s)
    let r := free s
    done { r.2 with
      attUsed := if s.attUsed < 2 ^ 20 then s.attUsed + 1 else s.attUsed, att := some (addr, idx)
      timed := s.timed ++ [((s.cycle + 1 + r.1) % 2 ^ 64, .attestationComplete)] }

/-- What an attestation signs (R266): the package identity, the digest of the running firmware, the nonce and the index. -/
def attested (s : State) (nonce : List Byte) (idx : Nat) : List Byte :=
  toBytes 2 s.hlpkgid.toNat ++ ((List.range 64).map fun i => Config.digestByte (65536 + i)) ++ nonce ++ toBytes 4 idx

/-- ATTESTATION_COMPLETE (R266): the signature of the nonce in the request's first half (RFC 8391: 9,732 bytes, the first four of which are the
index, big-endian; log 8) and the index at the result address in its second half; only the index when no fuse is left; then vector 9. -/
def execAttestationComplete (s : State) : Host.Outcome State Fault Refusal :=
  match s.att with
  | none => done s
  | some (addr, idx) =>
    let s := hostAsks s [hostKey addr.toNat, hostKey (addr.toNat + 64)]
    let nonce := homeRead s (hostKey addr.toNat) 64
    let result := ofBytes (homeRead s (hostKey (addr.toNat + 64)) 8)
    let sig := if idx = 0xFFFFFFFF#32 then [] else (toBytes 4 idx.toNat).reverse ++ (List.range 9728).map (Config.signatureByte (attested s nonce idx.toNat))
    let s := hostWrite { s with att := none } result (sig ++ toBytes 4 idx.toNat)
    done (msixRaise s 9)

end Sys2Proof.Machine
end

