-- ==== Sys2Proof/Machine/Power.lean ====
section
/-! DEFINITION. Power, start-up and reset (01_device_overview.md R25 to R27, 13_host_and_system.md R266 to R268), refresh
(14_determinism_and_debug.md R272), trace triggers (R283, R284) and tide-table sampling (R285). -/
namespace Sys2Proof.Machine

/-! ### The power cap -/

/-- The first multiple of 4 at or after a cycle (R25). -/
def mul4 (c : Nat) : Nat := (c + 3) / 4 * 4


/-- PWRCTL_GO (R267): the command waits for the first multiple of 4 at or after CYCLE and after this cycle; it replaces one that waits. -/
def execPwrctlGo (step : BitVec 2) (s : State) : Host.Outcome State Fault Refusal :=
  done { s with pwrCmd := some (step, mul4 (max s.pwrcyc.toNat (s.cycle + 1))) }

/-- THERMAL_TRIP (R268). -/
def execThermalTrip (_die : Nat) (s : State) : Host.Outcome State Fault Refusal :=
  done (msixRaise { s with therm := true, thermAt := some (s.thermAt.getD (mul4 (s.cycle + 1))) } 8)

/-- A step takes effect: every die writes a FREQ record (R284), and vector 8 is sent (R262). -/
def takeStep (s : State) (step : BitVec 2) : State :=
  let old := s.pwrCur.toNat
  let s := { s with pwrCur := step }
  let s := (List.range 8).foldl (fun s d => traceCycle s d 4 s.cycle (old + 4 * step.toNat)) s
  msixRaise s 8

/-- A step is due. -/
def stepDue (s : State) : Bool := s.pwrCmd.any (·.2 ≤ s.cycle) || s.thermAt.any (· ≤ s.cycle)

/-- POWER_STEP_EFFECT (R25, R267, R268): a thermal trip's step, then the software's. -/
def execPowerStepEffect (s : State) : Host.Outcome State Fault Refusal :=
  let s := if s.thermAt.any (· ≤ s.cycle) then takeStep { s with thermAt := none } 2 else s
  match s.pwrCmd with
  | some (step, c) => done (if c ≤ s.cycle then takeStep { s with pwrCmd := none } step else s)
  | none => done s

/-! ### Start-up and reset -/

/-- The boundaries between dies (R14). -/
def boundaries : List (Nat × Nat) := [(0, 1), (1, 2), (2, 3), (4, 5), (5, 6), (6, 7), (0, 4), (1, 5), (2, 6), (3, 7)]
/-- Step k of die d has started (R26): cluster k and its vault; with k = 0, also the die's L2 slices, its loops, its boundary stops and its two
Scarp stacks. -/
def started (s : State) (d k : Nat) : Bool := 16 * d + k < s.startup
/-- Boundary i has trained: it starts once both of its dies have completed step 0 (R26). -/
def trained (s : State) (i : Nat) : Bool :=
  let b := boundaries.getD i (0, 0)
  started s b.1 0 && started s b.2 0 && 16 * max b.1 b.2 + 1 + Config.trainSteps i ≤ s.startup + s.training
/-- Every boundary has trained. -/
def allTrained (s : State) : Bool := (List.range boundaries.length).all (trained s)

/-- What a package reset leaves (R27, 14_determinism_and_debug.md R271, R282): every unit in reset, memory and the registers that keep
their values; BOOTSTAT reads 0 (13_host_and_system.md Table 13.1). -/
def resetPackage (s : State) : State :=
  { s with toPackage := {}, swState := 0, startup := 0, training := 0, ready := false, began := false, verified := false, bootErr := 0 }

/-- BOOTSTAT shows what the boot controller found, outside reset. DEDUCED (log 44): verification takes place at power-up alone (R266), so its
result shows again when a later reset is released. -/
def showBoot (s : State) : State := if s.bootDone && !s.inReset then { s with verified := s.bootRes == 0, bootErr := s.bootRes } else s
/-- A verified boot (R27). -/
def verifiedBoot (s : State) : Bool := s.bootDone && s.bootRes == 0

/-- POWER_LOSS (R266): only the fuses and host memory remain. -/
def execPowerLoss (s : State) : Host.Outcome State Fault Refusal :=
  done { resetPackage s with
    mem := s.mem.filter fun c => isHost c.1, power := false, inReset := false, bootDone := false, bootRes := 0
    replayCtl := 0, replayEnd := 0, slackStop := 0, swErr := 0, imgBase := 0, imgSize := 0 }

/-- POWER_ON (R26): the sequence starts at step 0 of D0; verification starts (R266). -/
def execPowerOn (s : State) : Host.Outcome State Fault Refusal :=
  done { resetPackage s with
    power := true, inReset := false, bootDone := false, bootRes := 0
    replayCtl := 0, replayEnd := 0, slackStop := 0, swErr := 0, imgBase := 0, imgSize := 0 }

/-- The package reports ready once the sequence, the training of every boundary and the verification have finished (R26, R266); the count
starts at 0 (R271). -/
def tryReady (s : State) : State :=
  if s.startup = 128 ∧ s.verified ∧ !s.inReset ∧ !s.ready ∧ allTrained s then { s with ready := true, cycle := 0 } else s

/-- The refreshes that the scan domain makes in start-up (14_determinism_and_debug.md R272): 85 in every 8 steps of 40 us, one every 3,200
cycles, from the step that starts the stack's die. -/
def startRefresh (s : State) : State :=
  { s with refreshes := Vector.ofFn fun i : Fin 16 => if started s (i.val / 2) 0 then (s.startup + s.training - 16 * (i.val / 2)) * 85 / 8 else 0 }

/-- STARTUP_STEP (R26): the next step, or, after the last, the wait for the boundaries that still train. -/
def execStartupStep (s : State) : Host.Outcome State Fault Refusal :=
  done (
    if !s.power || s.inReset || s.ready then s
    else if s.startup < 128 then tryReady (startRefresh { s with startup := s.startup + 1 })
    else if allTrained s then s
    else tryReady (startRefresh { s with training := s.training + 1 }))

/-- What verification finds: an image below the fused floor fails with 10b (R266). -/
def bootFinds (s : State) : BitVec 2 := if s.firmware ≠ 0 then s.firmware else if s.fwVersion < s.secFloor then 2 else 0

/-- BOOT_VERIFY_COMPLETE (R266): a verified image of a higher version raises the floor. -/
def execBootVerifyComplete (s : State) : Host.Outcome State Fault Refusal :=
  if s.bootDone || !s.power then done s
  else
    let code := bootFinds s
    done (tryReady (showBoot { s with bootDone := true, bootRes := code, secFloor := if code = 0 then s.fwVersion else s.secFloor }))

/-- PACKAGE_RESET (R27). -/
def execPackageReset (s : State) : Host.Outcome State Fault Refusal := done { resetPackage s with inReset := true }

/-- RESET_RELEASE (R27, 14_determinism_and_debug.md R277): the sequence starts again; MODE is read, and the gates of GATES replay. -/
def execResetRelease (s : State) : Host.Outcome State Fault Refusal :=
  if s.inReset then
    done (showBoot { s with inReset := false, startup := 0, training := 0, ready := false, cycle := 0, replay := if replayMode s then w64 (bits s.replayCtl 35 2) else 0 })
  else done s

/-! ### Refresh and soft errors -/

/-- The cycle carries a refresh tick (R272). -/
def refreshAt (c : Nat) : Bool := c != 0 && c % 3200 == 0
/-- REFRESH_TICK (R272). -/
def execRefreshTick (s : State) : Host.Outcome State Fault Refusal := done { s with refreshes := s.refreshes.map (· + 1) }

/-- MODEL: an uncorrectable soft error damages a place: the code of its array (11_traps_and_preemption.md R218), the core, group or
context, and the line, unit, register or address (log 5). -/
def strike (s : State) (code own at_ : Nat) : State :=
  let d : Option Damage :=
    match code with
    | 0x088 => some (.reg (wKeyOf (own / 32)) (own % 32) at_)
    | 0x089 => some (.l1 own at_ 0)
    | 0x08A => some (.icache own at_)
    | 0x08B => some (.scratch own at_ 0)
    | 0x08C => some (.l2 at_ 0)
    | 0x08D => some (.vault at_ 0)
    | 0x08E => some (.scarp at_ 0)
    | 0x08F => some (.acc own at_)
    | 0x090 => some (.tlb own at_)
    | _ => none
  match d with
  | some d => { s with ms.damage := d :: s.ms.damage.filter (· != d) }
  | none => s

/-- The code of a damaged line of the L2, a vault or Scarp memory. -/
def lineDamage (s : State) (line : Nat) : Option Nat :=
  s.ms.damage.findSome? fun d =>
    match d with
    | .l2 n _ => if n = line then some 0x08C else none
    | .vault n _ => if n = line then some 0x08D else none
    | .scarp n _ => if n = line then some 0x08E else none
    | _ => none

/-- SOFT_ERROR_SCRUB (11_traps_and_preemption.md R229): an error without a requester, found by an eviction, a drain or the scrub, writes a record
of KIND 5, and the line is retained in its way; the run is not replayable from here (R272). -/
def execSoftErrorScrub (line : Nat) (s : State) : Host.Outcome State Fault Refusal :=
  let found := s.ms.found.filter fun e => e.2.2 == line
  if !found.isEmpty then
    let s := { markSoft s with ms.found := s.ms.found.filter fun e => e.2.2 != line }
    done (found.foldl (fun s e => postFault s e.2.1 { code := e.1, kind := 5, addr := w64 (line * 128 % 2 ^ 52) }) s)
  else
  match lineDamage s line with
  | none => done s
  | some code =>
    let s := { s with ms.l2 := match s.ms.l2.get? line with | some l => s.ms.l2.put line { l with retained := true } | none => s.ms.l2 }
    done (postFault (markSoft s) (homeDie (line * 128)) { code := code, kind := 5, addr := w64 (line * 128 % 2 ^ 52) })

/-- RETENTION_AGING (04_memory_hierarchy.md R105): lines of class 10b of a die that have not been accessed for 2^18 cycles. -/
def agingLine (s : State) (die : Nat) (e : Nat × L2Line) : Bool :=
  e.2.cls == 2 && !e.2.aged && e.2.use + 2 ^ 18 ≤ s.cycle && l2Die e.1 == die
/-- RETENTION_AGING (R105): they count as class 01b for victim choice. -/
def execRetentionAging (die : Nat) (s : State) : Host.Outcome State Fault Refusal :=
  done { s with ms.l2 := s.ms.l2.map fun e => if agingLine s die e then (e.1, { e.2 with aged := true }) else e }

/-! ### Trace -/

/-- The count of a die's trace reaches TRCCYC (R283). -/
def traceCycleDue (s : State) (t : Trace) : Bool := t.live && t.src.getLsbD 2 && t.cyc.toNat == s.cycle
/-- TRACE_CYCLE_TRIGGER (R283). -/
def execTraceCycleTrigger (_die : Nat) (s : State) : Host.Outcome State Fault Refusal := done (trigger s (traceCycleDue s))

/-- A trigger takes effect in this cycle. -/
def effectDue (s : State) (t : Trace) : Bool := t.effect.any (· ≤ s.cycle)
/-- TRIGGER_EFFECT (R283): each die writes its TRIGGER record and goes on for POST records, at most its buffer. -/
def execTriggerEffect (s : State) : Host.Outcome State Fault Refusal :=
  done ((List.range 8).foldl (fun s d =>
    let t := traceOf s d
    if effectDue s t then
      let s := traceCycle (updTrace s d fun t => { t with effect := none }) d 3 s.cycle 0
      let post := min t.post.toNat (2 ^ (t.size + 8))
      let s := updTrace s d fun t => { t with left := some post }
      if post = 0 && t.en && !t.stopped then due s (.traceCaptureEnd d) else s
    else s) s)

/-- TRACE_CAPTURE_END (R283). -/
def execTraceCaptureEnd (die : Nat) (s : State) : Host.Outcome State Fault Refusal :=
  done (updTrace s die fun t => if t.left == some 0 then { t with stopped := true, left := none } else t)

/-! ### Tide-table sampling (R285) -/

/-- The counters latch in a cycle. -/
def tideDue (s : State) : Bool := s.tide.en && s.cycle % 2 ^ s.tide.k == 0
/-- A free counter, saturated to 32 bits (log 4). -/
def freeCount (n : Nat) : List Byte := toBytes 4 (Config.freeNat n % 2 ^ 32)
/-- A counter, saturating at 0FFFF_FFFFh. -/
def sat32 (n : Nat) : List Byte := toBytes 4 (min n 0xFFFFFFFF)

/-- A core's 32 bytes of a row (Table 14.6): its stalls are free values. -/
def coreRow (s : State) (core free : Nat) : List Byte :=
  let c := s.tide.counts.getD core {}
  sat32 c.portA ++ sat32 c.portB ++ freeCount free ++ freeCount (free + 1) ++ freeCount (free + 2) ++ sat32 c.parked ++ sat32 c.matrix ++ sat32 c.copy

/-- The counters of a slice and of a vault (Table 14.6). -/
def sliceRow (s : State) (i : Nat) : List Byte :=
  let n := s.ms.sliceN.getD i {}
  sat32 n.hits ++ sat32 n.misses ++ sat32 n.grants ++ sat32 n.drains
/-- The counters of a vault. -/
def vaultRow (s : State) (i : Nat) : List Byte :=
  let n := s.ms.vaultN.getD i (0, 0)
  sat32 n.1 ++ sat32 n.2

/-- A die's block of a row (Table 14.6): the counters of stacks, ports and loops are free values (log 41). -/
def dieRow (s : State) (d : Nat) : List Byte :=
  let f := s.freeCtr + 1200 * d
  toBytes 8 s.cycle ++ toBytes 8 s.tide.start ++ toBytes 4 s.tide.seq.toNat ++ toBytes 1 d ++ toBytes 1 s.tide.k ++ toBytes 2 0 ++
  sat32 s.tide.heldCycles ++ List.replicate 36 0 ++ ((List.range 64).flatMap fun c => coreRow s (64 * d + c) (f + 3 * c)) ++
  ((List.range 64).flatMap fun i => sliceRow s (64 * d + i)) ++ ((List.range 16).flatMap fun v => vaultRow s (16 * d + v)) ++
  ((List.range 36).flatMap fun i => freeCount (f + 192 + i)) ++ List.replicate 688 0

/-- TIDE_LATCH (R285): every die writes its block of the row, 32 entries of 128 bytes on its log path (R276), and the counters start again. -/
def execTideLatch (s : State) : Host.Outcome State Fault Refusal :=
  if !tideDue s then done s
  else
    let t := s.tide
    let at_ := t.base.toNat + 32768 * (t.seq.toNat % t.rows.toNat)
    let s := if t.rows = 0 then s else (List.range 8).foldl (fun s d => logTake (devWrite s (at_ + 4096 * d) (dieRow s d)) d 32) s
    done { s with
      freeCtr := s.freeCtr + 9600, ms.sliceN := [], ms.vaultN := []
      tide := { t with seq := if t.rows = 0 then t.seq else t.seq + 1, start := s.cycle, heldCycles := 0, counts := [] } }

/-- What a cycle adds to the counters, and to the count of held cycles. -/
def tideCount (s : State) : State :=
  let s := if heldCycle s s.cycle then { s with heldN := s.heldN + 1 } else s
  if !s.tide.en then s
  else if heldCycle s s.cycle then { s with tide.heldCycles := s.tide.heldCycles + 1 }
  else
    let cores := (s.groups.map (·.2.core) ++ s.engines.map (·.1) ++ s.crun.map (·.1) ++ s.coal.map (·.1)).eraseDups
    let parked := fun (core : Nat) =>
      ((coreWarps s core).map fun e => (e.2.th.toList.filter Thread.isParked).length).foldl (· + ·) 0
    let busyM := fun (core : Nat) => match (engineOf s core).queue with | x :: _ => x.started && !x.stopped | [] => false
    let busyC := fun (core : Nat) => (copyHead s core).isSome
    let add := fun (t : Tab Counts) (core : Nat) =>
      let c := t.getD core {}
      t.put core { c with parked := c.parked + parked core, matrix := c.matrix + flag (busyM core), copy := c.copy + flag (busyC core) }
    { s with tide.counts := cores.foldl add s.tide.counts }

end Sys2Proof.Machine
end

