-- ==== Sys2Proof/Machine/Gates.lean ====
section
/-! DEFINITION. Stamping gates and their logs (14_determinism_and_debug.md R273 to R276), replay (R277 to R279), slack-water stops, images
and restores (R280 to R282, 22_programs_calls_and_replay.md R413). -/
namespace Sys2Proof.Machine

/-! ### Crossing and logging -/

/-- A gate of this package replays (R277). -/
def replays (s : State) (n : Nat) : Bool := s.replay.getLsbD n
/-- The entries of a gate's ring (R275). -/
def Gate.ring (g : Gate) : Nat := 2 ^ (g.size + 2)
/-- The entries an arrival takes (R274). -/
def entriesOf (g : Gate) (a : Arrival) : Nat := if g.payload then max 1 ((a.data.length + 63) / 64) else 1

/-- Entry `seg` of an arrival (Table 14.1). -/
def entryBytes (n : Nat) (g : Gate) (x ac : Nat) (a : Arrival) (seg : Nat) (gap : Bool) : List Byte :=
  let part := if g.payload then (a.data.drop (64 * seg)).take 64 else []
  let req := if a.kind = 1 ∨ a.kind = 2 ∨ a.kind = 3 then a.reqlen else 0
  toBytes 8 x ++ toBytes 8 ac ++ toBytes 1 n ++ toBytes 1 a.kind ++ toBytes 1 (part.length + 128 * flag g.payload) ++ toBytes 1 (flag gap) ++
  toBytes 1 seg ++ toBytes 1 (entriesOf g a) ++ toBytes 2 req ++ toBytes 8 a.addr.toNat ++ (part ++ List.replicate (64 - part.length) 0) ++
  List.replicate 32 0

/-- The die whose log path a gate's entries take (R276): that of the port; D0 for the host link and the management port. -/
def gateDie (n : Nat) : Nat := if n = 0 ∨ n = 33 then 0 else (n - 1) / 4

/-- An arrival is logged when all its entries fit the ring and the buffer of the log path, else dropped from the log (R274 to R276). -/
def logArrival (s : State) (n x ac : Nat) (a : Arrival) : State :=
  let g := s.gates.getD n {}
  let k := entriesOf g a
  if !g.en || replays s n then s
  else if g.ring < (g.tail - g.head).toNat + k || !logRoom s (gateDie n) k then
    let s := updGate s n fun g => { g with ovf := true, gap := true, drops := if g.drops.toNat = 2 ^ 32 - 1 then g.drops else g.drops + 1 }
    markNoReplay s x
  else
    let s := (List.range k).foldl (fun s i =>
      devWrite s (g.base.toNat + 128 * ((g.tail.toNat + i) % g.ring)) (entryBytes n g x ac a i (g.gap && i == 0))) s
    updGate (logTake s (gateDie n) k) n fun g => { g with tail := g.tail + w32 k, gap := false }

/-- GATE_CROSSING (R273): one arrival of the gate crosses; in a refresh tick it is applied one cycle later. -/
def execGateCrossing (gate : Nat) (s : State) : Host.Outcome State Fault Refusal :=
  match (s.gates.getD gate {}).queue with
  | [] => done s
  | a :: rest =>
    let ac := if refreshAt s.cycle then (s.cycle + 1) % 2 ^ 64 else s.cycle
    let s := logArrival s gate s.cycle ac a
    done (updGate s gate fun g => { g with queue := rest, crossed := g.crossed ++ [(s.cycle, ac, a)] })

/-! ### What a message does (log 40: the spec gives the messages, not the places of their parts) -/

namespace Arrival
/-- n bytes of the payload, as a number. -/
def num (a : Arrival) (at_ n : Nat) : Nat := ofBytes ((a.data.drop at_).take n)

/-- A configuration request of KIND 03h: the register's offset, the function and the requester tag; a write carries its value. -/
def config (a : Arrival) : Instr :=
  .hostConfigRequest (!a.data.isEmpty) ⟨bits a.addr 31 16, bits a.addr 11 2⟩ (w32 (a.num 0 4)) (bits a.addr 47 32)

/-- A snoop of KIND 05h: the line and the kind of snoop; any other request of CXL.cache is one that the device does not take. -/
def snoop (a : Arrival) : Instr :=
  let line := a.addr.toNat / 64
  match a.addr.toNat % 64 with
  | 0 => .hostSnoop .inv line
  | 1 => .hostSnoop .data line
  | 2 => .hostSnoop .cur line
  | _ => .cxlUnsupportedRequest a.addr.toNat

/-- A message of KIND 10h at a port: a collective chunk (10_halyard_collectives.md R205, R208, R211), or an acknowledgement. -/
def collective (a : Arrival) (port : Nat) : Instr :=
  if a.addr.toNat % 16 = 0 then
    .collectiveChunkArrival
      { port := port, dst := a.num 0 2, collid := a.num 2 4, ordinal := a.num 6 8, kind := a.num 14 1, count := a.num 15 4, fmt := a.num 19 1 % 16
        carry := natBit (a.num 19 1) 4, seq := a.num 20 4, phase := a.num 24 1, seg := a.num 25 2, index := a.num 27 4, data := a.data.drop 31 }
  else .collectiveChunkAck port (a.num 0 4) (a.num 4 8) (a.num 12 4)

/-- A pennant message of KIND 11h (12_pennants.md R243 to R246): a send, or the status that answers one. -/
def pennant (a : Arrival) (port : Nat) : Instr :=
  .pennantFabricMessage port
    { reply := if a.addr.toNat % 16 = 0 then none else some (a.num 0 1), pkg := a.num 1 2, srcPkg := a.num 3 2, srcDie := a.num 5 1, seq := a.num 6 4
      ctx := a.num 10 2, lti := a.num 12 2, grp := a.num 14 5 % 2 ^ 36, num := a.num 19 1, wake := natBit (a.num 20 1) 0, payload := w64 (a.num 21 8) }

/-- A message of KIND 12h (10_halyard_collectives.md R214). -/
def timing (a : Arrival) (port : Nat) : Instr :=
  if a.addr.toNat % 16 = 0 then .timeAlignRequest port (w64 (a.num 0 8)) else .timeAlignReply (w64 (a.num 0 8)) (w64 (a.num 8 8)) (w64 (a.num 16 8))

/-- A message of KIND 13h (R203, R204). -/
def link (a : Arrival) (port : Nat) : Instr :=
  match a.addr.toNat % 16 with
  | 0 => .linkUp port (a.num 0 2) (a.num 2 1)
  | 1 => .linkDown port
  | _ => .flitRetry ⟨port, natBit (a.num 0 1) 0⟩

/-- The step that a message other than a request or a response of the host makes at gate n. -/
def msg (a : Arrival) (n : Nat) : Option Instr :=
  match a.kind with
  | 3 => some a.config
  | 5 => some a.snoop
  | 0x10 => some (a.collective (n - 1))
  | 0x11 => some (a.pennant (n - 1))
  | 0x12 => some (a.timing (n - 1))
  | 0x13 => some (a.link (n - 1))
  | 0x20 => some .packageReset
  | 0x21 => some (.thermalTrip (a.addr.toNat % 8))
  | _ => none

/-- A step of the pins and of the package's surroundings. -/
def pin (a : Arrival) : Option Instr :=
  match a.addr.toNat with
  | 0 => some .powerLoss
  | 1 => some .powerOn
  | 2 => some .packageReset
  | 3 => some .resetRelease
  | 4 => some (.hostLinkTraining (a.num 0 1) ⟨a.num 1 1, a.num 2 1⟩)
  | 5 => some (.softErrorScrub (a.num 0 8))
  | _ => none
end Arrival

/-- A response of KIND 06h answers a request of its line: with data a read, without data a write (R257). -/
def Arrival.answers (a : Arrival) (q : HostReq) : Bool := q.addr == a.addr.toNat && q.kind.reads == !a.data.isEmpty

/-- A kind that a gate carries (R273, Table 14.1). -/
def kindFits (n kind : Nat) : Bool :=
  if n = 0 then 1 ≤ kind && kind ≤ 6 else if n = 33 then kind == 0x20 || kind == 0x21 else 0x10 ≤ kind && kind ≤ 0x13

/-- What an arrival at gate n does when it is applied: a host write or read of BAR0, the response to a request to the host, or its step. -/
def applyArrival (s : State) (n : Nat) (a : Arrival) : State :=
  let off := a.addr.toNat % 2 ^ 24
  if !kindFits n a.kind then s
  else match a.kind with
  | 1 =>
    if barAccess off a.reqlen then due s (.registerWrite off (a.reqlen == 8) (w64 (ofBytes a.data))) else due s (.bar0BadAccess off a.reqlen a.addr.toNat)
  | 2 => if barAccess off a.reqlen then reply s (.read off (w64 (readBar s off a.reqlen))) else due s (.bar0BadAccess off a.reqlen a.addr.toNat)
  | 6 =>
    match s.hostReqs.find? a.answers with
    | some q => { s with hostReqs := s.hostReqs.erase q }
    | none => s
  | _ =>
    match a.msg n with
    | some i => due s i
    | none => s

/-- ARRIVAL_APPLY (R273): package logic sees the gate's oldest arrival whose applied cycle has come. -/
def execArrivalApply (gate : Nat) (s : State) : Host.Outcome State Fault Refusal :=
  match (s.gates.getD gate {}).crossed with
  | (_, ac, a) :: rest =>
    if ac ≤ s.cycle then done (applyArrival (updGate s gate fun g => { g with crossed := rest }) gate a) else done s
  | [] => done s

/-! ### Replay (R277, R278) -/

/-- Fields of a log entry (Table 14.1). -/
abbrev LogEnt := BitVec 1024
/-- ACYC. -/
def LogEnt.acyc (e : LogEnt) : Nat := bits e 127 64
/-- KIND. -/
def LogEnt.kind (e : LogEnt) : Nat := bits e 143 136
/-- LEN. -/
def LogEnt.len (e : LogEnt) : Nat := min 64 (bits e 150 144)
/-- PL. -/
def LogEnt.pl (e : LogEnt) : Bool := e.getLsbD 151
/-- NSEG. -/
def LogEnt.nseg (e : LogEnt) : Nat := bits e 175 168
/-- GATE, KIND, SEG and NSEG fit the gate and the entries around it (R276). -/
def entryFits (n : Nat) (first e : LogEnt) (seg : Nat) : Bool :=
  bits e 133 128 == n && kindFits n e.kind && e.kind == first.kind && bits e 167 160 == seg && e.nseg == first.nseg && seg < e.nseg

/-- The length of a fabric message, which its header word gives (log 40). -/
def LogEnt.length (e : LogEnt) : Nat := bits e 255 240

/-- The arrival whose first entry is entry j of a replaying gate, and how many entries it takes; none when it does not fit. The `k`-th live
arrival held stands for an entry without payload, when its kind and its length match. -/
def rebuild (s : State) (n j k : Nat) : Option (Arrival × Nat) :=
  let e : LogEnt := logEntry s n j
  let es := (List.range e.nseg).map fun i => (logEntry s n (j + i) : LogEnt)
  let g := s.gates.getD n {}
  if e.nseg = 0 ∨ (g.tail.toNat + 2 ^ 32 - j % 2 ^ 32) % 2 ^ 32 < e.nseg ∨ !((List.range es.length).all fun i => entryFits n e (es.getD i 0) i) then none
  else if e.getLsbD 152 then none
  else if !e.pl then
    if n = 0 ∨ n = 33 then none
    else (g.held[k]?).bind fun a => if a.kind == e.kind && a.data.length == e.length then some (a, 1) else none
  else
    let data := es.flatMap fun x => (toBytes 64 (bits x 767 256)).take (LogEnt.len x)
    some ({ kind := e.kind, addr := w64 (bits e 255 192), reqlen := bits e 191 176, data := data }, e.nseg)

/-- Entries remain to be injected from entry j on. -/
def remains (s : State) (n j : Nat) : Bool := (s.gates.getD n {}).tail.toNat != j % 2 ^ 32

/-- The check that a gate makes before cycle c (R278): every arrival of that cycle fits, and answers an outstanding request when it is a
response. At most two arrivals of one gate share an applied cycle. -/
def injects (s : State) (n c : Nat) : Nat → Nat → Nat → Bool
  | 0, _, _ => true
  | m + 1, j, k =>
    if !remains s n j || LogEnt.acyc (logEntry s n j) != c then true
    else
      match rebuild s n j k with
      | none => false
      | some (a, len) =>
        (a.kind != 4 && (a.kind != 6 || s.hostReqs.any a.answers)) && injects s n c m (j + len) (k + 1)

/-- A gate has an arrival to inject in this cycle. -/
def injectDue (s : State) (n : Nat) : Bool :=
  let j := (s.gates.getD n {}).head.toNat
  replays s n && remains s n j && LogEnt.acyc (logEntry s n j) == s.cycle

/-- The replay diverges before cycle c (R276, R278). -/
def diverges (s : State) (c : Nat) : Bool :=
  (List.range 34).any fun n => replays s n && !injects s n c 2 (s.gates.getD n {}).head.toNat 0

/-- REPLAY_INJECT (R277): the gate's next arrival is applied, and HEAD passes it. The reads of its entries take the places on the log path that
the entries took when they were written (R276). -/
def execReplayInject (gate : Nat) (s : State) : Host.Outcome State Fault Refusal :=
  if !injectDue s gate then done s
  else
    let j := (s.gates.getD gate {}).head.toNat
    match rebuild s gate j 0 with
    | none => done s
    | some (a, len) =>
      let live := !LogEnt.pl (logEntry s gate j)
      done (applyArrival (updGate (logTake s (gateDie gate) len) gate fun g => { g with head := g.head + w32 len, held := if live then g.held.drop 1 else g.held }) gate a)

/-- REPLAY_END (R279): every replaying gate turns live and logs at its TAIL. -/
def execReplayEnd (s : State) : Host.Outcome State Fault Refusal :=
  if s.replay = 0 ∨ s.replayEnd.toNat ≠ s.cycle ∨ s.replayEnd = 0 then done s
  else
    let turn := fun (s : State) (n : Nat) =>
      if replays s n then updGate s n fun g => { g with en := true, queue := g.held ++ g.queue, held := [] } else s
    let s := (List.range 34).foldl turn s
    done { s with replay := 0, hostLog := if replays s 0 then [] else s.hostLog, replayCtl := s.replayCtl &&& ~~~1#64 }

/-! ### Stops, images and restores -/

/-- IMGLEN in 64 KiB units (Table 14.3). -/
def imgLen : Nat := 0x1C740

/-- The bytes at a key are those of an array on the dies, which an image holds: a vault's, or a line of the L2 (R281). -/
def onDie (p : Package) (k : Nat) : Bool := isVault k || (!isHost k && (p.ms.l2.get? (k / 128)).isSome)

/-- The image of a package at a stop (R281). -/
def imageOf (s : State) : Image := { pkg := { s.toPackage with agenda := [] }, data := s.mem.filter fun c => onDie s.toPackage c.1 }

/-- The package freezes (R278, R280): the image is written unless the region is too small. -/
def execSlackWaterStop (s : State) : Host.Outcome State Fault Refusal :=
  if frozen s then done s
  else if s.imgSize.toNat < imgLen then done { s with swState := 1, swErr := 1 }
  else
    done { s with swState := 1, images := imageOf s :: s.images }

/-- The sections of an image (Table 14.9): classes 0 to 8 of each die, and class 9 for the package (log 8). -/
def sections : List (Nat × Nat) := ((List.range 8).flatMap fun d => (List.range 9).map fun c => (d, c)) ++ [(255, 9)]

/-- Where section i lies, in 64 KiB units from the base, and its length in bytes: after the header and the table, each after the one before it,
and within IMGLEN (Table 14.9; log 8). DESIGN CHOICE: the spec gives no offsets. -/
def sectionPlace : Nat → Nat × Nat
  | 0 => (1, min (Config.sectionLen 0) (65536 * (imgLen - 1)))
  | i + 1 =>
    let p := sectionPlace i
    let at_ := p.1 + (p.2 + 65535) / 65536
    (at_, min (Config.sectionLen (i + 1)) (65536 * (imgLen - at_)))

/-- Some entries of a vector, the others as they are after reset. -/
def onlyAt (v : Vector α n) (x : α) (keep : Nat → Bool) : Vector α n := Vector.ofFn fun i => if keep i.val then v[i] else x

/-- What a group holds of unit class 3 (Table 14.9): its scratch and its channels. -/
def Group.slots3 (g : Group) : Group :=
  { core := g.core, scratch := g.scratch, scrWas := g.scrWas, scrAt := g.scrAt, scrTags := g.scrTags, chans := g.chans }
/-- What a group holds of unit class 0. -/
def Group.slots0 (g : Group) : Group := { g with scratch := [], scrWas := [], scrAt := 0, scrTags := [], chans := [] }

/-- The sampling counters of a unit stand with it (R285). -/
def Tide.part (t : Tide) (keep : Nat → Bool) : Tide := { counts := t.counts.filter fun e => keep e.1 }

/-- The die of the damaged place, and the unit class that the place belongs to (11_traps_and_preemption.md R218). -/
def Damage.unit (p : Package) : Damage → Nat × Nat
  | .reg w _ _ => (dieOf w.core, 0)
  | .l1 c _ _ | .icache c _ => (dieOf c, 1)
  | .scratch g _ _ => (dieOf ((p.groups.getD g {}).core), 3)
  | .l2 ln _ => (l2Die ln, 2)
  | .vault ln _ => (homeDie (ln * 128), 4)
  | .scarp ln _ => (homeDie (ln * 128), 9)
  | .acc c _ => (dieOf c, 7)
  | .tlb _ _ => (0, 9)

/-- The memory system's state in unit class `cls` of die d (Table 14.9): the L1 caches; the L2 slices with what the home keeps of its lines; the
vaults' counters; and the loops with what is on them. -/
def MemSys.part (m : MemSys) (p : Package) (d cls : Nat) : MemSys :=
  let core := fun (c : Nat) => dieOf c == d
  let home := fun (k : Nat) => homeDie k == d
  let bad := m.damage.filter fun x => x.unit p == (d, cls)
  match cls with
  | 0 => { ackTag := m.ackTag.filter fun e => core (e.1 / 1024), vc := Vector.replicate 8 [], damage := bad }
  | 1 =>
    { l1 := m.l1.filter fun e => core e.1, icache := m.icache.filter fun e => core e.1, ifetch := m.ifetch.filter fun e => core e.1
      tlb := m.tlb.filter fun e => core e.1, l1Kept := m.l1Kept.filter fun e => core e.1, vc := Vector.replicate 8 [], damage := bad }
  | 2 =>
    { l2 := m.l2.filter fun e => l2Die e.1 == d, hostLines := if d == 0 then m.hostLines else [], tags := m.tags.filter fun e => home (e.1 * 128)
      lineVc := m.lineVc.filter fun e => home (e.1 * 128), releases := m.releases.filter fun r => home (r.line * 128)
      owners := m.owners.filter fun e => home e.1, ownWait := m.ownWait.filter fun q => home q.2.1, copies := m.copies.filter fun e => e.1 == d
      vc := onlyAt m.vc [] (· == d), tcache := onlyAt m.tcache [] (· == d), walks := onlyAt m.walks [] (· == d)
      sliceN := m.sliceN.filter fun e => e.1 / 64 == d, found := m.found.filter fun e => e.2.1 == d, damage := bad }
  | 4 => { vaultN := m.vaultN.filter fun e => e.1 / 16 == d, vc := Vector.replicate 8 [], damage := bad }
  | 5 =>
    { forwards := onlyAt m.forwards [] (· == d), posted := m.posted.filter fun q => core q.w.core, drainReq := m.drainReq.filter fun q => core q.1
      drainAck := m.drainAck.filter fun q => core q.1, vc := Vector.replicate 8 [] }
  | 9 => { syncVc := m.syncVc, vc := Vector.replicate 8 [], damage := m.damage.filter fun x => (x.unit p).2 == 9 }
  | _ => { vc := Vector.replicate 8 [], damage := bad }

/-- The state of unit class `cls` of die d (Table 14.9), the rest as after reset: cores and register files; L1 caches; L2 slices and tenure
directories; scratch and channel slots; vaults; the loops; scheduler, queues and launch tables; the engines; the link layers and gates. -/
def Package.part (p : Package) (d cls : Nat) : Package :=
  let core := fun (c : Nat) => dieOf c == d
  let z : Package := { ms := p.ms.part p d cls }
  match cls with
  | 0 =>
    { z with
      warps := p.warps.filter fun e => core (e.1 / 32), groups := (p.groups.filter fun e => core e.2.core).map fun e => (e.1, e.2.slots0)
      lastSlot := p.lastSlot.filter fun e => core (e.1 / 4), issue := p.issue.filter fun i => core i.w.core, grow := p.grow.filter fun e => core e.1
      cur := p.cur.filter fun c => core c.w.core, tide := p.tide.part core }
  | 2 => { z with ten := p.ten.filter fun e => e.2.die == d, spillFull := onlyAt p.spillFull false (· == d) }
  | 3 => { z with groups := (p.groups.filter fun e => core e.2.core).map fun e => (e.1, e.2.slots3) }
  | 6 =>
    { z with
      sched := onlyAt p.sched {} (· == d), fq := onlyAt p.fq {} (· == d), saved := p.saved.filter fun v => core v.group.core
      hq := onlyAt p.hq {} fun _ => d == 0 }
  | 7 =>
    { z with
      engines := p.engines.filter fun e => core e.1, tasks := onlyAt p.tasks [] (· == d), taskFails := p.taskFails.filter fun f => f.die == d
      coal := p.coal.filter fun e => core e.1, ctab := onlyAt p.ctab [] (· == d), crun := p.crun.filter fun e => core e.1
      coll := onlyAt p.coll [] (· == d), collOrd := p.collOrd.filter fun e => e.1 / 256 == d, collStat := p.collStat.filter fun e => e.die == d }
  | 8 =>
    { z with
      ports := onlyAt p.ports {} fun i => i / 4 == d, collHeld := p.collHeld.filter fun m => m.port / 4 == d, sends := p.sends.filter fun e => e.die == d
      pnSeq := onlyAt p.pnSeq 0 (· == d), gates := onlyAt p.gates {} fun i => gateDie i == d, hostReqs := if d == 0 then p.hostReqs else []
      hostLog := if d == 0 then p.hostLog else [] }
  | _ => z

/-- The registers and the remaining package state, unit class 9 (Table 14.9): what is in no unit of a die. -/
def Package.rest (p : Package) : Package :=
  { p with
    ms := p.ms.part p 0 9, warps := [], groups := [], lastSlot := [], issue := [], grow := [], cur := none, ten := []
    tide := { p.tide with counts := [] }, spillFull := Vector.replicate 8 false, sched := Vector.replicate 8 {}, fq := Vector.replicate 8 {}
    saved := [], hq := Vector.replicate 16 {}, engines := [], tasks := Vector.replicate 8 [], taskFails := [], coal := [], ctab := Vector.replicate 8 []
    crun := [], coll := Vector.replicate 8 [], collOrd := [], collStat := [], ports := Vector.replicate 32 {}, collHeld := [], sends := []
    pnSeq := Vector.replicate 8 0, gates := Vector.replicate 34 {}, hostReqs := [], hostLog := [] }

/-- What the section of a die and a unit class holds (R281, Table 14.9): the arrays' bytes stand with the L2 slices and the vaults. -/
def Image.part (img : Image) (d cls : Nat) : Image :=
  let data := img.data.filter fun c => if cls == 4 then isVault c.1 && homeDie c.1 == d else cls == 2 && !isVault c.1 && homeDie c.1 == d
  { pkg := if d < 8 then img.pkg.part d cls else img.pkg.rest, data := data }

/-- The bytes of section i of an image: device-private, and the same where what its unit holds is (R281, log 8), so that sections differ only where
the runs parted in their unit. -/
def sectionBytes (img : Image) (i : Nat) : List Byte :=
  let e := sections.getD i (0, 0)
  (List.range (sectionPlace i).2).map (Config.sectionByte (img.part e.1 e.2) i)

/-- The section table (Table 14.9). -/
def sectionTable (img : Image) : List Byte :=
  (List.range sections.length).flatMap fun i =>
    let e := sections.getD i (0, 0)
    toBytes 1 e.1 ++ toBytes 1 e.2 ++ toBytes 2 0 ++ toBytes 4 (crc32 (sectionBytes img i)) ++ toBytes 8 (65536 * (sectionPlace i).1) ++
    toBytes 8 (sectionPlace i).2 ++ toBytes 8 0

/-- The header with a value for its CRC (Table 14.8). -/
def imageHeader (img : Image) (crc : Nat) : List Byte :=
  [0x53, 0x4C, 0x47, 0x49] ++ toBytes 2 1 ++ toBytes 2 sections.length ++ toBytes 8 img.pkg.cycle ++ toBytes 2 img.pkg.hlpkgid.toNat ++ toBytes 6 0 ++
  toBytes 4 imgLen ++ toBytes 4 crc ++ ((List.range 64).map fun i => Config.digestByte (65536 + i)) ++
  (img.pkg.refreshes.toList.flatMap (toBytes 8)) ++ List.replicate 32 0

/-- The bytes that an image lays in memory, from its base. -/
def imageCells (img : Image) (base : Nat) : List Host.Cell :=
  let tab := sectionTable img
  let crc := crc32 (imageHeader img 0 ++ tab)
  Memory.cells base (imageHeader img crc ++ tab) ++
  (List.range sections.length).flatMap fun i => Memory.cells (base + 65536 * (sectionPlace i).1) (sectionBytes img i)

/-- IMAGE_WRITE_COMPLETE (R280): the scan engine has written the image and counted the refreshes made meanwhile, a free number (log 4); the
package stays frozen. -/
def execImageWriteComplete (s : State) : Host.Outcome State Fault Refusal :=
  if s.swState ≠ 1 then done s
  else
    let f := free s
    let s := { f.2 with swState := 2, refreshes := s.refreshes.map (· + f.1) }
    match s.images with
    | img :: _ =>
      if s.imgSize.toNat < imgLen ∨ img.pkg.cycle ≠ s.cycle then done s
      else
        let s := devCheck s s.imgBase.toNat (65536 * imgLen)
        done { s with mem := s.mem.putAll (imageCells img s.imgBase.toNat) }
    | [] => done s

/-- Every CRC of what the region at IMGBASE holds is right (R282, Tables 14.8 and 14.9). -/
def crcsHold (s : State) : Bool :=
  let base := s.imgBase.toNat
  let head := s.mem.read base 256
  let tab := s.mem.read (base + 256) (32 * ofBytes ((head.drop 6).take 2))
  crc32 (head.take 28 ++ toBytes 4 0 ++ head.drop 32 ++ tab) == ofBytes ((head.drop 28).take 4) &&
    (List.range (ofBytes ((head.drop 6).take 2))).all fun i =>
      let e := tab.drop (32 * i)
      crc32 (s.mem.read (base + ofBytes ((e.drop 8).take 8)) (ofBytes ((e.drop 16).take 8))) == ofBytes ((e.drop 4).take 4)

/-- The image that a restore loads (R280, R282): the one whose bytes the region at IMGBASE holds whole; of other bytes with right CRCs, a free
image, since the contents of the sections are device-private (log 45). -/
def imageAt (s : State) : Option Image :=
  match s.images.find? fun img => (imageCells img s.imgBase.toNat).all fun c => s.mem.get c.1 == c.2 with
  | some img => some img
  | none => if crcsHold s then some (Config.otherImage (s.mem.filter fun c => s.imgBase.toNat ≤ c.1 && c.1 < s.imgBase.toNat + 65536 * imgLen)) else none

/-- SWCTL_RESTORE (R282): acts while STATE is 2, or in reset after a verified boot; VERSION is checked, then every CRC. HEAD and TAIL of the gates
stand as they are now (22_programs_calls_and_replay.md R413). -/
def execSwctlRestore (s : State) : Host.Outcome State Fault Refusal :=
  if !(s.swState == 2 || (s.inReset && verifiedBoot s && s.swState == 0)) then done s
  else if ofBytes (s.mem.read (s.imgBase.toNat + 4) 2) ≠ 1 then done { s with swErr := 2 }
  else
    match imageAt s with
    | none => done { s with swErr := 3 }
    | some _ => done { s with swState := 3, restoreGates := s.gates.toList.map fun g => (g.head, g.tail) }

/-- The package of an image as a restore loads it (R282, R413): a replaying gate has the HEAD and TAIL that it had when RESTORE was
written, and what waited to cross it comes from its log. -/
def loadPackage (s : State) (img : Image) : Package :=
  let mask := if replayMode s then w64 (bits s.replayCtl 35 2) else 0
  let gate := fun (n : Nat) =>
    let g := img.pkg.gates.getD n {}
    let old := s.restoreGates.getD n (0, 0)
    if mask.getLsbD n then { g with head := old.1, tail := old.2, queue := [], held := [] } else g
  { img.pkg with gates := Vector.ofFn fun i : Fin 34 => gate i.val, replay := mask }

/-- Memory as a restore finds it (R282): Scarp memory as it stands, and the arrays on the dies from the image. -/
def restoredMem (s : State) (img : Image) : Memory := Memory.putAll (s.mem.filter fun c => !onDie img.pkg c.1) (img.data.filter fun c => onDie img.pkg c.1)

end Sys2Proof.Machine
end

