-- ==== Sys2Proof/Machine/Events.lean ====
section
/-! DEFINITION. Events of the memory system that come with time (05_consistency.md R111, R117 to R122, 04_memory_hierarchy.md R93), and the
wake of a thread in a stall (02_execution_model.md R39). -/
namespace Sys2Proof.Machine

/-! ### L1 (R117, R119) -/

/-- A core holds bytes that have been dirty for 8,192 cycles, and that no retained line keeps (11_traps_and_preemption.md R229). -/
def drainAged (s : State) (core : Nat) : Bool :=
  (l1Of s core).any fun t => t.2.dirty.any fun d =>
    boundOver s d.2.at_ 8192 && !(s.ms.l1Kept.contains (core, (t.1 * 512 + d.1) / 128) && l1Bad s core (t.1 * 512 + d.1))
/-- L1_DRAIN_TIMEOUT (R117). -/
def execL1DrainTimeout (core : Nat) (s : State) : Host.Outcome State Fault Refusal :=
  done (drainCore s core fun _ d => boundOver s d.at_ 8192)

/-- A sector's lease has ended. -/
def Sector.stale (c : Sector) (now : Nat) : Bool := c.fill + 4096 ≤ now
/-- A core holds a clean sector whose lease has ended. -/
def leaseOver (s : State) (core : Nat) : Bool := (l1Of s core).any fun t => t.2.clean.any fun c => c.2.stale s.cycle
/-- LEASE_EXPIRY (R119): the sectors are invalidated, which a watch of the block sees (02_execution_model.md R55). -/
def execLeaseExpiry (core : Nat) (s : State) : Host.Outcome State Fault Refusal :=
  let gone := (l1Of s core).flatMap fun t => (t.2.clean.filter fun c => c.2.stale s.cycle).map fun c => t.1 * 512 + c.1 * 32
  let s := setL1 s core ((l1Of s core).map fun t => (t.1, { t.2 with clean := t.2.clean.filter fun c => !c.2.stale s.cycle }))
  done (watchHit s core fun w => gone.any fun k => k < w.block + w.len && w.block < k + 32)

/-! ### Drains for acquires (R118) -/

/-- DRAIN_REQUEST (R118): the core drains what was dirty at the releases asked for. -/
def execDrainRequest (core : Nat) (s : State) : Host.Outcome State Fault Refusal :=
  let mine := s.ms.drainReq.filter (·.1 == core)
  let s := mine.foldl (fun s q => drainUpTo s core q.2) s
  done { s with ms.drainReq := s.ms.drainReq.filter (·.1 != core), ms.drainAck := s.ms.drainAck ++ mine }

/-- DRAIN_ACK (R118): the home has acknowledged what a core drained. -/
def execDrainAck (core : Nat) (s : State) : Host.Outcome State Fault Refusal :=
  done { s with ms.drainAck := s.ms.drainAck.filter (·.1 != core) }

/-! ### Posted stores and forwarded writes (R111, R121, R122) -/

/-- The order in which stores reach their vaults in one cycle (04_memory_hierarchy.md R101): those of local cores, which stand applied, then
lateral arrivals by the stop they come from, then by core (06_tile_tenure.md R130, log 52). Lateral loads, atomics and writes of copies are
performed as they issue, before what arrives in that cycle (log 80). -/
def Posted.rank (p : Posted) : Nat :=
  if !p.wait then 0 else 1 + sourceStop (homeDie (p.bytes.headD (0, 0)).1) p.w.core * 512 + p.w.core

/-- The next posted store, of those that have arrived. -/
def nextPosted (s : State) : Option Posted :=
  (s.ms.posted.filter fun p => p.due ≤ s.cycle).foldl (fun b p =>
    match b with
    | none => some p
    | some q => if p.rank < q.rank then some p else some q) none

/-- STORE_ACK (R111, 04_memory_hierarchy.md R101, R102): a posted store arrives, is applied and acknowledged with its tag. -/
def execStoreAck (s : State) : Host.Outcome State Fault Refusal :=
  match nextPosted s with
  | none => done s
  | some p =>
    let s := ackPosted s (· == p)
    done (match p.sset with | some n => superstepCheck s n | none => s)

/-- The forwarded write that a die may apply first. -/
def forwardNext (s : State) (die : Nat) : Option Nat :=
  let fs := s.ms.forwards.getD die []
  (List.range fs.length).find? (forwardReady fs)

/-- How many forwarded writes of a die are applied in a cycle for the bound of R120: all, once one was written 8,704 cycles ago, so that it is
applied with what stands before it. -/
def forwardsOver (s : State) (die : Nat) : Nat :=
  let fs := s.ms.forwards.getD die []
  if fs.any fun f => boundOver s f.at_ 8704 then fs.length else 0

/-- FORWARDED_WRITE_APPLY (R122): the first that may be applied; where each waits for another and the bound of R120 is reached, the oldest. -/
def execForwardedWriteApply (die : Nat) (s : State) : Host.Outcome State Fault Refusal :=
  match forwardNext s die with
  | some i => done (applyForward s die i)
  | none => done (if forwardsOver s die = 0 then s else applyForward s die 0)

/-- A die waits for predecessors that it will not have. -/
def forwardStuck (s : State) (die : Nat) : Bool := !(s.ms.forwards.getD die []).isEmpty && (forwardNext s die).isNone

/-- EPOCH_MARKER (R122): the die no longer waits for the predecessors of its oldest write of that home. -/
def execEpochMarker (die home : Nat) (s : State) : Host.Outcome State Fault Refusal :=
  if !forwardStuck s die then done s
  else
    let fs := s.ms.forwards.getD die []
    match (List.range fs.length).find? fun i => homeDie ((fs.getD i default).line * 128) == home with
    | some i => done (applyForward s die i)
    | none => done s

/-! ### Page walks (04_memory_hierarchy.md R93) -/

/-- A walk of a die, among the 32 that its walkers run, is due. -/
def walkDue (s : State) (die : Nat) : Option Walk := ((s.ms.walks.getD die []).take 32).find? fun q => q.due ≤ s.cycle

/-- PAGE_WALK_COMPLETE (R93, 18_reference_m_s.md R368): the translation is cached, and the prefetch that asked for it is made; requests of the
same page join it. A walk on demand has given its page to its access already. -/
def execPageWalkComplete (die : Nat) (s : State) : Host.Outcome State Fault Refusal :=
  match walkDue s die with
  | none => done s
  | some q =>
    let size := match (walk s q.ctx q.va).2 with | .ok p => p.size | .error _ => 65536
    let join := fun (r : Walk) => r.ctx == q.ctx && r.va / size == q.va / size
    let all := (s.ms.walks.getD die []).filter join
    let s := { s with ms.walks := s.ms.walks.setIfInBounds die ((s.ms.walks.getD die []).filter fun r => !join r) }
    done (all.foldl (fun s r =>
      match translate s (some r.core) die r.ctx r.va, r.pref with
      | (s, .ok p), some (u, hint, l2) => prefPage s r.core r.gid r.va p hint l2 (u == 1)
      | (s, .ok _), none => s
      | (_, .error _), _ => s) s)

/-! ### STALL_WAKE (R39) -/

/-- A path that waits at its instruction may issue it again. -/
def mayReissue (s : State) (w : WKey) : Why → Bool
  | .held l => !accessOpen s w l
  | .reply l => !hostOpen s w l true
  | .drain ds => ds.all fun q => !behind s q.1 q.2 && !heldBehind s (some (gidOf s w)) q.1 q.2 && !s.ms.drainReq.contains q && !s.ms.drainAck.contains q
  | .owner k => !s.ms.ownWait.any fun q => q.1 == w.core && q.2.1 == k
  | .tenure k => (heldUnder s (gidOf s w) none k).isNone
  | .scratch u => u ≤ s.cycle
  | .order => !orderOpen s w.core
  | .fetch ln => !(s.hostReqs.any fun q => q.kind.reads && (hostHalves ln).contains q.addr)
  | .host a => !(s.hostReqs.any fun q => q.kind.reads && q.addr == a)
  | .room 0 => (engineOf s w.core).queue.length ≤ 8
  | .room 1 => (taskTab s (dieOf w.core)).length < 2048
  | .room 2 => (coalOf s w.core).length < 16
  | .room _ => (ctabOf s (dieOf w.core)).length < 4096

/-- Some of a group's engine commands remain. -/
def engineOpen (s : State) (core : Nat) (ids : List Nat) : Bool := (engineOf s core).queue.any fun x => ids.contains x.id

/-- A thread's D receives a value by which it observes what it waited for (R126), and it goes on. -/
def wakeWith (s : State) (w : WKey) (l : Nat) (d : Opd) (v : Nat) : State :=
  resumeLane (observe (wakeDst s w l d (w32 v)) w l) w l false

/-- What a stall's end does; none while its condition does not hold, or where an event of its own ends it. -/
def stallEnd (s : State) (w : WKey) (l : Nat) : Stall → Option State
  | .reissue y => if mayReissue s w y then some (updThr s w l fun t => { t with st := .running }) else none
  | .engine d ids free =>
    let mine := (engineOf s w.core).owner == some (gidOf s w)
    if engineOpen s w.core ids || (free && mine && !(engineOf s w.core).queue.isEmpty) then none
    else if free then some (resumeLane (if mine then freeEngine s w.core else s) w l true) else some (wakeWith s w l d 0)
  | .tasks d tag seq =>
    let die := dieOf w.core
    let ctx := (grp s w).ctx
    if openTasks s die ctx tag seq then none else some (wakeWith s w l d (taskStatus s die ctx tag seq))
  | .cmwait d h x m =>
    let gid := gidOf s w
    if bitsSet s gid x m || scrWord s gid (h + 4) ≠ 0 then some (wakeWith s w l d (scrWord s gid (h + 4))) else none
  | .collRoom d kind user dsc ent hint lanes =>
    if hlRoom s w then
      let mine := (lanesOf lanes).filter fun j => (thrAt s w j).st == .stall (.collRoom d kind user dsc ent hint lanes)
      some (mine.foldl (fun s j => resumeLane (wakeDst s w j d 0) w j true) (hlEnqueue s w user (thrAt s w l).pc kind dsc ent hint))
    else none
  | .coll d ids => if collOpen s (dieOf w.core) ids then none else some (wakeWith s w l d (collStatus s ids))
  | .pnwait d m =>
    let p := ((grp s w).pn.map (·.pend)).getD 0 &&& m
    if p = 0 then none else some (resumeLane (wakeDst (pkgAcquire s w.core) w l d (w32 (lowestBit p))) w l false)
  | .beside m =>
    let sends := fun (j : Nat) => match (thrAt s w j).st with | .stall (.pnsend _ _) => true | _ => false
    if (lanesOf m).any sends then none else some (updThr s w l fun t => { t with st := .running, pc := t.pc + 12 })
  | .rgrow _ _ | .tenr _ | .trel _ | .channel _ _ _ _ _ | .pnsend _ _ => none

/-- STALL_WAKE (R39): the thread's condition holds. -/
def execStallWake (w : WKey) (lane : Nat) (s : State) : Host.Outcome State Fault Refusal :=
  match (thrAt s w lane).st with
  | .stall k => done ((stallEnd s w lane k).getD s)
  | _ => done s

end Sys2Proof.Machine
end

