-- ==== Sys2Proof/Machine/Warp.lean ====
section
/-! DEFINITION. Warp-wide instructions: member waits, absence and closure under naming (02_execution_model.md R58 to R60), VOTE,
SHFL, WRED, WSCAN and WSYNC (18_reference_m_s.md R376, 19_reference_t_z.md R402 to R405). -/
namespace Sys2Proof.Machine

/-! ### Member waits -/

/-- Removes the marks of lanes at an address. DESIGN CHOICE (log 60): a lane that has passed the instruction with a false guard, or trapped there,
counts as absent until an execution that it is named in takes place, or until it or another such lane comes back while no waiting lane names
either. -/
def clearGone (s : State) (w : WKey) (pc : W64) (m : W32) : State :=
  updWarp s w fun x =>
    let left := x.gone pc &&& ~~~m
    { x with absent := if left = 0 then x.absent.del pc.toNat else x.absent.put pc.toNat left }

/-- The instruction and mask of a lane in member wait at an address. -/
def Warp.waits (x : Warp) (pc : W64) (l : Nat) : Option (Instr × W32) :=
  if (x.thr l).pc == pc then match (x.thr l).st with | .member i m => some (i, m) | _ => none else none
/-- A lane that takes part in the present execution at an address: waiting there and not absent from it. -/
def Warp.takesPart (x : Warp) (pc : W64) (l : Nat) : Bool := (x.waits pc l).isSome && !hasLane (x.gone pc) l
/-- The mask a lane supplies; zero when it does not wait there. -/
def Warp.named (x : Warp) (pc : W64) (l : Nat) : W32 := ((x.waits pc l).map (·.2)).getD 0

/-- One round of closing a set of lanes under naming, in either direction (R60). -/
def Warp.grow (x : Warp) (pc : W64) (m : W32) : W32 :=
  (List.range 32).foldl (fun m l =>
    if x.takesPart pc l && (hasLane m l || (m &&& x.named pc l) != 0) then m ||| x.named pc l else m) m
/-- The lanes of the execution that a lane belongs to (R60). -/
def Warp.closure (x : Warp) (pc : W64) (l : Nat) : W32 :=
  (List.range 32).foldl (fun m _ => x.grow pc m) (maskOf (· == l))

/-- Every lane of the set has reached the instruction or become absent (R58, R59). -/
def Warp.gathered (x : Warp) (pc : W64) (m : W32) : Bool :=
  (lanesOf m).all fun l => x.takesPart pc l || hasLane (x.gone pc) l || (x.thr l).st == .exited

/-- A WSYNC also waits for the present lanes' earlier accesses (R405, R340 step 1): stores held under a tenure. -/
def memberReady (s : State) (w : WKey) (l : Nat) : Bool :=
  match warpAt s w with
  | none => false
  | some x =>
    let pc := (x.thr l).pc
    let m := x.closure pc l
    x.takesPart pc l && x.gathered pc m &&
      (match x.waits pc l with
       | some (.wsync _ _, _) => (lanesOf m).all fun j => !(x.takesPart pc j && accessOpen s w j)
       | _ => true)

/-! ### The operations -/

/-- A source of the execution, read before any destination is written (R9). -/
def member1 (s : State) (c : Cursor) (o : Opd) (wide : Bool) (l : Nat) : Nat := src s c l o wide

/-- VOTE (R402): the lanes present whose predicate is true. -/
def voteMask (s : State) (c : Cursor) (a : Opd) : W32 := maskOf fun l => hasLane c.lanes l && srcP s c l a

/-- The lane that SHFL reads (R376); none outside 0 to 31. -/
def shflLane (m : ShflMode) (l b : Nat) : Option Nat :=
  match m with
  | .idx => some (b % 32)
  | .up => if b ≤ l then some (l - b) else none
  | .down => if l + b ≤ 31 then some (l + b) else none
  | .xor => some (Nat.xor l (b % 32))

/-- SHFL's value in a lane (R376). -/
def shflValue (s : State) (c : Cursor) (mask : W32) (o : ShflOps) (l : Nat) : Nat :=
  match shflLane o.mode l (src s c l o.b false) with
  | none => src s c l o.a o.ty.is64
  | some j =>
    if !hasLane mask j then src s c l o.a o.ty.is64
    else if !hasLane c.lanes j then 0
    else src s c j o.a o.ty.is64

/-- The combination of some lanes' values in increasing lane order (R404). -/
def combineLanes (op : RedOp) (ty : Fmt) (vals : List Nat) : Nat :=
  match vals with
  | [] => Num.identity op ty
  | v :: vs => vs.foldl (fun a x => Num.combine op ty a x) v

/-- WRED's value, the same in every lane, and WSCAN's (R404). -/
def wredValue (s : State) (c : Cursor) (o : WredOps) (upto : Option Nat) : Nat :=
  let ls := (lanesOf c.lanes).filter fun j =>
    match upto with
    | none => true
    | some l => if o.exc then j < l else j ≤ l
  combineLanes o.op o.ty (ls.map fun j => src s c j o.a o.ty.is64)

/-- What an execution writes in one lane: the sources come from `s0`. -/
def memberWrite (i : Instr) (s0 : State) (c : Cursor) (mask : W32) (l : Nat) (s : State) : State :=
  match i with
  | .vote _ o =>
    let v := voteMask s0 c o.a
    match o.mode with
    | .ballot => dst s c l o.d false v.toNat
    | .any => dstP s c l o.d 0 (v != 0)
    | .all => dstP s c l o.d 0 (v == c.lanes)
  | .shfl _ o => dst s c l o.d o.ty.is64 (shflValue s0 c mask o l)
  | .wred _ o => dst s c l o.d o.ty.is64 (wredValue s0 c o none)
  | .wscan _ o => dst s c l o.d o.ty.is64 (wredValue s0 c o (some l))
  | .wsync _ _ => settlePosted s c.w l
  | _ => s

/-- An execution takes place for the present lanes of a closed set (R58 to R60): they trap with 0E6h when their masks differ; else
each lane writes its result, XM tells of an exited lane, and all continue at the next instruction. -/
def runMembers (s : State) (w : WKey) (pc : W64) (m : W32) : State :=
  let x := (warpAt s w).getD {}
  let ls := (lanesOf m).filter (x.takesPart pc)
  match ls with
  | [] => s
  | l0 :: _ =>
    match x.waits pc l0 with
    | none => s
    | some (i, mask) =>
      let h := (i.hdr?).getD default
      let xm := (lanesOf m).any fun l => (x.thr l).st == .exited
      let s := clearGone s w pc m
      let user := ((x.thr l0).fromUser).getD true
      let c : Cursor := { w := w, lanes := maskOf ls.contains, pc := pc, user := user, kfree := true }
      let wake := fun (s : State) (l : Nat) => updThr s w l fun t => { t with st := .running, pc := pc + 12 }
      let left := fun (s : State) (l : Nat) => updThr s w l fun t => { t with issued := none }
      let s0 := ls.foldl wake s
      if ls.any fun l => x.named pc l != mask then
        takeTraps (ls.foldl left s0) w pc (ls.map fun l => { lane := l, code := 0x0E6, addr := 0 })
      else
        let due := Config.freeNat s0.freeCtr
        let lane := fun (s : State) (l : Nat) =>
          left (completeLane i h c due l (updThr (memberWrite i s0 c mask l s) w l fun t => { t with xm := xm })) l
        ls.foldl lane { s0 with cur := some c, freeCtr := s0.freeCtr + 1 }

/-- Runs the execution of a lane when it has gathered. -/
def tryMembers (s : State) (w : WKey) (l : Nat) : State :=
  if memberReady s w l then
    let x := (warpAt s w).getD {}
    runMembers s w (x.thr l).pc (x.closure (x.thr l).pc l)
  else s

/-! ### Arrival -/

/-- The lanes that the lanes waiting at an address name. -/
def Warp.wanted (x : Warp) (pc : W64) : W32 :=
  (List.range 32).foldl (fun m j => if x.takesPart pc j then m ||| x.named pc j else m) 0

/-- A lane arrives: it waits with the mask it supplies. A lane that comes back, and that no lane which waited before this issue names, starts a
new execution (R59): its mark goes, and with it every mark there but of lanes that a waiting lane names, whose execution they are absent from
(log 60). `x` is the warp at the issue. -/
def arrive (i : Instr) (c : Cursor) (mask : Nat → W32) (x : Warp) (s : State) (l : Nat) : State :=
  let wanted := x.wanted c.pc
  let s := if hasLane (x.gone c.pc) l && !hasLane wanted l then clearGone s c.w c.pc (~~~wanted) else s
  updThr (waitLane c l (.member i (mask l)) s) c.w l fun t => { t with issued := some s.cycle }

/-- The frame of a warp-wide instruction: `bad` is the instruction's own check. Threads whose guard is false, and threads that trap,
become absent (R59); 0E5h for a mask without the thread's own lane (R60). -/
def warpWide (i : Instr) (h : Hdr) (mask : Opd) (bad : Option Nat) (s : State) : Host.Outcome State Fault Refusal :=
  match s.cur with
  | none => done s
  | some c =>
    let act := activeLanes s c h
    let us := Instr.uses i
    let s1 := issuePath s c h
    let pass := maskOf fun l => hasLane c.lanes l && !act.contains l
    let maskFor := fun (l : Nat) => w32 (src s1 (actAs s c act) l mask false)
    let hurt := damaged s c h us act
    let code := fun (l : Nat) =>
      match operandTrap us ((warpAt s c.w).getD {}).alloc with
      | some n => some ({ lane := l, code := n, addr := 0 } : TrapOf)
      | none =>
        match hurt.find? (·.lane == l) with
        | some t => some t
        | none =>
          match bad with
          | some n => some { lane := l, code := n, addr := 0 }
          | none => if hasLane (maskFor l) l then none else some { lane := l, code := 0x0E5, addr := 0 }
    let ts := act.filterMap code ++ hurt.filter fun t => !act.contains t.lane
    let come := act.filter fun l => (code l).isNone
    -- arrivals first, so that a mark of an earlier pass is told from one of this issue
    let s2 := come.foldl (arrive i c maskFor ((warpAt s1 c.w).getD {})) s1
    let s3 := markGone s2 c.w c.pc (pass ||| maskOf fun l => ts.any (·.lane == l))
    let s4 := if (pass ||| maskOf fun l => ts.any (·.lane == l)) = 0 then s2 else s3
    let s5 := come.foldl (fun s l => tryMembers s c.w l) s4
    done (endTraps s5 c ts)

/-- VOTE (19_reference_t_z.md R402). -/
def execVote (h : Hdr) (o : VoteOps) (s : State) : Host.Outcome State Fault Refusal := warpWide (.vote h o) h o.c none s
/-- SHFL (18_reference_m_s.md R376): 040h for a type other than .n32 and .n64 (16_reference_a_c.md R309). -/
def execShfl (h : Hdr) (o : ShflOps) (s : State) : Host.Outcome State Fault Refusal :=
  warpWide (.shfl h o) h o.c (if o.ty == .n32 || o.ty == .n64 then none else some 0x040) s

/-- The types of WRED and WSCAN (R403): 040h otherwise. -/
def wredType (o : WredOps) : Option Nat :=
  match o.ty with
  | .i32 | .n32 | .i64 | .n64 => none
  | .f32 => match o.op with | .and | .or | .xor => some 0x040 | _ => none
  | _ => some 0x040

/-- WRED (R403, R404). -/
def execWred (h : Hdr) (o : WredOps) (s : State) : Host.Outcome State Fault Refusal :=
  warpWide (.wred h o) h o.c (wredType o) s
/-- WSCAN (R403, R404). -/
def execWscan (h : Hdr) (o : WredOps) (s : State) : Host.Outcome State Fault Refusal :=
  warpWide (.wscan h o) h o.c (wredType o) s
/-- WSYNC (R405). -/
def execWsync (h : Hdr) (c : Opd) (s : State) : Host.Outcome State Fault Refusal := warpWide (.wsync h c) h c none s

/-- MEMBER_WAIT_COMPLETE (02_execution_model.md R58): the execution that a waiting lane belongs to takes place once it has
gathered. -/
def execMemberWaitComplete (w : WKey) (lane : Nat) (s : State) : Host.Outcome State Fault Refusal :=
  let x := (warpAt s w).getD {}
  match (x.thr lane).st with
  | .member _ _ => done (tryMembers s w lane)
  | _ => done s

end Sys2Proof.Machine
end

