-- ==== Sys2Proof/Machine/Cycle.lean ====
section
/-! DEFINITION. What comes due in each cycle (02_execution_model.md R41, 14_determinism_and_debug.md R271 to R282, 01_device_overview.md R25 to
R27), restoring an image, and how a program comes to run (log 6). The order of the events of one cycle, and when an event comes that the spec
times only by a condition, are the model's (log 5). -/
namespace Sys2Proof.Machine

/-! ### Inputs (log 5) -/

/-- The first message of a line that has come, and the state without it. -/
def takeInput (s : State) (n : Nat) : Option (Arrival × State) :=
  (s.link.find? fun e => e.1 == n && (n == 35 || e.2.1 ≤ s.cycle)).map fun e => (e.2.2, { s with link := s.link.erase e })

/-- An input of line 34: a step of the pins, a store of the host to its own memory, or a soft error. -/
def environment (s : State) (a : Arrival) : State :=
  match a.kind with
  | 0 =>
    match a.pin with
    | some i => due s i
    | none => s
  | 1 => { s with mem := s.mem.putAll (Memory.cells (hostKey (a.addr.toNat % 2 ^ 52)) (a.data.take 4096)) }
  | k => strike s k a.reqlen a.addr.toNat

/-! ### Requests answered outside the count -/

/-- The identification block and the capability list (13_host_and_system.md R258). -/
def inIdent (off : Nat) : Bool := off < 0x2000
/-- Tables 14.2 and 14.3. -/
def inTable143 (off : Nat) : Bool := 0x2030 ≤ off && off < 0x2080
/-- Table 14.2. -/
def inTable142 (off : Nat) : Bool := 0x2400 ≤ off && off < 0x2840

/-- A host access is answered at once (01_device_overview.md R27, 14_determinism_and_debug.md R277, R280). -/
def answerAccess (s : State) (a : Arrival) (write : Nat → Bool) : State :=
  let off := a.addr.toNat % 2 ^ 24
  if !barAccess off a.reqlen then { s with hostOut := .abort a.addr.toNat :: s.hostOut }
  else if a.kind = 2 then { s with hostOut := .read off (w64 (readBar s off a.reqlen)) :: s.hostOut }
  else if write off then writeBar s none off a.reqlen (ofBytes a.data)
  else s

/-- The bytes lie in the image region. -/
def inImage (s : State) (at_ n : Nat) : Bool := s.imgBase.toNat ≤ at_ && at_ + n ≤ s.imgBase.toNat + 65536 * s.imgSize.toNat

/-- A request while the count stands: in reset, in start-up, or frozen, when the management port reads the image region too (R280). -/
def standingRequest (s : State) (a : Arrival) : State :=
  let off := a.addr.toNat % 2 ^ 24
  let whole := frozen s || (s.inReset && verifiedBoot s)
  if a.kind = 0x20 then
    if frozen s && inImage s a.addr.toNat a.reqlen then
      { s with hostOut := .management a.addr.toNat (s.mem.read a.addr.toNat a.reqlen) :: s.hostOut }
    else s
  else if a.kind = 1 ∨ a.kind = 2 then
    if (inIdent off && (whole || 1 ≤ s.startup)) || (whole && (inTable142 off || inTable143 off)) then answerAccess s a fun _ => true
    else due s (.hostRequestNotReady false a.addr.toNat)
  else due s (.hostRequestNotReady (!frozen s) (bits a.addr 47 32))

/-- A replaying fabric gate whose log carries no payload holds what the peer sends now (R278). -/
def holdsLive (s : State) (n : Nat) : Bool :=
  let j := (s.gates.getD n {}).head.toNat
  remains s n j && !LogEnt.pl (logEntry s n j)

/-- A live arrival at a replaying gate (R277, R278): it does not reach the package's state, so a write of Table 14.3 changes only a register
that an image does not hold (R282). -/
def liveArrival (s : State) (n : Nat) (a : Arrival) : State :=
  let off := a.addr.toNat % 2 ^ 24
  if n = 0 then
    if a.kind = 1 ∨ a.kind = 2 then
      if inIdent off || inTable143 off then answerAccess s a fun o => inTable143 o && o != 0x2048
      else due s (.hostRequestNotReady false a.addr.toNat)
    else if a.kind = 3 then due s (.hostRequestNotReady true (bits a.addr 47 32))
    else s
  else if n < 33 && holdsLive s n then updGate s n fun g => { g with held := g.held ++ [a] }
  else s

/-- Every replaying gate turns live in this cycle (R279). -/
def turnsLive (s : State) : Bool := s.replayEnd.toNat == s.cycle && s.replayEnd != 0

/-- The messages that the links have delivered enter the crossing queues, of 64 messages each (R273); a gate that turns live in this cycle takes
them as a live one (R279). -/
def deliverLinks (s : State) : State :=
  s.link.foldl (fun s e =>
    if 34 ≤ e.1 || s.cycle < e.2.1 then { s with link := s.link ++ [e] }
    else if replays s e.1 && !turnsLive s then liveArrival s e.1 e.2.2
    else if (s.gates.getD e.1 {}).queue.length < 64 then updGate s e.1 fun g => { g with queue := g.queue ++ [e.2.2] }
    else { s with link := s.link ++ [e] }) { s with link := [] }

/-! ### The agenda of a cycle -/

/-- An event for each die that satisfies a test. -/
def onDies (test : Nat → Bool) (i : Nat → Instr) : List Instr := ((List.range 8).filter test).map i
/-- An event for each core of a table that satisfies a test. -/
def onCores (cores : List Nat) (test : Nat → Bool) (i : Nat → Instr) : List Instr := (cores.eraseDups.filter test).map i
/-- An event for each group that satisfies a test. -/
def onGroups (s : State) (test : Nat × Group → Bool) (i : Nat → Instr) : List Instr := (s.groups.filter test).map fun e => i e.1

/-- Crossing, injection and application at the gates, in gate order (R273, R277). -/
def gateEvents (s : State) : List Instr :=
  (List.range 34).flatMap fun n =>
    let g := s.gates.getD n {}
    if replays s n && !turnsLive s then
      (if g.crossed.isEmpty then [] else [.arrivalApply n, .arrivalApply n]) ++ (if injectDue s n then [Instr.replayInject n, .replayInject n] else [])
    else
      (if g.queue.isEmpty && g.held.isEmpty then [] else [Instr.gateCrossing n]) ++
      (if g.queue.isEmpty && g.held.isEmpty && g.crossed.isEmpty then [] else [.arrivalApply n, .arrivalApply n])

/-- A pre-emption that takes effect. -/
def preempts : Instr → Bool
  | .preemptContext _ | .preemptCore _ | .preemptSuspend _ => true
  | _ => false

/-- Package events fixed by the count. -/
def countEvents (s : State) : List Instr :=
  (if refreshAt s.cycle then [.refreshTick] else []) ++
  (if s.replay != 0 && s.replayEnd != 0 && s.replayEnd.toNat == s.cycle then [.replayEnd] else []) ++
  (if stepDue s then [.powerStepEffect] else []) ++
  onDies (fun d => traceCycleDue s (traceOf s d)) .traceCycleTrigger ++
  (if s.trace.toList.any (effectDue s) then [.triggerEffect] else []) ++
  (if tideDue s then [.tideLatch] else []) ++
  (s.timed.filter fun e => e.1 ≤ s.cycle && !preempts e.2).map (·.2)

/-- Events of the memory system and the queues whose condition holds; a held cycle has none of them (R25). -/
def unitEvents (s : State) : List Instr :=
  let l1 := s.ms.l1.map (·.1)
  onCores l1 (drainAged s) .l1DrainTimeout ++ onCores l1 (leaseOver s) .leaseExpiry ++
  onDies (fun d => s.ms.l2.any (agingLine s d)) .retentionAging ++
  onDies (fun d => (walkDue s d).isSome) .pageWalkComplete ++
  ((s.ms.found.map fun e => e.2.2).eraseDups).map .softErrorScrub ++
  onDies (fun d => spillAwaited s d) .spillRetry ++
  (List.range 8).flatMap (fun d => List.replicate (forwardsOver s d) (.forwardedWriteApply d)) ++
  onDies (fun d => !(schedOf s d).waiting.isEmpty) .devicePushRetry ++
  (s.ctxs.filter fun e => !e.2.heldWait.isEmpty).map (fun e => .heldListPushRetry e.1) ++
  onDies (fun d => !(fqOf s d).waiting.isEmpty) .faultRecordRetry ++
  onDies (fun d => (List.range 7).any fun lv => (levelOf (schedOf s d) lv).any fun q => q.since + 65536 ≤ s.cycle) .queueAging ++
  ((List.range 16).filter (agentDue s)).map .queueAgentPackets ++
  onDies (fun d => (s.sends.any fun e => e.die == d && sendTimedOut s e)) .pennantNoAnswer ++
  onDies (fun d => (collOf s d).any (ackLate s)) .chunkAckTimeout ++
  onDies (fun d => (collOf s d).any (predLate s)) .predecessorTimeout ++
  (if timeDue s then [.timeAlignExchange] else []) ++
  onGroups s (fun e => deadlocked s e.1) .barrierDeadlock ++ onGroups s (fun e => e.2.ending && e.2.warps.isEmpty) .groupExit

/-- Events that may come in any cycle in which their condition holds: a free value says which do (log 5). -/
def movingEvents (s : State) : List Instr :=
  onCores (s.ms.drainReq.map (·.1)) (fun _ => true) .drainRequest ++ onCores (s.ms.drainAck.map (·.1)) (fun _ => true) .drainAck ++
  (List.range 8).flatMap (fun d => List.replicate (s.ms.forwards.getD d []).length (.forwardedWriteApply d)) ++
  onDies (forwardStuck s) (fun d => .epochMarker d (homeDie (((s.ms.forwards.getD d []).map (·.line)).headD 0 * 128))) ++
  s.ms.ownWait.map (fun q => if q.2.2 then .ownershipGrant q.2.1 else .ownershipRecall q.2.1) ++
  onDies (fun d => s.ten.any fun e => e.2.st == 2 && e.2.die == d) .tenureDrainAck ++
  onDies (fun d => (nextSend s d).isSome) .pennantSendArrival

/-- What a free value chooses of some events. -/
def chosen (s : State) (is : List Instr) : List Instr :=
  (is.zipIdx.filter fun p => Config.freeNat (s.freeCtr + p.2) % 2 == 0).map (·.1)

/-- What a thread's state lets happen to it. -/
def threadEvents (s : State) (w : WKey) (l : Nat) (t : Thread) : List Instr :=
  (match t.st with
   | .stall (.channel _ _ _ _ _) => [.channelResume w l]
   | .stall (.pnsend _ _) => if (settledFor s w l).isSome then [.pnsendSettle w l] else []
   | .stall k => if (stallEnd s w l k).isSome then [.stallWake w l] else []
   | .member _ _ => if memberReady s w l then [.memberWaitComplete w l] else []
   | .sleep _ since =>
     (if (t.watch.bind (·.event)).any (· < s.cycle) then [.mwaitWake w l] else []) ++ (if since + 65536 ≤ s.cycle then [.mwaitTimeout w l] else [])
   | .exiting => if t.pend.isEmpty then [.exitComplete w l] else []
   | _ => []) ++
  (if t.pend.any (pendDue s w l) then [.instructionComplete w l] else [])

/-- Events of the cores, their engines and the schedulers, which a held cycle does not have (R25). -/
def coreEvents (s : State) : List Instr :=
  onCores (s.engines.map (·.1)) (engineDue s) .engineStep ++
  onCores (s.crun.map (·.1) ++ s.coal.map (·.1)) (copyDue s) .copyChunkComplete ++
  (s.warps.flatMap fun e => (List.range 32).flatMap fun l => threadEvents s (wKeyOf e.1) l (e.2.thr l)) ++
  onCores (s.grow.map (·.1)) (fun c => !(growOf s c).isEmpty) .rgrowGrant ++ 
  onGroups s (fun e => mayDivert s e.1) .pennantDiversion ++
  onDies (fun d => (schedOf s d).queues.toList.any fun q => !q.isEmpty) .schedulerGrant ++
  onDies (fun d => (schedOf s d).launches.any fun e => e.2.active) .expanderEmit ++
  ((s.warps.map fun e => e.1 / 8).eraseDups.map fun q => .issueVote (q / 4) (q % 4)) ++
  onCores (s.grow.map (·.1)) (fun c => !(growOf s c).isEmpty) .rgrowDeadlock ++
  List.replicate (s.ms.posted.filter fun p => p.due ≤ s.cycle).length .storeAck

/-- What comes after every other event of its cycle, so that the row listed first in a state machine applies first (00_scope.md R8): grants of
tenure after the releases of the cycle (06_tile_tenure.md R137); then pre-emption, after its exits (11_traps_and_preemption.md R240), and saves. -/
def lateEvents (s : State) : List Instr :=
  let held := heldCycle s s.cycle
  (if held then [] else onDies (fun d => s.ten.any fun e => e.2.st == 0 && e.2.die == d) .tenureGrant) ++
  ((s.timed.filter fun e => e.1 ≤ s.cycle && preempts e.2).map (·.2)) ++
  (if held then [] else onGroups s (fun e => drainLate s e.2) .drainWindowExpiry ++ onGroups s (fun e => saveReady s e.1) .saveComplete)

/-- The events of the present cycle. The sends of a cycle settle before what its arrivals do (12_pennants.md R242). A held cycle has only those that
the count, the links and software command (R25). -/
def cycleEvents (s : State) : List Instr :=
  let held := heldCycle s s.cycle
  countEvents s ++ (if held then [] else unitEvents s ++ chosen s (movingEvents s)) ++ gateEvents s ++ (if held then [] else coreEvents s) ++
    lateEvents s

/-! ### Cycles -/

/-- The log path takes a record of each die in every 32 cycles: a command slot in 64 on each of its two Scarp stacks (R276, log 40). -/
def logSlot (s : State) : State := if s.cycle % 32 = 0 then { s with logWait := s.logWait.map (· - 1) } else s

/-- The threads of a halted group that have made their single step and whose wait has ended park with 161h (18_reference_m_s.md R380, log 42). -/
def parkStepped (s : State) : State :=
  s.warps.foldl (fun s e =>
    let w := wKeyOf e.1
    if !(grp s w).halted then s
    else
      let ls := (List.range 32).filter fun l => (thrAt s w l).stepped
      ((ls.map fun l => (thrAt s w l).pc).eraseDups).foldl (fun s pc =>
        stepPark s w (pc - 12) (ls.filter fun l => (thrAt s w l).pc == pc)) s) s

/-- What the units do as a cycle begins: revocations take effect, PREEMPT.BUSY clears, the log path goes on, collectives run on, and messages
enter the gates. -/
def cycleStart (s : State) : State :=
  let s := logSlot (preemptDone (takeRevocations s))
  let s := if heldCycle s s.cycle then s
    else (List.range 8).foldl (fun s d => if (collOf s d).isEmpty then s else collRun s d) (parkStepped s)
  deliverLinks s

/-- Cycle c begins; a replay that diverges at c freezes the package before it (R276, R278). -/
def beginCycle (s : State) (c : Nat) : State :=
  if ¬(s.replayEnd ≠ 0 ∧ s.replayEnd.toNat = c) ∧ diverges s c then
    { s with cycle := (c + 2 ^ 64 - 1) % 2 ^ 64, diverge := true, slackStop := w64 (c + 2 ^ 64 - 1), agenda := [.slackWaterStop] }
  else
    let s := cycleStart { s with cycle := c, began := true }
    let es := s.agenda ++ cycleEvents s
    { s with agenda := es, timed := s.timed.filter (fun e => s.cycle < e.1), freeCtr := s.freeCtr + (movingEvents s).length }

/-- The next cycle of a package that runs: the count completes the stop cycle, or goes on (R271, R280). -/
def runCycle (s : State) : State :=
  if !s.began then beginCycle s 0
  else
    let s := tideCount s
    if s.slackStop != 0 && s.slackStop.toNat == s.cycle then { s with agenda := [.slackWaterStop] }
    else beginCycle s ((s.cycle + 1) % 2 ^ 64)

/-- What a package that does not run does next: a restore or an image write ends, verification ends, or start-up takes a step (R26, R27,
R266, R280, R282). -/
def standing (s : State) : State :=
  if s.swState = 3 then { s with agenda := [.restoreComplete] }
  else if s.swState = 1 then { s with agenda := [.imageWriteComplete] }
  else if frozen s then s
  else if s.inReset then { s with agenda := if s.bootDone then [] else [.bootVerifyComplete] }
  else
    -- verification ends within 4 ms, which is before step 100
    { s with
      agenda := (if !s.bootDone && Config.freeNat s.freeCtr % 100 ≤ s.startup then [.bootVerifyComplete] else []) ++
        (if s.startup < 128 || !allTrained s then [.startupStep] else []) }

/-- When no event is left, an input takes effect, or the next cycle begins. -/
def newCycle (s : State) : State :=
  let s := fqFlush s
  match takeInput s 34 with
  | some (a, s) => environment s a
  | none =>
    if !s.power then s
    else if s.ready && !s.inReset && !frozen s then runCycle s
    else
      match takeInput s 35 with
      | some (a, s) => standingRequest s a
      | none => standing s

/-- RESTORE_COMPLETE (R282, R284, 22_programs_calls_and_replay.md R413): every section is loaded, each die writes its GAP record first, and the
cycle after the stop cycle begins. -/
def execRestoreComplete (s : State) : Host.Outcome State Fault Refusal :=
  if s.swState ≠ 3 then done s
  else
    match imageAt s with
    | none => done { s with swState := 2, swErr := 3 }
    | some img =>
      let f := free s
      let s := { s with
        toPackage := loadPackage s img, mem := restoredMem s img
        swState := 0, ready := true, began := true, inReset := false, startup := 128, verified := true, bootErr := 0 }
      let s := (List.range 8).foldl (fun s d => if (traceOf s d).live then tracePutCycle s d 5 img.pkg.cycle (f.1 % 2 ^ 32) else s) s
      done (beginCycle s ((img.pkg.cycle + 1) % 2 ^ 64))

/-! ### Placing one instruction -/

/-- Entry n of a page table, eight bytes (04_memory_hierarchy.md Table 4.1). -/
def pteCells (table n entry : Nat) : List Host.Cell := Memory.cells (table + 8 * n) (toBytes 8 entry)

/-- A page table at 1 MiB of Scarp memory that maps virtual address 1_0000h to physical address 20_0000h, executable and writable,
for system mode; and the bytes of an instruction at that address. -/
def placeCells (w : Nat) : List Host.Cell :=
  pteCells 0x100000 0 0x101003 ++ pteCells 0x101000 0 0x102003 ++ pteCells 0x102000 0 0x103003 ++ pteCells 0x103000 0 0x104003 ++
  pteCells 0x104000 1 0x20022D ++ Memory.cells 0x200000 (toBytes 12 w)

/-- A warp of 32 running threads at virtual address 1_0000h, with 128 registers each. -/
def placedWarp : Warp :=
  { gid := 1, alloc := 128, th := Vector.replicate 32 { pc := 0x10000 } }

/-- Places one instruction (log 6). -/
def placeWord (s : State) (w : Nat) : State :=
  let wk : WKey := ⟨0, 0, 0⟩
  { s with
    mem := s.mem.putAll (placeCells w)
    ctxs := s.ctxs.put 1 { ctxOf s 1 with ttbase := 0x100001, suspended := false }
    sched := s.sched.setIfInBounds 0 { schedOf s 0 with launches := (schedOf s 0).launches.put 0 { rcd := 0, ctx := 1, id := 0, live := 1, emitted := 1, active := true } }
    groups := s.groups.put 1 { warps := [wk], ctx := 1 }
    warps := s.warps.put (wIdx wk) placedWarp
    ms.icache := s.ms.icache.put 0 []
    ms.tlb := s.ms.tlb.put 0 []
    ms.tcache := s.ms.tcache.setIfInBounds 0 []
    ms.damage := []
    stop := none
    power := true, inReset := false, startup := 128, ready := true, began := true, verified := true, bootErr := 0, bootDone := true, bootRes := 0, swState := 0
    issue := [{ w := wk, lanes := 0xFFFFFFFF, pc := 0x10000 }] }

end Sys2Proof.Machine
end

