-- ==== Sys2Proof/Machine/Approx.lean ====
section
/-! DEFINITION. The single-source functions that are not correctly rounded (17_reference_d_l.md R339): FRCP, FRSQ, FEXP2,
FLOG2, FSIN, FCOS. Each takes an opaque function of its source bits, kept inside the error bound that R339 gives. The exact
result is enclosed by integer arithmetic: it lies between n and n + 1 units of 2^k, to within 4 units (log 7). -/
namespace Sys2Proof.Approx
open Sys2Proof.Num

/-- Fraction bits of the enclosures of FEXP2, FSIN and FCOS. -/
def prec : Nat := 120
/-- 2 pi in units of 2^-300. -/
def twoPi : Nat := 0x6487ed5110b4611a62633145c06e0e68948127044533e63a0105df531d89cd9128a5043cc71a

/-- 2^(2^-j) in units of 2^-prec, for j = 1 to n, each the square root of the one before. -/
def roots : Nat → Nat → List Nat
  | 0, _ => []
  | n + 1, t =>
    let r := isqrt (prec + 1) (t * 2 ^ prec)
    r :: roots n r

/-- The product of the roots whose bit of the fraction is set, most significant bit first. -/
def expFrac : List Nat → Nat → Nat → Nat
  | [], _, acc => acc
  | r :: rs, f, acc =>
    expFrac rs (f * 2 % 2 ^ prec) (if f * 2 ≥ 2 ^ prec then acc * r / 2 ^ prec else acc)

/-- n bits of the base-2 logarithm of y, 1 to 2, in units of 2^-prec. -/
def logBits : Nat → Nat → Nat → Nat
  | 0, _, acc => acc
  | n + 1, y, acc =>
    let z := y * y / 2 ^ prec
    if z ≥ 2 ^ (prec + 1) then logBits n (z / 2) (acc * 2 + 1) else logBits n z (acc * 2)

/-- The Taylor sum from term t of index i, stepping by two with alternating sign. -/
def taylor : Nat → Nat → Int → Int → Int
  | 0, _, _, _ => 0
  | n + 1, i, r, t => t + taylor n (i + 2) r (-(t * r / (2 ^ prec : Nat) * r / (2 ^ prec : Nat)) / ((i + 1) * (i + 2) : Nat))

/-- The magnitude m * 2^e reduced modulo 2 pi, in units of 2^-prec. -/
def reduce (m : Nat) (e : Int) : Nat :=
  (if 0 ≤ e + 300 then m * 2 ^ (e + 300).toNat else m / 2 ^ (-(e + 300)).toNat) % twoPi / 2 ^ (300 - prec)

/-- The distance of y from n * 2^k is at most bm * 2^be and 4 units of the enclosure. -/
def within (y : FV) (n k : Int) (bm : Nat) (be : Int) : Bool :=
  match y with
  | .fin s m e =>
    let u := min (min e k) be
    let d := sgn s m * 2 ^ (e - u).toNat - n * 2 ^ (k - u).toNat
    decide (d.natAbs ≤ bm * 2 ^ (be - u).toNat + 4 * 2 ^ (k - u).toNat)
  | _ => false

/-- The exponent of one ulp of FP32 at n * 2^k (R339). -/
def ulpExp (n k : Int) : Int := max (minExp .f32) (Nat.log2 n.natAbs + k - 23)

/-- The candidate when it lies within the bound, else the nearest value. -/
def pick (cand : W32) (n k : Int) (bm : Nat) (be : Int) : Nat :=
  if within (ofFloat .f32 cand.toNat) n k bm be then cand.toNat
  else rne .f32 (.fin (n < 0) n.natAbs k)

/-- A magnitude that is a power of two. -/
def pow2 (m : Nat) : Bool := m != 0 && 2 ^ Nat.log2 m == m

/-- FRCP (R339). -/
def frcp (a : Nat) : Nat :=
  match ofFloat .f32 a with
  | .nan => canonicalNaN .f32
  | .inf s => withSign .f32 s 0
  | .fin s m e =>
    if m = 0 ∨ Nat.log2 m + e < -128 then withSign .f32 s (infCode .f32)
    else if pow2 m && Nat.log2 m + e > -128 then rne .f32 (.fin s 1 (-(Nat.log2 m + e)))
    else
      let n : Int := sgn s (2 ^ 80 / m)
      pick (Config.frcp (BitVec.ofNat 32 a)) n (-e - 80) 1 (ulpExp n (-e - 80))

/-- FRSQ (R339). -/
def frsq (a : Nat) : Nat :=
  match ofFloat .f32 a with
  | .nan => canonicalNaN .f32
  | .inf s => if s then canonicalNaN .f32 else 0
  | .fin s m e =>
    if m = 0 then withSign .f32 s (infCode .f32)
    else if s then canonicalNaN .f32
    else if pow2 m && (Nat.log2 m + e) % 2 == 0 then rne .f32 (.fin false 1 (-((Nat.log2 m + e) / 2)))
    else
      let m' := if e % 2 = 0 then m else m * 2
      let e' := if e % 2 = 0 then e else e - 1
      let n : Int := isqrt 81 (2 ^ 160 / m')
      pick (Config.frsq (BitVec.ofNat 32 a)) n (-(e' / 2) - 80) 1 (ulpExp n (-(e' / 2) - 80))

/-- The argument of FEXP2 in units of 2^-prec. -/
def exp2Arg (s : Bool) (m : Nat) (e : Int) : Int :=
  if 0 ≤ e + prec then sgn s m * 2 ^ (e + prec).toNat else sgn s m / (2 ^ (-(e + prec)).toNat : Nat)
/-- The power of two of the fraction of an argument in units of 2^-prec, in units of 2^-(prec - 20). -/
def exp2Mid (x : Int) : Int := expFrac (roots prec (2 ^ (prec + 1))) (x % (2 ^ prec : Nat)).toNat (2 ^ prec) / 2 ^ 20
/-- The base-2 logarithm of m * 2^e in units of 2^-90. -/
def log2Mid (m : Nat) (e : Int) : Int := (Nat.log2 m + e) * (2 ^ 90 : Nat) + logBits 90 (m * 2 ^ (prec - Nat.log2 m)) 0
/-- A sine or cosine, which lies between -1 and 1, in units of 2^-80. -/
def unit (n : Int) : Int := max (-(2 ^ 80 : Nat)) (min (2 ^ 80 : Nat) n)
/-- The sine of m * 2^e with a sign, in units of 2^-80. -/
def sinMid (s : Bool) (m : Nat) (e : Int) : Int := unit ((if s then -1 else 1) * taylor 40 1 (reduce m e) (reduce m e) / (2 ^ 40 : Nat))
/-- The cosine of m * 2^e in units of 2^-80. -/
def cosMid (m : Nat) (e : Int) : Int := unit (taylor 40 0 (reduce m e) (2 ^ prec : Nat) / (2 ^ 40 : Nat))

/-- FEXP2 (R339). -/
def fexp2 (a : Nat) : Nat :=
  match ofFloat .f32 a with
  | .nan => canonicalNaN .f32
  | .inf s => if s then 0 else infCode .f32
  | .fin s m e =>
    let x := exp2Arg s m e
    let i := x / (2 ^ prec : Nat)
    if m = 0 then 0x3F800000
    else if i ≥ 128 then infCode .f32
    else if i < -150 then 0
    else if 0 ≤ e ∨ (m % 2 ^ (-e).toNat = 0 ∧ -e < 30) then
      (if i ≥ -149 then rne .f32 (.fin false 1 i) else pick (Config.fexp2 (BitVec.ofNat 32 a)) 1 (-150) 2 (-149))
    else
      pick (Config.fexp2 (BitVec.ofNat 32 a)) (exp2Mid x) (i - (prec - 20)) 2 (ulpExp (exp2Mid x) (i - (prec - 20)))

/-- FLOG2 (R339). -/
def flog2 (a : Nat) : Nat :=
  match ofFloat .f32 a with
  | .nan => canonicalNaN .f32
  | .inf s => if s then canonicalNaN .f32 else infCode .f32
  | .fin s m e =>
    if m = 0 then withSign .f32 true (infCode .f32)
    else if s then canonicalNaN .f32
    else
      let t : Int := Nat.log2 m + e
      if pow2 m then rne .f32 (.fin (t < 0) t.natAbs 0)
      else
        let n := log2Mid m e
        if t = -1 ∨ t = 0 then pick (Config.flog2 (BitVec.ofNat 32 a)) n (-90) 1 (-22)
        else pick (Config.flog2 (BitVec.ofNat 32 a)) n (-90) 2 (ulpExp n (-90))

/-- FSIN (R339). -/
def fsin (a : Nat) : Nat :=
  match ofFloat .f32 a with
  | .nan | .inf _ => canonicalNaN .f32
  | .fin s m e =>
    if m = 0 ∨ Nat.log2 m + e < -12 then a
    else pick (Config.fsin (BitVec.ofNat 32 a)) (sinMid s m e) (-80) 1 (-22)

/-- FCOS (R339). -/
def fcos (a : Nat) : Nat :=
  match ofFloat .f32 a with
  | .nan | .inf _ => canonicalNaN .f32
  | .fin _ m e =>
    if m = 0 then 0x3F800000
    else pick (Config.fcos (BitVec.ofNat 32 a)) (cosMid m e) (-80) 1 (-22)

end Sys2Proof.Approx
end

