-- ==== Sys2Proof/Machine/Integer.lean ====
section
/-! DEFINITION. The integer, logical and conversion instructions (16_reference_a_c.md to 19_reference_t_z.md; fields of
Table 16.1). A type the entry does not accept raises 040h at step 12 (R309). -/
namespace Sys2Proof.Machine

/-- .i32, .n32, .i64 and .n64. -/
def tyInt (t : Fmt) : Bool := t == .i32 || t == .n32 || t == .i64 || t == .n64
/-- .n32 and .n64. -/
def tyNat (t : Fmt) : Bool := t == .n32 || t == .n64
/-- .i32 and .i64. -/
def tySigned (t : Fmt) : Bool := t == .i32 || t == .i64
/-- The types of MOV, MOVI and SEL (R358, R375). -/
def tyMov (t : Fmt) : Bool := tyInt t || t == .f32
/-- The width of a type held in a register or a pair. -/
def tw (t : Fmt) : Nat := if t.is64 then 64 else 32

/-- Two register sources of the type. -/
def bin2 (i : Instr) (h : Hdr) (o : Bin) (ok : Bool) (f : Nat → Nat → Nat) (s : State) : Host.Outcome State Fault Refusal :=
  result i h s ok o.d o.ty.is64 fun c s l => f (src s c l o.a o.ty.is64) (src s c l o.b o.ty.is64)
/-- One register source of the type and the widened immediate (R309). -/
def bin2I (i : Instr) (h : Hdr) (o : BinI) (ok : Bool) (f : Nat → Nat → Nat) (s : State) : Host.Outcome State Fault Refusal :=
  result i h s ok o.d o.ty.is64 fun c s l => f (src s c l o.a o.ty.is64) (Alu.widen o.ty o.imm)
/-- A source of the type and a 32-bit control register. -/
def bin1 (i : Instr) (h : Hdr) (o : Bin) (ok : Bool) (f : Nat → Nat → Nat) (s : State) : Host.Outcome State Fault Refusal :=
  result i h s ok o.d o.ty.is64 fun c s l => f (src s c l o.a o.ty.is64) (src s c l o.b false)
/-- A source of the type and a 32-bit control word. -/
def bin1I (i : Instr) (h : Hdr) (o : BinI) (ok : Bool) (f : Nat → Nat → Nat) (s : State) : Host.Outcome State Fault Refusal :=
  result i h s ok o.d o.ty.is64 fun c s l => f (src s c l o.a o.ty.is64) o.imm.toNat
/-- One source of the type. -/
def un1 (i : Instr) (h : Hdr) (o : Un) (ok wide : Bool) (f : Nat → Nat) (s : State) : Host.Outcome State Fault Refusal :=
  result i h s ok o.d wide fun c s l => f (src s c l o.a o.ty.is64)
/-- The relations written to predicates or to a register (R338, R347): `n` of them. -/
def putRel (s : State) (c : Cursor) (l : Nat) (d : Opd) (r : Flags.Rel) (n : Nat) : State :=
  match d with
  | .p _ =>
    let s := dstP (dstP (dstP s c l d 0 r.eq) c l d 1 r.lt) c l d 2 r.gt
    if n = 4 then dstP s c l d 3 r.un else s
  | _ => dst s c l d false r.mask


/-- IADD (R346). -/
def execIadd (h : Hdr) (o : Bin) (s : State) : Host.Outcome State Fault Refusal :=
  bin2 (.iadd h o) h o (tyInt o.ty) (Alu.add (tw o.ty)) s

/-- IADD with an immediate (R346). -/
def execIaddImm (h : Hdr) (o : BinI) (s : State) : Host.Outcome State Fault Refusal :=
  bin2I (.iaddImm h o) h o (tyInt o.ty) (Alu.add (tw o.ty)) s

/-- ISUB (R346). -/
def execIsub (h : Hdr) (o : Bin) (s : State) : Host.Outcome State Fault Refusal :=
  bin2 (.isub h o) h o (tyInt o.ty) (Alu.sub (tw o.ty)) s

/-- ISUB with an immediate (R346). -/
def execIsubImm (h : Hdr) (o : BinI) (s : State) : Host.Outcome State Fault Refusal :=
  bin2I (.isubImm h o) h o (tyInt o.ty) (Alu.sub (tw o.ty)) s

/-- IMUL (R346). -/
def execImul (h : Hdr) (o : Bin) (s : State) : Host.Outcome State Fault Refusal :=
  bin2 (.imul h o) h o (tyInt o.ty) (Alu.mul (tw o.ty)) s

/-- IMUL with an immediate (R346). -/
def execImulImm (h : Hdr) (o : BinI) (s : State) : Host.Outcome State Fault Refusal :=
  bin2I (.imulImm h o) h o (tyInt o.ty) (Alu.mul (tw o.ty)) s

/-- IMAD (R346). -/
def execImad (h : Hdr) (o : Tri) (s : State) : Host.Outcome State Fault Refusal :=
  result (.imad h o) h s (tyInt o.ty) o.d o.ty.is64 fun c s l =>
    Alu.mad (tw o.ty) (src s c l o.a o.ty.is64) (src s c l o.b o.ty.is64) (src s c l o.c o.ty.is64)

/-- IMAD with an immediate (R346). -/
def execImadImm (h : Hdr) (o : TriI) (s : State) : Host.Outcome State Fault Refusal :=
  result (.imadImm h o) h s (tyInt o.ty) o.d o.ty.is64 fun c s l =>
    Alu.mad (tw o.ty) (src s c l o.a o.ty.is64) (src s c l o.b o.ty.is64) (Alu.widen o.ty o.imm)

/-- IMIN (R348). -/
def execImin (h : Hdr) (o : Bin) (s : State) : Host.Outcome State Fault Refusal :=
  bin2 (.imin h o) h o (tyInt o.ty) (Alu.min o.ty) s

/-- IMIN with an immediate (R348). -/
def execIminImm (h : Hdr) (o : BinI) (s : State) : Host.Outcome State Fault Refusal :=
  bin2I (.iminImm h o) h o (tyInt o.ty) (Alu.min o.ty) s

/-- IMAX (R348). -/
def execImax (h : Hdr) (o : Bin) (s : State) : Host.Outcome State Fault Refusal :=
  bin2 (.imax h o) h o (tyInt o.ty) (Alu.max o.ty) s

/-- IMAX with an immediate (R348). -/
def execImaxImm (h : Hdr) (o : BinI) (s : State) : Host.Outcome State Fault Refusal :=
  bin2I (.imaxImm h o) h o (tyInt o.ty) (Alu.max o.ty) s

/-- IABS (R345). -/
def execIabs (h : Hdr) (o : Un) (s : State) : Host.Outcome State Fault Refusal :=
  un1 (.iabs h o) h o (tySigned o.ty) (o.ty.is64) (Alu.abs (tw o.ty)) s

/-- AND (R315). -/
def execAnd (h : Hdr) (o : Bin) (s : State) : Host.Outcome State Fault Refusal :=
  bin2 (.and h o) h o (tyInt o.ty) (Nat.land) s

/-- AND with an immediate (R315). -/
def execAndImm (h : Hdr) (o : BinI) (s : State) : Host.Outcome State Fault Refusal :=
  bin2I (.andImm h o) h o (tyInt o.ty) (Nat.land) s

/-- OR (R362). -/
def execOr (h : Hdr) (o : Bin) (s : State) : Host.Outcome State Fault Refusal :=
  bin2 (.or h o) h o (tyInt o.ty) (Nat.lor) s

/-- OR with an immediate (R362). -/
def execOrImm (h : Hdr) (o : BinI) (s : State) : Host.Outcome State Fault Refusal :=
  bin2I (.orImm h o) h o (tyInt o.ty) (Nat.lor) s

/-- XOR (R406). -/
def execXor (h : Hdr) (o : Bin) (s : State) : Host.Outcome State Fault Refusal :=
  bin2 (.xor h o) h o (tyInt o.ty) (Nat.xor) s

/-- XOR with an immediate (R406). -/
def execXorImm (h : Hdr) (o : BinI) (s : State) : Host.Outcome State Fault Refusal :=
  bin2I (.xorImm h o) h o (tyInt o.ty) (Nat.xor) s

/-- NOT (R362). -/
def execNot (h : Hdr) (o : Un) (s : State) : Host.Outcome State Fault Refusal :=
  un1 (.not h o) h o (tyInt o.ty) (o.ty.is64) (Alu.not (tw o.ty)) s

/-- SHL (R377). -/
def execShl (h : Hdr) (o : Bin) (s : State) : Host.Outcome State Fault Refusal :=
  bin1 (.shl h o) h o (tyInt o.ty) (Alu.shl (tw o.ty)) s

/-- SHL with an immediate (R377). -/
def execShlImm (h : Hdr) (o : BinI) (s : State) : Host.Outcome State Fault Refusal :=
  bin1I (.shlImm h o) h o (tyInt o.ty) (Alu.shl (tw o.ty)) s

/-- SHR (R377). -/
def execShr (h : Hdr) (o : Bin) (s : State) : Host.Outcome State Fault Refusal :=
  bin1 (.shr h o) h o (tyInt o.ty) (Alu.shr o.ty (tw o.ty)) s

/-- SHR with an immediate (R377). -/
def execShrImm (h : Hdr) (o : BinI) (s : State) : Host.Outcome State Fault Refusal :=
  bin1I (.shrImm h o) h o (tyInt o.ty) (Alu.shr o.ty (tw o.ty)) s

/-- ROT (R373). -/
def execRot (h : Hdr) (o : Bin) (s : State) : Host.Outcome State Fault Refusal :=
  bin1 (.rot h o) h o (tyNat o.ty) (Alu.rot (tw o.ty)) s

/-- ROT with an immediate (R373). -/
def execRotImm (h : Hdr) (o : BinI) (s : State) : Host.Outcome State Fault Refusal :=
  bin1I (.rotImm h o) h o (tyNat o.ty) (Alu.rot (tw o.ty)) s

/-- BFX (R319). -/
def execBfx (h : Hdr) (o : Bin) (s : State) : Host.Outcome State Fault Refusal :=
  bin1 (.bfx h o) h o (tyInt o.ty) (Alu.bfx o.ty (tw o.ty)) s

/-- BFX with an immediate (R319). -/
def execBfxImm (h : Hdr) (o : BinI) (s : State) : Host.Outcome State Fault Refusal :=
  bin1I (.bfxImm h o) h o (tyInt o.ty) (Alu.bfx o.ty (tw o.ty)) s

/-- BFI (R318). -/
def execBfi (h : Hdr) (o : Tri) (s : State) : Host.Outcome State Fault Refusal :=
  result (.bfi h o) h s (tyInt o.ty) o.d o.ty.is64 fun c s l =>
    Alu.bfi (tw o.ty) (src s c l o.a o.ty.is64) (src s c l o.b o.ty.is64) (src s c l o.c false)

/-- BFI with an immediate (R318). -/
def execBfiImm (h : Hdr) (o : TriI) (s : State) : Host.Outcome State Fault Refusal :=
  result (.bfiImm h o) h s (tyInt o.ty) o.d o.ty.is64 fun c s l =>
    Alu.bfi (tw o.ty) (src s c l o.a o.ty.is64) (src s c l o.b o.ty.is64) o.imm.toNat

/-- POPC (R367). -/
def execPopc (h : Hdr) (o : Un) (s : State) : Host.Outcome State Fault Refusal :=
  un1 (.popc h o) h o (tyNat o.ty) (false) (Alu.popc (tw o.ty)) s

/-- CLZ (R326). -/
def execClz (h : Hdr) (o : Un) (s : State) : Host.Outcome State Fault Refusal :=
  un1 (.clz h o) h o (tyNat o.ty) (false) (Alu.clz (tw o.ty)) s

/-- BREV (R321). -/
def execBrev (h : Hdr) (o : Un) (s : State) : Host.Outcome State Fault Refusal :=
  un1 (.brev h o) h o (tyNat o.ty) (o.ty.is64) (Alu.brev (tw o.ty)) s

/-- ICMP (R347). -/
def execIcmp (h : Hdr) (o : Bin) (s : State) : Host.Outcome State Fault Refusal :=
  perLane (.icmp h o) h s fun c s l =>
    if tyInt o.ty then .ok (putRel s c l o.d (Flags.icmp o.ty (src s c l o.a o.ty.is64) (src s c l o.b o.ty.is64)) 3)
    else .trap 0x040 0

/-- ICMP with an immediate (R347). -/
def execIcmpImm (h : Hdr) (o : BinI) (s : State) : Host.Outcome State Fault Refusal :=
  perLane (.icmpImm h o) h s fun c s l =>
    if tyInt o.ty then .ok (putRel s c l o.d (Flags.icmp o.ty (src s c l o.a o.ty.is64) (Alu.widen o.ty o.imm)) 3)
    else .trap 0x040 0

/-- SEL (R375). -/
def execSel (h : Hdr) (o : Tri) (s : State) : Host.Outcome State Fault Refusal :=
  result (.sel h o) h s (tyMov o.ty) o.d o.ty.is64 fun c s l =>
    if srcP s c l o.a then src s c l o.b o.ty.is64 else src s c l o.c o.ty.is64

/-- SEL with an immediate (R375). -/
def execSelImm (h : Hdr) (o : TriI) (s : State) : Host.Outcome State Fault Refusal :=
  result (.selImm h o) h s (tyMov o.ty) o.d o.ty.is64 fun c s l =>
    if srcP s c l o.a then src s c l o.b o.ty.is64 else Alu.widen o.ty o.imm

/-- LEA (R356). -/
def execLea (h : Hdr) (o : Tri) (s : State) : Host.Outcome State Fault Refusal :=
  result (.lea h o) h s (tyInt o.ty) o.d o.ty.is64 fun c s l =>
    Alu.lea o.ty (tw o.ty) (src s c l o.a o.ty.is64) (src s c l o.b false) (src s c l o.c false)

/-- LEA with an immediate shift (R356). -/
def execLeaImm (h : Hdr) (o : TriI) (s : State) : Host.Outcome State Fault Refusal :=
  result (.leaImm h o) h s (tyInt o.ty) o.d o.ty.is64 fun c s l =>
    Alu.lea o.ty (tw o.ty) (src s c l o.a o.ty.is64) (src s c l o.b false) o.imm.toNat

/-- A value to a g, k or p destination; a predicate takes bit 0 (R358). -/
def movTo (s : State) (c : Cursor) (l : Nat) (d : Opd) (wide : Bool) (v : Nat) : State :=
  match d with
  | .p _ => dstP s c l d 0 (v % 2 == 1)
  | _ => dst s c l d wide v

/-- MOV (R358). -/
def execMov (h : Hdr) (o : Un) (s : State) : Host.Outcome State Fault Refusal :=
  perLane (.mov h o) h s fun c s l =>
    if tyMov o.ty then .ok (movTo s c l o.d o.ty.is64 (src s c l o.a o.ty.is64)) else .trap 0x040 0

/-- MOVI (R358). -/
def execMovi (h : Hdr) (o : MovImm) (s : State) : Host.Outcome State Fault Refusal :=
  perLane (.movi h o) h s fun c s l =>
    if tyMov o.ty then .ok (movTo s c l o.d o.ty.is64 (Alu.widen o.ty o.imm)) else .trap 0x040 0

/-- CVT (R329, R159): a floating format in either position raises 040h. -/
def execCvt (h : Hdr) (o : Conv) (s : State) : Host.Outcome State Fault Refusal :=
  result (.cvt h o) h s (!o.ty.isFloat && !o.sty.isFloat) o.d o.ty.is64 fun c s l =>
    Num.cvt o.ty o.sty o.sat (src s c l o.a o.sty.is64)

end Sys2Proof.Machine
end

