-- ==== Sys2Proof/Machine/Float.lean ====
section
/-! DEFINITION. The floating instructions (17_reference_d_l.md R334 to R339, R342, 16_reference_a_c.md R330,
19_reference_t_z.md R401). None raises an arithmetic trap (07_number_formats.md R152). -/
namespace Sys2Proof.Machine

/-- .f32, .f16 and .bf16. -/
def tyF (t : Fmt) : Bool := t == .f32 || t == .f16 || t == .bf16
/-- An FP32 pattern converted to the type (R334). -/
def fimm (t : Fmt) (imm : W32) : Nat := if t == .f32 then imm.toNat else Num.toFloat t false (Num.ofFloat .f32 imm.toNat)


/-- FADD (R336). -/
def execFadd (h : Hdr) (o : Bin) (s : State) : Host.Outcome State Fault Refusal :=
  result (.fadd h o) h s (tyF o.ty) o.d false fun c s l => Num.fadd o.ty (src s c l o.a false) (src s c l o.b false)

/-- FADD with an immediate (R336, R334). -/
def execFaddImm (h : Hdr) (o : BinI) (s : State) : Host.Outcome State Fault Refusal :=
  result (.faddImm h o) h s (tyF o.ty) o.d false fun c s l => Num.fadd o.ty (src s c l o.a false) (fimm o.ty o.imm)

/-- FSUB (R336). -/
def execFsub (h : Hdr) (o : Bin) (s : State) : Host.Outcome State Fault Refusal :=
  result (.fsub h o) h s (tyF o.ty) o.d false fun c s l => Num.fsub o.ty (src s c l o.a false) (src s c l o.b false)

/-- FSUB with an immediate (R336, R334). -/
def execFsubImm (h : Hdr) (o : BinI) (s : State) : Host.Outcome State Fault Refusal :=
  result (.fsubImm h o) h s (tyF o.ty) o.d false fun c s l => Num.fsub o.ty (src s c l o.a false) (fimm o.ty o.imm)

/-- FMUL (R336). -/
def execFmul (h : Hdr) (o : Bin) (s : State) : Host.Outcome State Fault Refusal :=
  result (.fmul h o) h s (tyF o.ty) o.d false fun c s l => Num.fmul o.ty (src s c l o.a false) (src s c l o.b false)

/-- FMUL with an immediate (R336, R334). -/
def execFmulImm (h : Hdr) (o : BinI) (s : State) : Host.Outcome State Fault Refusal :=
  result (.fmulImm h o) h s (tyF o.ty) o.d false fun c s l => Num.fmul o.ty (src s c l o.a false) (fimm o.ty o.imm)

/-- FFMA (R336). -/
def execFfma (h : Hdr) (o : Tri) (s : State) : Host.Outcome State Fault Refusal :=
  result (.ffma h o) h s (tyF o.ty) o.d false fun c s l =>
    Num.ffma o.ty (src s c l o.a false) (src s c l o.b false) (src s c l o.c false)

/-- FFMA with an immediate (R336, R334). -/
def execFfmaImm (h : Hdr) (o : TriI) (s : State) : Host.Outcome State Fault Refusal :=
  result (.ffmaImm h o) h s (tyF o.ty) o.d false fun c s l =>
    Num.ffma o.ty (src s c l o.a false) (src s c l o.b false) (fimm o.ty o.imm)

/-- FMIN (R342). -/
def execFmin (h : Hdr) (o : Bin) (s : State) : Host.Outcome State Fault Refusal :=
  result (.fmin h o) h s (tyF o.ty) o.d false fun c s l => Num.fmin o.ty (src s c l o.a false) (src s c l o.b false)

/-- FMIN with an immediate (R342, R334). -/
def execFminImm (h : Hdr) (o : BinI) (s : State) : Host.Outcome State Fault Refusal :=
  result (.fminImm h o) h s (tyF o.ty) o.d false fun c s l => Num.fmin o.ty (src s c l o.a false) (fimm o.ty o.imm)

/-- FMAX (R342). -/
def execFmax (h : Hdr) (o : Bin) (s : State) : Host.Outcome State Fault Refusal :=
  result (.fmax h o) h s (tyF o.ty) o.d false fun c s l => Num.fmax o.ty (src s c l o.a false) (src s c l o.b false)

/-- FMAX with an immediate (R342, R334). -/
def execFmaxImm (h : Hdr) (o : BinI) (s : State) : Host.Outcome State Fault Refusal :=
  result (.fmaxImm h o) h s (tyF o.ty) o.d false fun c s l => Num.fmax o.ty (src s c l o.a false) (fimm o.ty o.imm)

/-- FABS (R335). -/
def execFabs (h : Hdr) (o : Un) (s : State) : Host.Outcome State Fault Refusal :=
  result (.fabs h o) h s (tyF o.ty) o.d false fun c s l => Num.fabs o.ty (src s c l o.a false)

/-- FNEG (R335). -/
def execFneg (h : Hdr) (o : Un) (s : State) : Host.Outcome State Fault Refusal :=
  result (.fneg h o) h s (tyF o.ty) o.d false fun c s l => Num.fneg o.ty (src s c l o.a false)

/-- FCMP (R338). -/
def execFcmp (h : Hdr) (o : Bin) (s : State) : Host.Outcome State Fault Refusal :=
  perLane (.fcmp h o) h s fun c s l =>
    if tyF o.ty then .ok (putRel s c l o.d (Flags.fcmp o.ty (src s c l o.a false) (src s c l o.b false)) 4) else .trap 0x040 0

/-- FCMP with an immediate (R338). -/
def execFcmpImm (h : Hdr) (o : BinI) (s : State) : Host.Outcome State Fault Refusal :=
  perLane (.fcmpImm h o) h s fun c s l =>
    if tyF o.ty then .ok (putRel s c l o.d (Flags.fcmp o.ty (src s c l o.a false) (fimm o.ty o.imm)) 4) else .trap 0x040 0

/-- FCLASS (R337). -/
def execFclass (h : Hdr) (o : Un) (s : State) : Host.Outcome State Fault Refusal :=
  result (.fclass h o) h s (o.ty.isFloat) o.d false fun c s l => 2 ^ Num.fclassBit o.ty (src s c l o.a false)

/-- CVTF (R330, R155 to R158): a pair with no floating format raises 040h. -/
def execCvtf (h : Hdr) (o : Conv) (s : State) : Host.Outcome State Fault Refusal :=
  result (.cvtf h o) h s (o.ty.isFloat || o.sty.isFloat) o.d o.ty.is64 fun c s l =>
    Num.cvtf o.ty o.sty o.sat (src s c l o.a o.sty.is64)

/-- FRCP (R339). -/
def execFrcp (h : Hdr) (o : Un) (s : State) : Host.Outcome State Fault Refusal :=
  result (.frcp h o) h s (o.ty == .f32) o.d false fun c s l => Approx.frcp (src s c l o.a false)

/-- FRSQ (R339). -/
def execFrsq (h : Hdr) (o : Un) (s : State) : Host.Outcome State Fault Refusal :=
  result (.frsq h o) h s (o.ty == .f32) o.d false fun c s l => Approx.frsq (src s c l o.a false)

/-- FSQRT (R339). -/
def execFsqrt (h : Hdr) (o : Un) (s : State) : Host.Outcome State Fault Refusal :=
  result (.fsqrt h o) h s (o.ty == .f32) o.d false fun c s l => Num.fsqrt (src s c l o.a false)

/-- FEXP2 (R339). -/
def execFexp2 (h : Hdr) (o : Un) (s : State) : Host.Outcome State Fault Refusal :=
  result (.fexp2 h o) h s (o.ty == .f32) o.d false fun c s l => Approx.fexp2 (src s c l o.a false)

/-- FLOG2 (R339). -/
def execFlog2 (h : Hdr) (o : Un) (s : State) : Host.Outcome State Fault Refusal :=
  result (.flog2 h o) h s (o.ty == .f32) o.d false fun c s l => Approx.flog2 (src s c l o.a false)

/-- FSIN (R339). -/
def execFsin (h : Hdr) (o : Un) (s : State) : Host.Outcome State Fault Refusal :=
  result (.fsin h o) h s (o.ty == .f32) o.d false fun c s l => Approx.fsin (src s c l o.a false)

/-- FCOS (R339). -/
def execFcos (h : Hdr) (o : Un) (s : State) : Host.Outcome State Fault Refusal :=
  result (.fcos h o) h s (o.ty == .f32) o.d false fun c s l => Approx.fcos (src s c l o.a false)

/-- VADD2 (R401). -/
def execVadd2 (h : Hdr) (o : Bin) (s : State) : Host.Outcome State Fault Refusal :=
  result (.vadd2 h o) h s (o.ty == .f16 || o.ty == .bf16) o.d false fun c s l =>
    Num.packed (fun a b _ => Num.fadd o.ty a b) (src s c l o.a false) (src s c l o.b false) 0

/-- VMUL2 (R401). -/
def execVmul2 (h : Hdr) (o : Bin) (s : State) : Host.Outcome State Fault Refusal :=
  result (.vmul2 h o) h s (o.ty == .f16 || o.ty == .bf16) o.d false fun c s l =>
    Num.packed (fun a b _ => Num.fmul o.ty a b) (src s c l o.a false) (src s c l o.b false) 0

/-- VFMA2 (R401). -/
def execVfma2 (h : Hdr) (o : Tri) (s : State) : Host.Outcome State Fault Refusal :=
  result (.vfma2 h o) h s (o.ty == .f16 || o.ty == .bf16) o.d false fun c s l =>
    Num.packed (Num.ffma o.ty) (src s c l o.a false) (src s c l o.b false) (src s c l o.c false)

end Sys2Proof.Machine
end

