-- ==== Sys2Proof/Machine/Dispatch.lean ====
section
/-! DEFINITION. The dispatch of every step to its meaning: one arm per constructor of `Instr`. -/
namespace Sys2Proof.Machine

def exec (i : Instr) (s : State) : Host.Outcome State Fault Refusal :=
  match i with
  | .iadd h o => Sys2Proof.Machine.execIadd h o s
  | .iaddImm h o => Sys2Proof.Machine.execIaddImm h o s
  | .isub h o => Sys2Proof.Machine.execIsub h o s
  | .isubImm h o => Sys2Proof.Machine.execIsubImm h o s
  | .imul h o => Sys2Proof.Machine.execImul h o s
  | .imulImm h o => Sys2Proof.Machine.execImulImm h o s
  | .imad h o => Sys2Proof.Machine.execImad h o s
  | .imadImm h o => Sys2Proof.Machine.execImadImm h o s
  | .imin h o => Sys2Proof.Machine.execImin h o s
  | .iminImm h o => Sys2Proof.Machine.execIminImm h o s
  | .imax h o => Sys2Proof.Machine.execImax h o s
  | .imaxImm h o => Sys2Proof.Machine.execImaxImm h o s
  | .iabs h o => Sys2Proof.Machine.execIabs h o s
  | .and h o => Sys2Proof.Machine.execAnd h o s
  | .andImm h o => Sys2Proof.Machine.execAndImm h o s
  | .or h o => Sys2Proof.Machine.execOr h o s
  | .orImm h o => Sys2Proof.Machine.execOrImm h o s
  | .xor h o => Sys2Proof.Machine.execXor h o s
  | .xorImm h o => Sys2Proof.Machine.execXorImm h o s
  | .not h o => Sys2Proof.Machine.execNot h o s
  | .shl h o => Sys2Proof.Machine.execShl h o s
  | .shlImm h o => Sys2Proof.Machine.execShlImm h o s
  | .shr h o => Sys2Proof.Machine.execShr h o s
  | .shrImm h o => Sys2Proof.Machine.execShrImm h o s
  | .rot h o => Sys2Proof.Machine.execRot h o s
  | .rotImm h o => Sys2Proof.Machine.execRotImm h o s
  | .bfx h o => Sys2Proof.Machine.execBfx h o s
  | .bfxImm h o => Sys2Proof.Machine.execBfxImm h o s
  | .bfi h o => Sys2Proof.Machine.execBfi h o s
  | .bfiImm h o => Sys2Proof.Machine.execBfiImm h o s
  | .popc h o => Sys2Proof.Machine.execPopc h o s
  | .clz h o => Sys2Proof.Machine.execClz h o s
  | .brev h o => Sys2Proof.Machine.execBrev h o s
  | .icmp h o => Sys2Proof.Machine.execIcmp h o s
  | .icmpImm h o => Sys2Proof.Machine.execIcmpImm h o s
  | .sel h o => Sys2Proof.Machine.execSel h o s
  | .selImm h o => Sys2Proof.Machine.execSelImm h o s
  | .lea h o => Sys2Proof.Machine.execLea h o s
  | .leaImm h o => Sys2Proof.Machine.execLeaImm h o s
  | .mov h o => Sys2Proof.Machine.execMov h o s
  | .movi h o => Sys2Proof.Machine.execMovi h o s
  | .cvt h o => Sys2Proof.Machine.execCvt h o s
  | .fadd h o => Sys2Proof.Machine.execFadd h o s
  | .faddImm h o => Sys2Proof.Machine.execFaddImm h o s
  | .fsub h o => Sys2Proof.Machine.execFsub h o s
  | .fsubImm h o => Sys2Proof.Machine.execFsubImm h o s
  | .fmul h o => Sys2Proof.Machine.execFmul h o s
  | .fmulImm h o => Sys2Proof.Machine.execFmulImm h o s
  | .ffma h o => Sys2Proof.Machine.execFfma h o s
  | .ffmaImm h o => Sys2Proof.Machine.execFfmaImm h o s
  | .fmin h o => Sys2Proof.Machine.execFmin h o s
  | .fminImm h o => Sys2Proof.Machine.execFminImm h o s
  | .fmax h o => Sys2Proof.Machine.execFmax h o s
  | .fmaxImm h o => Sys2Proof.Machine.execFmaxImm h o s
  | .fabs h o => Sys2Proof.Machine.execFabs h o s
  | .fneg h o => Sys2Proof.Machine.execFneg h o s
  | .fcmp h o => Sys2Proof.Machine.execFcmp h o s
  | .fcmpImm h o => Sys2Proof.Machine.execFcmpImm h o s
  | .fclass h o => Sys2Proof.Machine.execFclass h o s
  | .cvtf h o => Sys2Proof.Machine.execCvtf h o s
  | .frcp h o => Sys2Proof.Machine.execFrcp h o s
  | .frsq h o => Sys2Proof.Machine.execFrsq h o s
  | .fsqrt h o => Sys2Proof.Machine.execFsqrt h o s
  | .fexp2 h o => Sys2Proof.Machine.execFexp2 h o s
  | .flog2 h o => Sys2Proof.Machine.execFlog2 h o s
  | .fsin h o => Sys2Proof.Machine.execFsin h o s
  | .fcos h o => Sys2Proof.Machine.execFcos h o s
  | .vadd2 h o => Sys2Proof.Machine.execVadd2 h o s
  | .vmul2 h o => Sys2Proof.Machine.execVmul2 h o s
  | .vfma2 h o => Sys2Proof.Machine.execVfma2 h o s
  | .plop h o => Sys2Proof.Machine.execPlop h o s
  | .pblk h o => Sys2Proof.Machine.execPblk h o s
  | .bra h off => Sys2Proof.Machine.execBra h off s
  | .jmpr h a => Sys2Proof.Machine.execJmpr h a s
  | .call h off => Sys2Proof.Machine.execCall h off s
  | .callr h a => Sys2Proof.Machine.execCallr h a s
  | .ret h => Sys2Proof.Machine.execRet h s
  | .exit h => Sys2Proof.Machine.execExit h s
  | .yield h => Sys2Proof.Machine.execYield h s
  | .wsync h c => Sys2Proof.Machine.execWsync h c s
  | .nop h => Sys2Proof.Machine.execNop h s
  | .swt h a n => Sys2Proof.Machine.execSwt h a n s
  | .tret h nx => Sys2Proof.Machine.execTret h nx s
  | .rgn h => Sys2Proof.Machine.execRgn h s
  | .brk h imm => Sys2Proof.Machine.execBrk h imm s
  | .vote h o => Sys2Proof.Machine.execVote h o s
  | .shfl h o => Sys2Proof.Machine.execShfl h o s
  | .wred h o => Sys2Proof.Machine.execWred h o s
  | .wscan h o => Sys2Proof.Machine.execWscan h o s
  | .ld h o => Sys2Proof.Machine.execLd h o s
  | .st h o => Sys2Proof.Machine.execSt h o s
  | .ldq h o => Sys2Proof.Machine.execLdq h o s
  | .stq h o => Sys2Proof.Machine.execStq h o s
  | .ldacq h o => Sys2Proof.Machine.execLdacq h o s
  | .strel h o => Sys2Proof.Machine.execStrel h o s
  | .pref h o => Sys2Proof.Machine.execPref h o s
  | .flush h o => Sys2Proof.Machine.execFlush h o s
  | .inval h o => Sys2Proof.Machine.execInval h o s
  | .atom h o => Sys2Proof.Machine.execAtom h o s
  | .acas h o => Sys2Proof.Machine.execAcas h o s
  | .red h o => Sys2Proof.Machine.execRed h o s
  | .fence h ord sc => Sys2Proof.Machine.execFence h ord sc s
  | .marm h o => Sys2Proof.Machine.execMarm h o s
  | .mwait h d => Sys2Proof.Machine.execMwait h d s
  | .bar h => Sys2Proof.Machine.execBar h s
  | .nbar h o => Sys2Proof.Machine.execNbar h o s
  | .ssb h => Sys2Proof.Machine.execSsb h s
  | .pinw h o => Sys2Proof.Machine.execPinw h o s
  | .unpinw h o => Sys2Proof.Machine.execUnpinw h o s
  | .thopen h o => Sys2Proof.Machine.execThopen h o s
  | .tenr h o => Sys2Proof.Machine.execTenr h o s
  | .trel h sc a => Sys2Proof.Machine.execTrel h sc a s
  | .tsplit h o => Sys2Proof.Machine.execTsplit h o s
  | .thclose h sc a => Sys2Proof.Machine.execThclose h sc a s
  | .ttest h d a => Sys2Proof.Machine.execTtest h d a s
  | .tidset h tx a => Sys2Proof.Machine.execTidset h tx a s
  | .tidget h tx a => Sys2Proof.Machine.execTidget h tx a s
  | .scaleb h tx a => Sys2Proof.Machine.execScaleb h tx a s
  | .mrsv h d => Sys2Proof.Machine.execMrsv h d s
  | .mrel h => Sys2Proof.Machine.execMrel h s
  | .tmma h o => Sys2Proof.Machine.execTmma h o s
  | .tldacc h o => Sys2Proof.Machine.execTldacc h o s
  | .tstacc h o => Sys2Proof.Machine.execTstacc h o s
  | .tzacc h d => Sys2Proof.Machine.execTzacc h d s
  | .tcvt h o => Sys2Proof.Machine.execTcvt h o s
  | .ttask h d a => Sys2Proof.Machine.execTtask h d a s
  | .twaitk h d a => Sys2Proof.Machine.execTwaitk h d a s
  | .rgrow h d imm => Sys2Proof.Machine.execRgrow h d imm s
  | .rshrink h d imm => Sys2Proof.Machine.execRshrink h d imm s
  | .spawn h d a off => Sys2Proof.Machine.execSpawn h d a off s
  | .joindec h d a off => Sys2Proof.Machine.execJoindec h d a off s
  | .launch h d a off => Sys2Proof.Machine.execLaunch h d a off s
  | .acopy h o => Sys2Proof.Machine.execAcopy h o s
  | .acopyt h o => Sys2Proof.Machine.execAcopyt h o s
  | .acopyr h o => Sys2Proof.Machine.execAcopyr h o s
  | .cmwait h o => Sys2Proof.Machine.execCmwait h o s
  | .cmtest h o => Sys2Proof.Machine.execCmtest h o s
  | .csend h d a b => Sys2Proof.Machine.execCsend h d a b s
  | .crecv h d a b => Sys2Proof.Machine.execCrecv h d a b s
  | .cpoll h rcv d a => Sys2Proof.Machine.execCpoll h rcv d a s
  | .hlred h d a => Sys2Proof.Machine.execHlred h d a s
  | .hlgath h d a => Sys2Proof.Machine.execHlgath h d a s
  | .hlrot h d a => Sys2Proof.Machine.execHlrot h d a s
  | .hlwait h d a => Sys2Proof.Machine.execHlwait h d a s
  | .hlstat h d a => Sys2Proof.Machine.execHlstat h d a s
  | .pnsend h n wake d a b => Sys2Proof.Machine.execPnsend h n wake d a b s
  | .pnmask h d a => Sys2Proof.Machine.execPnmask h d a s
  | .pnpend h sel d => Sys2Proof.Machine.execPnpend h sel d s
  | .pnack h d n => Sys2Proof.Machine.execPnack h d n s
  | .pnret h => Sys2Proof.Machine.execPnret h s
  | .pnwait h d a => Sys2Proof.Machine.execPnwait h d a s
  | .srd h o => Sys2Proof.Machine.execSrd h o s
  | .swr h o => Sys2Proof.Machine.execSwr h o s
  | .svc h imm => Sys2Proof.Machine.execSvc h imm s
  | .sret h => Sys2Proof.Machine.execSret h s
  | .tlbi h mode a b => Sys2Proof.Machine.execTlbi h mode a b s
  | .dcap h op d a b c => Sys2Proof.Machine.execDcap h op d a b c s
  | .trig h imm => Sys2Proof.Machine.execTrig h imm s
  | .faultRecordRetry die => Sys2Proof.Machine.execFaultRecordRetry die s
  | .barrierDeadlock gid => Sys2Proof.Machine.execBarrierDeadlock gid s
  | .memberWaitComplete w lane => Sys2Proof.Machine.execMemberWaitComplete w lane s
  | .watchEvent core block => Sys2Proof.Machine.execWatchEvent core block s
  | .mwaitWake w lane => Sys2Proof.Machine.execMwaitWake w lane s
  | .mwaitTimeout w lane => Sys2Proof.Machine.execMwaitTimeout w lane s
  | .groupExit gid => Sys2Proof.Machine.execGroupExit gid s
  | .exitComplete w lane => Sys2Proof.Machine.execExitComplete w lane s
  | .instructionComplete w lane => Sys2Proof.Machine.execInstructionComplete w lane s
  | .issueVote core quad => Sys2Proof.Machine.execIssueVote core quad s
  | .rgrowGrant core => Sys2Proof.Machine.execRgrowGrant core s
  | .rgrowDeadlock core => Sys2Proof.Machine.execRgrowDeadlock core s
  | .schedulerGrant die => Sys2Proof.Machine.execSchedulerGrant die s
  | .queueAging die => Sys2Proof.Machine.execQueueAging die s
  | .devicePushRetry die => Sys2Proof.Machine.execDevicePushRetry die s
  | .expanderEmit die => Sys2Proof.Machine.execExpanderEmit die s
  | .hostSnoop kind line => Sys2Proof.Machine.execHostSnoop kind line s
  | .queueAgentPackets hq => Sys2Proof.Machine.execQueueAgentPackets hq s
  | .hostRequestNotReady config tag => Sys2Proof.Machine.execHostRequestNotReady config tag s
  | .hostConfigRequest write reg val tag => Sys2Proof.Machine.execHostConfigRequest write reg val tag s
  | .cxlUnsupportedRequest tag => Sys2Proof.Machine.execCxlUnsupportedRequest tag s
  | .bar0BadAccess off len tag => Sys2Proof.Machine.execBar0BadAccess off len tag s
  | .registerWrite off eight val => Sys2Proof.Machine.execRegisterWrite off eight val s
  | .ctxCreate id => Sys2Proof.Machine.execCtxCreate id s
  | .ctxDestroy id => Sys2Proof.Machine.execCtxDestroy id s
  | .preemptContext ctx => Sys2Proof.Machine.execPreemptContext ctx s
  | .preemptCore core => Sys2Proof.Machine.execPreemptCore core s
  | .preemptSuspend ctx => Sys2Proof.Machine.execPreemptSuspend ctx s
  | .ctxresume ctx => Sys2Proof.Machine.execCtxresume ctx s
  | .heldListPushRetry ctx => Sys2Proof.Machine.execHeldListPushRetry ctx s
  | .drainWindowExpiry gid => Sys2Proof.Machine.execDrainWindowExpiry gid s
  | .saveComplete gid => Sys2Proof.Machine.execSaveComplete gid s
  | .fltdoneRetry die seq => Sys2Proof.Machine.execFltdoneRetry die seq s
  | .fltdoneSkip die seq => Sys2Proof.Machine.execFltdoneSkip die seq s
  | .fltdoneDeliver die seq => Sys2Proof.Machine.execFltdoneDeliver die seq s
  | .fltdoneKill die seq => Sys2Proof.Machine.execFltdoneKill die seq s
  | .pwrctlGo step => Sys2Proof.Machine.execPwrctlGo step s
  | .thermalTrip die => Sys2Proof.Machine.execThermalTrip die s
  | .attreq addr => Sys2Proof.Machine.execAttreq addr s
  | .gateCrossing gate => Sys2Proof.Machine.execGateCrossing gate s
  | .arrivalApply gate => Sys2Proof.Machine.execArrivalApply gate s
  | .replayInject gate => Sys2Proof.Machine.execReplayInject gate s
  | .dbghaltHalt core all ctx => Sys2Proof.Machine.execDbghaltHalt core all ctx s
  | .dbghaltResume core all ctx => Sys2Proof.Machine.execDbghaltResume core all ctx s
  | .dbghaltStep core all ctx => Sys2Proof.Machine.execDbghaltStep core all ctx s
  | .traceCycleTrigger die => Sys2Proof.Machine.execTraceCycleTrigger die s
  | .traceCaptureEnd die => Sys2Proof.Machine.execTraceCaptureEnd die s
  | .l1DrainTimeout core => Sys2Proof.Machine.execL1DrainTimeout core s
  | .leaseExpiry core => Sys2Proof.Machine.execLeaseExpiry core s
  | .drainRequest core => Sys2Proof.Machine.execDrainRequest core s
  | .drainAck core => Sys2Proof.Machine.execDrainAck core s
  | .forwardedWriteApply die => Sys2Proof.Machine.execForwardedWriteApply die s
  | .epochMarker die home => Sys2Proof.Machine.execEpochMarker die home s
  | .ownershipRecall block => Sys2Proof.Machine.execOwnershipRecall block s
  | .ownershipGrant block => Sys2Proof.Machine.execOwnershipGrant block s
  | .retentionAging die => Sys2Proof.Machine.execRetentionAging die s
  | .softErrorScrub line => Sys2Proof.Machine.execSoftErrorScrub line s
  | .pageWalkComplete die => Sys2Proof.Machine.execPageWalkComplete die s
  | .tenureGrant die => Sys2Proof.Machine.execTenureGrant die s
  | .tenureDrainAck die => Sys2Proof.Machine.execTenureDrainAck die s
  | .spillRetry die => Sys2Proof.Machine.execSpillRetry die s
  | .engineStep core => Sys2Proof.Machine.execEngineStep core s
  | .copyChunkComplete core => Sys2Proof.Machine.execCopyChunkComplete core s
  | .channelResume w lane => Sys2Proof.Machine.execChannelResume w lane s
  | .linkUp port versions lanes => Sys2Proof.Machine.execLinkUp port versions lanes s
  | .linkDown port => Sys2Proof.Machine.execLinkDown port s
  | .flitRetry flit => Sys2Proof.Machine.execFlitRetry flit s
  | .collectiveChunkArrival m => Sys2Proof.Machine.execCollectiveChunkArrival m s
  | .chunkAckTimeout die => Sys2Proof.Machine.execChunkAckTimeout die s
  | .predecessorTimeout die => Sys2Proof.Machine.execPredecessorTimeout die s
  | .timeAlignRequest port t1 => Sys2Proof.Machine.execTimeAlignRequest port t1 s
  | .timeAlignReply t1 t2 t3 => Sys2Proof.Machine.execTimeAlignReply t1 t2 t3 s
  | .pennantSendArrival die => Sys2Proof.Machine.execPennantSendArrival die s
  | .pennantFabricMessage port m => Sys2Proof.Machine.execPennantFabricMessage port m s
  | .pennantNoAnswer die => Sys2Proof.Machine.execPennantNoAnswer die s
  | .pennantDiversion gid => Sys2Proof.Machine.execPennantDiversion gid s
  | .pnsendSettle w lane => Sys2Proof.Machine.execPnsendSettle w lane s
  | .stallWake w lane => Sys2Proof.Machine.execStallWake w lane s
  | .hqEnable n => Sys2Proof.Machine.execHqEnable n s
  | .msixVectorUnmask n => Sys2Proof.Machine.execMsixVectorUnmask n s
  | .collectiveChunkAck port collid ordinal seq => Sys2Proof.Machine.execCollectiveChunkAck port collid ordinal seq s
  | .hostLinkTraining width terms => Sys2Proof.Machine.execHostLinkTraining width terms s
  | .powerStepEffect => Sys2Proof.Machine.execPowerStepEffect s
  | .attestationComplete => Sys2Proof.Machine.execAttestationComplete s
  | .bootVerifyComplete => Sys2Proof.Machine.execBootVerifyComplete s
  | .powerOn => Sys2Proof.Machine.execPowerOn s
  | .startupStep => Sys2Proof.Machine.execStartupStep s
  | .packageReset => Sys2Proof.Machine.execPackageReset s
  | .resetRelease => Sys2Proof.Machine.execResetRelease s
  | .refreshTick => Sys2Proof.Machine.execRefreshTick s
  | .replayEnd => Sys2Proof.Machine.execReplayEnd s
  | .slackWaterStop => Sys2Proof.Machine.execSlackWaterStop s
  | .imageWriteComplete => Sys2Proof.Machine.execImageWriteComplete s
  | .swctlRestore => Sys2Proof.Machine.execSwctlRestore s
  | .restoreComplete => Sys2Proof.Machine.execRestoreComplete s
  | .triggerEffect => Sys2Proof.Machine.execTriggerEffect s
  | .tideLatch => Sys2Proof.Machine.execTideLatch s
  | .storeAck => Sys2Proof.Machine.execStoreAck s
  | .timeAlignExchange => Sys2Proof.Machine.execTimeAlignExchange s
  | .powerLoss => Sys2Proof.Machine.execPowerLoss s

end Sys2Proof.Machine
end

