-- ==== Sys2Proof/Machine/Step.lean ====
section
/-! DEFINITION. One step of the machine, and the placing of one instruction where the next step fetches. -/
namespace Sys2Proof.Machine

/-- One step: a latched path fetches and executes its instruction; else the next event due in this cycle takes place; else the
next cycle begins. -/
def step (s : State) : Host.Outcome State Fault Refusal :=
  match s.issue with
  | q :: qs =>
    match fetchPath { s with issue := qs } q with
    | (s', some i) => exec i s'
    | (s', none) => done s'
  | [] =>
    match s.agenda with
    | i :: is => exec i { s with agenda := is }
    | [] => done (newCycle s)

/-- The state with the instruction whose bits are w where the next step fetches (log 6): page tables, a context, a launch, a
resident group of one warp, and the issue of its path. -/
def State.withFetchWord (s : State) (nbits w : Nat) : State := placeWord s (w % 2 ^ nbits)

end Sys2Proof.Machine
end

