-- ==== Sys2Proof/Safety.lean ====
section
/-! DEFINITION. What counts as a safe run, and the terms in which claims speak of it: a path about to execute an instruction in the
normal way, and what such an execution leaves of the path's warp and of everything else. -/
namespace Sys2Proof

/-- A step answers a next state. -/
def goesOn (s : Machine.State) : Prop := ∃ t, Machine.step s = .next t

/-- A state is safe: memory is in canonical form and no device structure has been found at an address that does not exist
(04_memory_hierarchy.md R90). -/
def safe (s : Machine.State) : Prop := s.mem.wf = true ∧ s.stop = none

/-- One step of a safe run. -/
def safeStep (s t : Machine.State) : Prop := safe s ∧ Machine.step s = .next t ∧ safe t

/-- States that safe steps reach from a state. -/
inductive SafeRun : Machine.State → Machine.State → Prop where
  | here (s : Machine.State) : SafeRun s s
  | there (s t u : Machine.State) : SafeRun s t → safeStep t u → SafeRun s u

namespace Machine

/-- The path of the cursor `c`, in the warp `x`, executes `i` in the normal way: its threads run (02_execution_model.md R40), the
registers that `i` names lie in the warp's allocation and no special register is its destination (15_instruction_formats.md R290 steps
10 and 11), no damage (11_traps_and_preemption.md R229) and no single step (18_reference_m_s.md R380) stands in its way. -/
structure Ready (s : State) (i : Instr) (c : Cursor) (x : Warp) : Prop where
  goes : s.stop = none
  cur : s.cur = some c
  warp : warpAt s c.w = some x
  running : ∀ l ∈ lanesOf c.lanes, (x.thr l).st = .running
  regs : operandTrap (Instr.uses i) x.alloc = none
  sound : s.ms.damage = []
  stepless : ∀ l ∈ lanesOf c.lanes, (x.thr l).sstep = false
  settled : s.branched = []

/-- The state once the instruction has issued, with the executing threads in the cursor; the operands are read in it. -/
def issuedState (s : State) (c : Cursor) (h : Hdr) : State :=
  { issuePath s c h with cur := some (actAs s c (activeLanes s c h)), freeCtr := s.freeCtr + 1 }

/-- The value of a source operand of one register or, with `wide`, a pair, in lane `l` of the path. -/
def operand (s : State) (c : Cursor) (h : Hdr) (l : Nat) (o : Opd) (wide : Bool) : Nat :=
  src (issuedState s c h) (actAs s c (activeLanes s c h)) l o wide

/-- The value of a predicate source in lane `l`. -/
def operandP (s : State) (c : Cursor) (h : Hdr) (l : Nat) (o : Opd) : Bool :=
  srcP (issuedState s c h) (actAs s c (activeLanes s c h)) l o

/-- A thread that has executed the instruction in cycle `now`: a read of s.cycle keeps the high half of the count (02_execution_model.md R35),
and one of the long-latency class has its destinations awaited for `n` cycles (15_instruction_formats.md R292). -/
def late (i : Instr) (h : Hdr) (now n : Nat) (t : Thread) : Thread :=
  let t := if readsS (Instr.uses i) .cycle then { t with cych := some (w32 (t.issued.getD now / 2 ^ 32)) } else t
  if i.portB then t else { t with pend := t.pend ++ [{ regs := Instr.dests i, left := h.la.toNat, due := now + n }] }

/-- The same, the duration being free (log 4), but that an access to scratch takes the cycles of its banks too (04_memory_hierarchy.md R100). -/
def executed (s : State) (h : Hdr) (i : Instr) (t : Thread) : Thread := late i h s.cycle (latency s i h) t

/-- A thread whose general-register destination has been written; another destination leaves it alone. -/
def wrote (d : Opd) (wide : Bool) (v : Nat) (t : Thread) : Thread :=
  match d with
  | .g n => if wide then (t.setReg n.val (w32 v)).setReg (n.val + 1) (w32 (v / 2 ^ 32)) else t.setReg n.val (w32 v)
  | _ => t

/-- The k registers of a warp, whose destination `d` took the value of the lowest executing lane (02_execution_model.md R37). -/
def wroteK (d : Opd) (wide : Bool) (vals : List Nat) (k : Vector W32 64) : Vector W32 64 :=
  match d, vals with
  | .k n, v :: _ =>
    if wide then (k.setIfInBounds n.val (w32 v)).setIfInBounds (n.val + 1) (w32 (v / 2 ^ 32)) else k.setIfInBounds n.val (w32 v)
  | _, _ => k

/-- A thread whose predicate destination has been written, `j` places after the one named. -/
def wroteP (d : Opd) (j : Nat) (v : Bool) (t : Thread) : Thread :=
  match d with
  | .p n => t.setPred (n.val + j) v
  | _ => t

/-- What a normal execution leaves: nothing changes but the warp of the path (and the model's cursor and free counter), in that warp
nothing but its k registers, which become `ks`, and the threads of the path; a thread whose guard or block holds it back has only
issued, and one that executes is changed by `eff` after it has issued. -/
def Executes (s : State) (h : Hdr) (c : Cursor) (x : Warp) (ks : Vector W32 64) (eff : Nat → Thread → Thread)
    (t : State) : Prop :=
  ∃ x', warpAt t c.w = some x' ∧
    t = { s with warps := t.warps, cur := t.cur, freeCtr := s.freeCtr + 1 } ∧
    (∀ k, k ≠ wIdx c.w → t.warps.get? k = s.warps.get? k) ∧
    { x' with th := x.th } = { x with k := ks } ∧
    ∀ l, l < 32 → x'.thr l =
      if hasLane c.lanes l then
        if (activeLanes s c h).contains l then eff l ((x.thr l).issue c h.yh) else (x.thr l).issue c h.yh
      else x.thr l

/-- The instruction completes and writes `val` of each executing lane to its register destination, and nothing else changes. -/
def WritesReg (s : State) (i : Instr) (h : Hdr) (c : Cursor) (x : Warp) (d : Opd) (wide : Bool) (val : Nat → Nat) : Prop :=
  ∃ t, exec i s = .next t ∧
    Executes s h c x (wroteK d wide ((activeLanes s c h).map val) x.k) (fun l th => executed s h i (wrote d wide (val l) th)) t

/-- The path of a ready instruction executes it in one thread alone, that of lane `l`. -/
structure Solo (s : State) (i : Instr) (h : Hdr) (c : Cursor) (x : Warp) (l : Nat) : Prop extends Ready s i c x where
  alone : activeLanes s c h = [l]

/-- The cursor while the executing threads act. -/
def acting (s : State) (c : Cursor) (h : Hdr) : Cursor := actAs s c (activeLanes s c h)

/-- The instruction completes: its own effect, for the one executing thread, is to take the issued state to `s2`, and the thread's
completion follows (11_traps_and_preemption.md R224, 15_instruction_formats.md R292). -/
def CompletesWith (s : State) (i : Instr) (h : Hdr) (c : Cursor) (l : Nat) (s2 : State) : Prop :=
  exec i s = .next (completeLane i h c (latency s i h) l s2)

/-- The instruction completes for its path at once: its own effect takes the issued state to `s2`, and the completion of each executing
thread follows. -/
def PathCompletes (s : State) (i : Instr) (h : Hdr) (c : Cursor) (s2 : State) : Prop :=
  exec i s = .next ((activeLanes s c h).foldl (fun t l => completeLane i h c (Config.freeNat s.freeCtr) l t) s2)

/-- The instruction takes the issued state to `s2` and its executing threads wait at it. -/
def PathWaits (s : State) (i : Instr) (h : Hdr) (c : Cursor) (st : TState) (s2 : State) : Prop :=
  exec i s = .next ((activeLanes s c h).foldl (fun t l => waitLane c l st t) s2)

/-- A thread but for its watch and what it has read of others' writes and releases, which accesses change. -/
def Thread.seen (t : Thread) : Thread := { t with watch := none, readVC := [], relSeen := [] }

/-- A thread whose destination of several registers has been written with `vs`. -/
def wroteRegs (d : Opd) (vs : List W32) (t : Thread) : Thread :=
  match d with
  | .g n => (List.range vs.length).foldl (fun t j => t.setReg (n.val + j) (vs.getD j 0)) t
  | _ => t

/-- The k registers of a warp, whose destination of several registers took `vs`. -/
def wroteRegsK (d : Opd) (vs : List W32) (k : Vector W32 64) : Vector W32 64 :=
  match d with
  | .k n => (List.range vs.length).foldl (fun k j => k.setIfInBounds (n.val + j) (vs.getD j 0)) k
  | _ => k

/-- What the register frame of an instruction speaks of: the k registers, the allocation, and of each thread its general registers,
predicates and exception registers. -/
def Warp.regs (x : Warp) : Vector W32 64 × Nat × Vector (Vector W32 128 × Vector Bool 8 × BitVec 9 × Bool × W64 × W64 × W32) 32 :=
  (x.k, x.alloc, x.th.map fun t => (t.g, t.p, t.cause, t.inh, t.tepc, t.taddr, t.rgnctr))

/-- The registers of every warp and thread are those of another state. -/
def KeepsRegs (s t : State) : Prop := ∀ k, (t.warps.get? k).map Warp.regs = (s.warps.get? k).map Warp.regs

/-- The byte that a write of `bs` at some keys leaves at a key, where another byte was before. -/
def placedAt (ks : List Nat) (bs : List Byte) (k : Nat) (before : Byte) : Byte :=
  match ks.idxOf? k with
  | some j => bs.getD j 0
  | none => before

/-- A group but for its scratch. -/
def Group.butScratch (g : Group) : Group := { g with scratch := [], scrWas := [], scrAt := 0, scrTags := [] }

/-- Accesses to memory: what differs between two states is memory, the memory system, the bytes held under tenures, the scratch of
groups, and the requests that are outstanding or have left; no register of any thread or warp differs, nor any other state. -/
def MemOnly (s t : State) : Prop :=
  t = { s with
    mem := t.mem, ms := t.ms, ten := t.ten, groups := t.groups, ssets := t.ssets, spillFull := t.spillFull, hostReqs := t.hostReqs
    hostOut := t.hostOut, hostLog := t.hostLog, link := t.link, nextId := t.nextId, freeCtr := t.freeCtr, warps := t.warps } ∧
  (∀ g, (t.groups.getD g {}).butScratch = (s.groups.getD g {}).butScratch) ∧
  (∀ g, (t.groups.get? g).isSome = (s.groups.get? g).isSome) ∧
  ∀ k, (t.warps.get? k).map (fun x => { x with th := x.th.map Thread.seen }) =
    (s.warps.get? k).map (fun x => { x with th := x.th.map Thread.seen })

/-- Every executing thread of a ready path takes a trap and enters the handler (11_traps_and_preemption.md R220, R221): no handler state,
a handler address, a code that does not always park, and no trace that would record or be triggered. -/
structure Handled (s : State) (h : Hdr) (c : Cursor) (x : Warp) (code : Nat) : Prop where
  outside : ∀ l ∈ activeLanes s c h, (x.thr l).inh = false
  entry : bits (ctxOf s (grp s c.w).ctx).trapentry 56 2 ≠ 0
  takes : alwaysParks code = false
  hard : isSoft code = false
  exists_ : code ≠ noTableCode
  untraced : ∀ t ∈ s.trace.toList, t.live = false

/-- A thread that has taken a trap into the handler (R220, R221): s.tepc holds the instruction's address, s.tcause the code with INH set,
s.taddr the value given, and it goes on at TRAPENTRY. -/
def trapped (s : State) (c : Cursor) (code : Nat) (addr : W64) (t : Thread) : Thread :=
  { t with
    pc := (ctxOf s (grp s c.w).ctx).trapentry &&& 0x01FFFFFFFFFFFFFC#64, tepc := c.pc, cause := BitVec.ofNat 9 code, taddr := addr
    inh := true, gate := true, wait := 0, st := .running, blk := none, parkedBy := none }

/-- The instruction traps in each executing thread with one code, and nothing else happens. -/
def Traps (s : State) (i : Instr) (h : Hdr) (c : Cursor) (x : Warp) (code : Nat) (addr : W64) : Prop :=
  ∃ t, exec i s = .next t ∧
    ∃ x', warpAt t c.w = some x' ∧ t = { s with warps := t.warps, cur := t.cur, freeCtr := t.freeCtr } ∧
      (∀ k, k ≠ wIdx c.w → t.warps.get? k = s.warps.get? k) ∧ { x' with th := x.th } = x ∧
      ∀ l, l < 32 → x'.thr l =
        if hasLane c.lanes l then
          if (activeLanes s c h).contains l then trapped s c code addr ((x.thr l).issue c h.yh) else (x.thr l).issue c h.yh
        else x.thr l

end Machine
end Sys2Proof
end

