-- ==== Sys2Proof/Certificates/Slice0/Obligations.lean ====
section
/-! DEFINITION. The statements for the provers. Each says which sentence of the spec it formalises; `Ready`, `Executes` and `WritesReg`
are in Sys2Proof/Safety.lean. -/
open Sys2Proof Sys2Proof.Machine

/-! ### The machine: decoding, stepping, reset, memory -/

/-- Every well-formed instruction of the opcode map has a word, and decoding that word gives the instruction back, with every operand and
field at every value the encoding admits (15_instruction_formats.md R289, R290, R296, Table 15.4). -/
def Obligations.DecodeInvertsEncode : Prop :=
  ∀ i : Instr, i.isWord = true → WellFormed i → ∃ w, encode i = some w ∧ decode w = .ok i

/-- What decodes is well formed, and its word is the one that encodes it: no two words stand for one instruction (R290 step 7, res0). -/
def Obligations.EncodeInvertsDecode : Prop :=
  ∀ (w : IWord) (i : Instr), decode w = .ok i → WellFormed i ∧ encode i = some w

/-- Every step, of an instruction or an event, keeps memory in its canonical form. -/
def Obligations.StepKeepsMemoryCanonical : Prop :=
  ∀ s t : State, s.mem.wf = true → step s = .next t → t.mem.wf = true

/-- When a path is latched and its instruction is fetched and decoded, the step is that instruction's execution by the path; when the fetch
traps, the step takes the trap; with no path latched, the step is the next event due in the cycle; with none due, the next cycle begins
(02_execution_model.md R42, 15_instruction_formats.md R290; the order of a cycle's events is the model's, log 5). The bytes at the program
counter of a latched path, when their page lets them be fetched, decode to the instruction that the path then executes, with the path's
threads, its program counter and the mode of its page in the cursor (R290 steps 1 to 9, R379). -/
def Obligations.StepRunsDecoded : Prop :=
  (∀ s : State,
    (∀ q qs s' i, s.issue = q :: qs → fetchPath { s with issue := qs } q = (s', some i) → step s = exec i s') ∧
    (∀ q qs s', s.issue = q :: qs → fetchPath { s with issue := qs } q = (s', none) → s'.stop = none → step s = .next s') ∧
    (∀ i is, s.issue = [] → s.agenda = i :: is → step s = exec i { s with agenda := is }) ∧
    (s.issue = [] → s.agenda = [] → (newCycle s).stop = none → step s = .next (newCycle s))) ∧
  ∀ (s s' : State) (q : Issue) (bs : List Byte) (user : Bool) (i : Instr) (ls : List Nat),
    ls = (lanesOf q.lanes).filter (fun l => (thrAt s q.w l).runs && (thrAt s q.w l).pc == q.pc) → ls ≠ [] →
    heldWord s q.w (maskOf ls.contains) = none →
    fetchBytes s q.w.core (grp s q.w).ctx q.pc = (s', .ok (bs, user)) →
    gateTraps s' q.w (maskOf ls.contains) user = [] →
    decode (wordOfBytes bs) = .ok i →
    fetchPath s q = ({ s' with cur := some { w := q.w, lanes := maskOf ls.contains, pc := q.pc, user := user } }, some i)

/-! ### Register instructions (16 to 19): the value each writes, with everything else unchanged -/

/-- IADD, ISUB, IMUL and IMAD keep the low bits of the exact result, for 32- and 64-bit types, with a register or a widened immediate;
LEA adds the index, read by the type's sign and shifted left by the low six bits of the shift, to the base
(17_reference_d_l.md R346, R356; 16_reference_a_c.md R309). -/
def Obligations.WrappingArithmeticWritesResult : Prop :=
  (∀ (s : State) (c : Cursor) (x : Warp) (h : Hdr) (i : Instr) (w : Nat),
    Ready s i c x →
    (∀ (o : Bin) (f : BitVec w → BitVec w → BitVec w), tyInt o.ty = true → w = tw o.ty →
      (i, f) ∈ ([(.iadd h o, (· + ·)), (.isub h o, (· - ·)), (.imul h o, (· * ·))] : List (Instr × (BitVec w → BitVec w → BitVec w))) →
      WritesReg s i h c x o.d o.ty.is64 fun l =>
        (f (BitVec.ofNat w (operand s c h l o.a o.ty.is64)) (BitVec.ofNat w (operand s c h l o.b o.ty.is64))).toNat) ∧
    (∀ (o : BinI) (f : BitVec w → BitVec w → BitVec w), tyInt o.ty = true → w = tw o.ty →
      (i, f) ∈ ([(.iaddImm h o, (· + ·)), (.isubImm h o, (· - ·)), (.imulImm h o, (· * ·))] :
        List (Instr × (BitVec w → BitVec w → BitVec w))) →
      WritesReg s i h c x o.d o.ty.is64 fun l =>
        (f (BitVec.ofNat w (operand s c h l o.a o.ty.is64)) (if o.ty == .i64 then o.imm.signExtend w else o.imm.setWidth w)).toNat) ∧
    (∀ o : Tri, tyInt o.ty = true → w = tw o.ty → i = .imad h o →
      WritesReg s i h c x o.d o.ty.is64 fun l =>
        (BitVec.ofNat w (operand s c h l o.a o.ty.is64) * BitVec.ofNat w (operand s c h l o.b o.ty.is64) +
          BitVec.ofNat w (operand s c h l o.c o.ty.is64)).toNat) ∧
    (∀ o : TriI, tyInt o.ty = true → w = tw o.ty → i = .imadImm h o →
      WritesReg s i h c x o.d o.ty.is64 fun l =>
        (BitVec.ofNat w (operand s c h l o.a o.ty.is64) * BitVec.ofNat w (operand s c h l o.b o.ty.is64) +
          (if o.ty == .i64 then o.imm.signExtend w else o.imm.setWidth w)).toNat)) ∧
  ∀ (s : State) (c : Cursor) (x : Warp) (h : Hdr) (i : Instr) (ty : Fmt) (d a b : Opd) (sh : Nat → Nat),
    Ready s i c x → tyInt ty = true →
    ((∃ o : Tri, i = .lea h o ∧ o.ty = ty ∧ o.d = d ∧ o.a = a ∧ o.b = b ∧ ∀ l, sh l = operand s c h l o.c false) ∨
     (∃ o : TriI, i = .leaImm h o ∧ o.ty = ty ∧ o.d = d ∧ o.a = a ∧ o.b = b ∧ ∀ l, sh l = o.imm.toNat)) →
    WritesReg s i h c x d ty.is64 fun l =>
      let idx : BitVec 32 := BitVec.ofNat 32 (operand s c h l b false)
      (BitVec.ofNat (tw ty) (operand s c h l a ty.is64) +
        (if tySigned ty then idx.signExtend (tw ty) else idx.setWidth (tw ty)) <<< (sh l % 64)).toNat

/-- AND, OR, XOR and NOT act on each bit of the type (R315, R362, R406). -/
def Obligations.LogicWritesBitwiseResult : Prop :=
  ∀ (s : State) (c : Cursor) (x : Warp) (h : Hdr) (i : Instr) (w : Nat),
    Ready s i c x →
    (∀ (o : Bin) (f : BitVec w → BitVec w → BitVec w), tyInt o.ty = true → w = tw o.ty →
      (i, f) ∈ ([(.and h o, (· &&& ·)), (.or h o, (· ||| ·)), (.xor h o, (· ^^^ ·))] : List (Instr × (BitVec w → BitVec w → BitVec w))) →
      WritesReg s i h c x o.d o.ty.is64 fun l =>
        (f (BitVec.ofNat w (operand s c h l o.a o.ty.is64)) (BitVec.ofNat w (operand s c h l o.b o.ty.is64))).toNat) ∧
    (∀ (o : BinI) (f : BitVec w → BitVec w → BitVec w), tyInt o.ty = true → w = tw o.ty →
      (i, f) ∈ ([(.andImm h o, (· &&& ·)), (.orImm h o, (· ||| ·)), (.xorImm h o, (· ^^^ ·))] :
        List (Instr × (BitVec w → BitVec w → BitVec w))) →
      WritesReg s i h c x o.d o.ty.is64 fun l =>
        (f (BitVec.ofNat w (operand s c h l o.a o.ty.is64)) (if o.ty == .i64 then o.imm.signExtend w else o.imm.setWidth w)).toNat) ∧
    (∀ o : Un, tyInt o.ty = true → w = tw o.ty → i = .not h o →
      WritesReg s i h c x o.d o.ty.is64 fun l => (~~~ BitVec.ofNat w (operand s c h l o.a o.ty.is64)).toNat)

/-- SHL, SHR and ROT: a shift reads the whole count, an arithmetic shift by the width or more leaves copies of the sign, and a rotation
takes the count modulo the width (R377, R373). -/
def Obligations.ShiftsWriteShiftedValue : Prop :=
  ∀ (s : State) (c : Cursor) (x : Warp) (h : Hdr) (i : Instr) (w : Nat) (ty : Fmt) (d a : Opd) (k : Nat → Nat) (f : Nat → BitVec w → BitVec w),
    Ready s i c x → tyInt ty = true → w = tw ty →
    ((∃ o : Bin, o.ty = ty ∧ o.d = d ∧ o.a = a ∧ (∀ l, k l = operand s c h l o.b false) ∧
        ((i = .shl h o ∧ f = fun n v => v <<< n) ∨
         (i = .shr h o ∧ f = fun n v => if tySigned ty then v.sshiftRight n else v >>> n) ∨
         (i = .rot h o ∧ tyNat ty = true ∧ f = fun n v => v.rotateLeft n))) ∨
     (∃ o : BinI, o.ty = ty ∧ o.d = d ∧ o.a = a ∧ (∀ l, k l = o.imm.toNat) ∧
        ((i = .shlImm h o ∧ f = fun n v => v <<< n) ∨
         (i = .shrImm h o ∧ f = fun n v => if tySigned ty then v.sshiftRight n else v >>> n) ∨
         (i = .rotImm h o ∧ tyNat ty = true ∧ f = fun n v => v.rotateLeft n)))) →
    WritesReg s i h c x d ty.is64 fun l => (f (k l) (BitVec.ofNat w (operand s c h l a ty.is64))).toNat

/-- BFX and BFI: each bit of the result. BFX takes bits pos to pos + len - 1 of the source, extended above its top by its sign for a
signed type and by zeros otherwise, and extends the field in the same way; with len = 0 the result is 0. BFI takes the low len bits of
the first source at pos, and the base elsewhere (R318, R319). -/
def Obligations.BitFieldsWriteExtractAndInsert : Prop :=
  ∀ (s : State) (c : Cursor) (x : Warp) (h : Hdr) (i : Instr) (ty : Fmt) (d : Opd) (ctl : Nat → Nat),
    Ready s i c x → tyInt ty = true →
    (∀ a : Opd,
      ((∃ o : Bin, i = .bfx h o ∧ o.ty = ty ∧ o.d = d ∧ o.a = a ∧ ∀ l, ctl l = operand s c h l o.b false) ∨
       (∃ o : BinI, i = .bfxImm h o ∧ o.ty = ty ∧ o.d = d ∧ o.a = a ∧ ∀ l, ctl l = o.imm.toNat)) →
      ∃ val : Nat → Nat, WritesReg s i h c x d ty.is64 val ∧ ∀ l, val l < 2 ^ tw ty ∧
        ∀ j, j < tw ty → (val l).testBit j =
          (let pos := ctl l % 256
           let len := ctl l / 256 % 256
           let src := fun n => (operand s c h l a ty.is64).testBit (if tySigned ty then min n (tw ty - 1) else n)
           if len = 0 then false else if j < len then src (pos + j) else if tySigned ty then src (pos + len - 1) else false)) ∧
    (∀ a b : Opd,
      ((∃ o : Tri, i = .bfi h o ∧ o.ty = ty ∧ o.d = d ∧ o.a = a ∧ o.b = b ∧ ∀ l, ctl l = operand s c h l o.c false) ∨
       (∃ o : TriI, i = .bfiImm h o ∧ o.ty = ty ∧ o.d = d ∧ o.a = a ∧ o.b = b ∧ ∀ l, ctl l = o.imm.toNat)) →
      ∃ val : Nat → Nat, WritesReg s i h c x d ty.is64 val ∧ ∀ l, val l < 2 ^ tw ty ∧
        ∀ j, j < tw ty → (val l).testBit j =
          (let pos := ctl l % 256
           let len := ctl l / 256 % 256
           if pos ≤ j ∧ j < pos + len then (operand s c h l a ty.is64).testBit (j - pos) else (operand s c h l b ty.is64).testBit j))

/-- POPC, CLZ and BREV: the number of set bits, the number of zero bits above the highest set bit, and the bits in reverse order; the
counts are one register (R367, R326, R321). -/
def Obligations.BitCountsAndReverse : Prop :=
  ∀ (s : State) (c : Cursor) (x : Warp) (h : Hdr) (i : Instr) (o : Un),
    Ready s i c x → tyNat o.ty = true →
    (i = .popc h o → WritesReg s i h c x o.d false fun l =>
      ((List.range (tw o.ty)).filter fun j => (operand s c h l o.a o.ty.is64).testBit j).length) ∧
    (i = .clz h o → ∃ val : Nat → Nat, WritesReg s i h c x o.d false val ∧ ∀ l, val l ≤ tw o.ty ∧
      (∀ j, tw o.ty - val l ≤ j → j < tw o.ty → (operand s c h l o.a o.ty.is64).testBit j = false) ∧
      (val l < tw o.ty → (operand s c h l o.a o.ty.is64).testBit (tw o.ty - 1 - val l) = true)) ∧
    (i = .brev h o → ∃ val : Nat → Nat, WritesReg s i h c x o.d o.ty.is64 val ∧ ∀ l, val l < 2 ^ tw o.ty ∧
      ∀ j, j < tw o.ty → (val l).testBit j = (operand s c h l o.a o.ty.is64).testBit (tw o.ty - 1 - j))

/-- IMIN and IMAX write the smaller and the larger source in the signed or natural order of the type, and IABS the magnitude, which is
the source itself for the most negative value (R348, R345). -/
def Obligations.MinMaxAbsByTypesOrder : Prop :=
  ∀ (s : State) (c : Cursor) (x : Warp) (h : Hdr) (i : Instr) (w : Nat) (le : BitVec w → BitVec w → Bool),
    Ready s i c x →
    (∀ (o : Bin), tyInt o.ty = true → w = tw o.ty → (le = if tySigned o.ty then BitVec.sle else BitVec.ule) →
      let a := fun l => BitVec.ofNat w (operand s c h l o.a o.ty.is64)
      let b := fun l => BitVec.ofNat w (operand s c h l o.b o.ty.is64)
      (i = .imin h o → WritesReg s i h c x o.d o.ty.is64 fun l => (if le (a l) (b l) then a l else b l).toNat) ∧
      (i = .imax h o → WritesReg s i h c x o.d o.ty.is64 fun l => (if le (a l) (b l) then b l else a l).toNat)) ∧
    (∀ (o : BinI), tyInt o.ty = true → w = tw o.ty → (le = if tySigned o.ty then BitVec.sle else BitVec.ule) →
      let a := fun l => BitVec.ofNat w (operand s c h l o.a o.ty.is64)
      let b := if o.ty == .i64 then o.imm.signExtend w else o.imm.setWidth w
      (i = .iminImm h o → WritesReg s i h c x o.d o.ty.is64 fun l => (if le (a l) b then a l else b).toNat) ∧
      (i = .imaxImm h o → WritesReg s i h c x o.d o.ty.is64 fun l => (if le (a l) b then b else a l).toNat)) ∧
    (∀ (o : Un), tySigned o.ty = true → w = tw o.ty → i = .iabs h o →
      WritesReg s i h c x o.d o.ty.is64 fun l =>
        let a := BitVec.ofNat w (operand s c h l o.a o.ty.is64)
        (if a.msb then 0 - a else a).toNat)

/-- ICMP writes equal, less and greater together, and FCMP unordered beside them: to successive predicates, of which p7 cannot be written,
or as a mask in a register (R347, R338). -/
def Obligations.ComparesWriteAllRelations : Prop :=
  ∀ (s : State) (c : Cursor) (x : Warp) (h : Hdr) (i : Instr) (d : Opd) (n : Nat) (eq lt gt un : Nat → Bool),
    Ready s i c x →
    ((∃ (ty : Fmt) (a : Opd) (b : Nat → Nat), tyInt ty = true ∧ n = 3 ∧
        ((∃ o : Bin, i = .icmp h o ∧ o.ty = ty ∧ o.d = d ∧ o.a = a ∧ ∀ l, b l = operand s c h l o.b o.ty.is64) ∨
         (∃ o : BinI, i = .icmpImm h o ∧ o.ty = ty ∧ o.d = d ∧ o.a = a ∧
            ∀ l, b l = if o.ty == .i64 then (o.imm.signExtend 64).toNat else o.imm.toNat)) ∧
        ∀ l, let p := BitVec.ofNat (tw ty) (operand s c h l a ty.is64)
             let q := BitVec.ofNat (tw ty) (b l)
             eq l = (p == q) ∧ lt l = (if tySigned ty then p.slt q else p.ult q) ∧
             gt l = (if tySigned ty then q.slt p else q.ult p) ∧ un l = false) ∨
     (∃ (ty : Fmt) (a : Opd) (b : Nat → Nat), tyF ty = true ∧ n = 4 ∧
        ((∃ o : Bin, i = .fcmp h o ∧ o.ty = ty ∧ o.d = d ∧ o.a = a ∧ ∀ l, b l = operand s c h l o.b false) ∨
         (∃ o : BinI, i = .fcmpImm h o ∧ o.ty = ty ∧ o.d = d ∧ o.a = a ∧ ∀ l, b l = fimm o.ty o.imm)) ∧
        ∀ l, let p := Num.ofFloat ty (operand s c h l a false)
             let q := Num.ofFloat ty (b l)
             un l = (p == .nan || q == .nan) ∧ eq l = (!un l && !Num.ltFV p q && !Num.ltFV q p) ∧
             lt l = Num.ltFV p q ∧ gt l = Num.ltFV q p)) →
    ((∃ m, d = .p m) → ∃ t, exec i s = .next t ∧
      Executes s h c x x.k (fun l th => executed s h i
        (let th := wroteP d 2 (gt l) (wroteP d 1 (lt l) (wroteP d 0 (eq l) th))
         if n = 4 then wroteP d 3 (un l) th else th)) t) ∧
    ((∀ m, d ≠ .p m) → WritesReg s i h c x d false fun l =>
      (if eq l then 1 else 0) + (if lt l then 2 else 0) + (if gt l then 4 else 0) + (if un l then 8 else 0))

/-- MOV and MOVI write a register or predicate destination; a predicate takes bit 0, and p7 discards it; SEL writes the source that a
predicate chooses (R358, R375). -/
def Obligations.MovesWriteValueOrBitZero : Prop :=
  (∀ (s : State) (c : Cursor) (x : Warp) (h : Hdr) (i : Instr) (ty : Fmt) (d : Opd) (v : Nat → Nat),
    Ready s i c x → tyMov ty = true →
    ((∃ o : Un, i = .mov h o ∧ o.ty = ty ∧ o.d = d ∧ ∀ l, v l = operand s c h l o.a o.ty.is64) ∨
     (∃ o : MovImm, i = .movi h o ∧ o.ty = ty ∧ o.d = d ∧ ∀ l, v l = if o.ty == .i64 then (o.imm.signExtend 64).toNat else o.imm.toNat)) →
    ((∃ m, d = .p m) → ∃ t, exec i s = .next t ∧
      Executes s h c x x.k (fun l th => executed s h i (wroteP d 0 ((v l).testBit 0) th)) t) ∧
    ((∀ m, d ≠ .p m) → WritesReg s i h c x d ty.is64 v)) ∧
  ∀ (s : State) (c : Cursor) (x : Warp) (h : Hdr) (i : Instr),
    Ready s i c x →
    (∀ o : Tri, i = .sel h o → tyMov o.ty = true → WritesReg s i h c x o.d o.ty.is64 fun l =>
      if operandP s c h l o.a then operand s c h l o.b o.ty.is64 else operand s c h l o.c o.ty.is64) ∧
    (∀ o : TriI, i = .selImm h o → tyMov o.ty = true → WritesReg s i h c x o.d o.ty.is64 fun l =>
      if operandP s c h l o.a then operand s c h l o.b o.ty.is64
      else if o.ty == .i64 then (o.imm.signExtend 64).toNat else o.imm.toNat)

/-- CVT wraps the source's integer into the target, or clamps it to the target's range with .sat; CVTF converts with a floating format at
either end (R329, R330, 07_number_formats.md R153, R155 to R159). That CVTF between equal floating formats follows the pseudocode, so that .sat
clamps an infinity there, is the model's reading (log 17). -/
def Obligations.ConversionsWriteConvertedValue : Prop :=
  ∀ (s : State) (c : Cursor) (x : Warp) (h : Hdr) (i : Instr) (o : Conv),
    Ready s i c x →
    (i = .cvt h o → o.ty.isFloat = false → o.sty.isFloat = false → WritesReg s i h c x o.d o.ty.is64 fun l =>
      let v := Num.toInt o.sty (operand s c h l o.a o.sty.is64)
      Num.ofInt o.ty (if o.sat then max (Num.lowest o.ty) (min v (Num.highest o.ty)) else v)) ∧
    (i = .cvtf h o → (o.ty.isFloat || o.sty.isFloat) = true → WritesReg s i h c x o.d o.ty.is64 fun l =>
      let v := Num.value o.sty (operand s c h l o.a o.sty.is64)
      if o.ty.isFloat then Num.toFloat o.ty o.sat v else Num.ofInt o.ty (Num.toIntFmt o.ty v))

/-- FADD, FSUB, FMUL and FFMA round the exact result once, to nearest even; the packed instructions do so in each half
(R336, R160, R401). -/
def Obligations.FloatArithmeticRoundsOnce : Prop :=
  ∀ (s : State) (c : Cursor) (x : Warp) (h : Hdr) (i : Instr),
    Ready s i c x →
    (∀ (o : Bin) (f : Num.FV → Num.FV → Num.FV), tyF o.ty = true →
      (i, f) ∈ ([(.fadd h o, Num.addFV), (.fsub h o, fun a b => Num.addFV a (Num.negFV b)), (.fmul h o, Num.mulFV)] :
        List (Instr × (Num.FV → Num.FV → Num.FV))) →
      WritesReg s i h c x o.d false fun l => Num.toFloatBy false o.ty false
        (f (Num.ofFloat o.ty (operand s c h l o.a false)) (Num.ofFloat o.ty (operand s c h l o.b false)))) ∧
    (∀ (o : BinI) (f : Num.FV → Num.FV → Num.FV), tyF o.ty = true →
      (i, f) ∈ ([(.faddImm h o, Num.addFV), (.fsubImm h o, fun a b => Num.addFV a (Num.negFV b)), (.fmulImm h o, Num.mulFV)] :
        List (Instr × (Num.FV → Num.FV → Num.FV))) →
      WritesReg s i h c x o.d false fun l => Num.toFloatBy false o.ty false
        (f (Num.ofFloat o.ty (operand s c h l o.a false)) (Num.ofFloat o.ty (fimm o.ty o.imm)))) ∧
    (∀ o : Tri, tyF o.ty = true → i = .ffma h o → WritesReg s i h c x o.d false fun l => Num.toFloatBy false o.ty false
      (Num.addFV (Num.mulFV (Num.ofFloat o.ty (operand s c h l o.a false)) (Num.ofFloat o.ty (operand s c h l o.b false)))
        (Num.ofFloat o.ty (operand s c h l o.c false)))) ∧
    (∀ o : TriI, tyF o.ty = true → i = .ffmaImm h o → WritesReg s i h c x o.d false fun l => Num.toFloatBy false o.ty false
      (Num.addFV (Num.mulFV (Num.ofFloat o.ty (operand s c h l o.a false)) (Num.ofFloat o.ty (operand s c h l o.b false)))
        (Num.ofFloat o.ty (fimm o.ty o.imm)))) ∧
    (∀ (o : Bin) (f : Num.FV → Num.FV → Num.FV), (o.ty = .f16 ∨ o.ty = .bf16) →
      (i, f) ∈ ([(.vadd2 h o, Num.addFV), (.vmul2 h o, Num.mulFV)] : List (Instr × (Num.FV → Num.FV → Num.FV))) →
      WritesReg s i h c x o.d false fun l =>
        let half := fun j => Num.toFloatBy false o.ty false (f (Num.ofFloat o.ty (operand s c h l o.a false / 65536 ^ j % 65536))
          (Num.ofFloat o.ty (operand s c h l o.b false / 65536 ^ j % 65536)))
        half 0 + 65536 * half 1) ∧
    (∀ o : Tri, (o.ty = .f16 ∨ o.ty = .bf16) → i = .vfma2 h o → WritesReg s i h c x o.d false fun l =>
      let at_ := fun (p : Opd) j => Num.ofFloat o.ty (operand s c h l p false / 65536 ^ j % 65536)
      let half := fun j => Num.toFloatBy false o.ty false (Num.addFV (Num.mulFV (at_ o.a j) (at_ o.b j)) (at_ o.c j))
      half 0 + 65536 * half 1)

/-- FMIN, FMAX, FABS, FNEG and FCLASS: a NaN source gives the canonical NaN, the smaller or larger is one of the sources with -0 below
+0, the sign bit is cleared or inverted, and FCLASS sets the one bit of the class (R342, R335, R337). -/
def Obligations.FloatSelectSignAndClass : Prop :=
  ∀ (s : State) (c : Cursor) (x : Warp) (h : Hdr) (i : Instr),
    Ready s i c x →
    (∀ (ty : Fmt) (d a : Opd) (b : Nat → Nat) (less : Bool), tyF ty = true →
      ((∃ o : Bin, (i = .fmin h o ∧ less = true ∨ i = .fmax h o ∧ less = false) ∧ o.ty = ty ∧ o.d = d ∧ o.a = a ∧
          ∀ l, b l = operand s c h l o.b false) ∨
       (∃ o : BinI, (i = .fminImm h o ∧ less = true ∨ i = .fmaxImm h o ∧ less = false) ∧ o.ty = ty ∧ o.d = d ∧ o.a = a ∧
          ∀ l, b l = fimm o.ty o.imm)) →
      WritesReg s i h c x d false fun l =>
        let p := Num.ofFloat ty (operand s c h l a false)
        let q := Num.ofFloat ty (b l)
        if p = .nan ∨ q = .nan then Num.canonicalNaN ty
        else if Num.ranksBelow (if less then q else p) (if less then p else q) then b l % 2 ^ ty.width
        else operand s c h l a false % 2 ^ ty.width) ∧
    (∀ o : Un, tyF o.ty = true → i = .fabs h o → WritesReg s i h c x o.d false fun l =>
      if Num.ofFloat o.ty (operand s c h l o.a false) = .nan then Num.canonicalNaN o.ty
      else operand s c h l o.a false % 2 ^ (o.ty.width - 1)) ∧
    (∀ o : Un, tyF o.ty = true → i = .fneg h o → WritesReg s i h c x o.d false fun l =>
      if Num.ofFloat o.ty (operand s c h l o.a false) = .nan then Num.canonicalNaN o.ty
      else (operand s c h l o.a false % 2 ^ o.ty.width) ^^^ 2 ^ (o.ty.width - 1)) ∧
    (∀ o : Un, o.ty.isFloat = true → i = .fclass h o → WritesReg s i h c x o.d false fun l => 2 ^ Num.fclassBit o.ty (operand s c h l o.a false))

/-- FRCP, FRSQ, FSQRT, FEXP2, FLOG2, FSIN and FCOS complete with one function of the source's bits, which gives the exact cases and the special
values that R339 lists: a NaN gives the canonical NaN, and so on for zeros, infinities, powers of two, integers and, of FSQRT, perfect squares;
elsewhere the value of all but FSQRT is free within the bound that R339 gives, an ulp being the spacing at the exact result, about an enclosure of
the exact result (log 7): of FRCP and FRSQ the enclosure is written out here, of FEXP2, FLOG2, FSIN and FCOS it is the model's. FSQRT of a
positive value is correctly rounded: the exact root lies nearer to it than half the way to either neighbour (R160). -/
def Obligations.SingleSourceFunctionsComplete : Prop :=
  ∀ (s : State) (c : Cursor) (x : Warp) (h : Hdr) (i : Instr) (o : Un) (f : Nat → Nat),
    Ready s i c x → o.ty = .f32 →
    (i, f) ∈ ([(.frcp h o, Approx.frcp), (.frsq h o, Approx.frsq), (.fsqrt h o, Num.fsqrt), (.fexp2 h o, Approx.fexp2),
      (.flog2 h o, Approx.flog2), (.fsin h o, Approx.fsin), (.fcos h o, Approx.fcos)] : List (Instr × (Nat → Nat))) →
    WritesReg s i h c x o.d false (fun l => f (operand s c h l o.a false)) ∧
    (∀ v, Num.ofFloat .f32 v = .nan → f v = 0x7FC00000) ∧
    (∀ v neg, Num.ofFloat .f32 v = .inf neg → f v = match i with
      | .frcp _ _ => if neg then 0x80000000 else 0
      | .frsq _ _ => if neg then 0x7FC00000 else 0
      | .fexp2 _ _ => if neg then 0 else 0x7F800000
      | .fsqrt _ _ | .flog2 _ _ => if neg then 0x7FC00000 else 0x7F800000
      | _ => 0x7FC00000) ∧
    ∀ v neg m e, Num.ofFloat .f32 v = .fin neg m e →
      let signedZero := if neg then 0x80000000 else 0
      let inf := if neg then 0xFF800000 else 0x7F800000
      (i = .frcp h o → ((m = 0 ∨ Nat.log2 m + e < -128) → f v = inf) ∧
        (∀ k : Nat, m = 2 ^ k → -128 < k + e → f v = Num.rne .f32 (.fin neg 1 (-(k + e)))) ∧
        (m ≠ 0 → m ≠ 2 ^ Nat.log2 m → -128 ≤ Nat.log2 m + e → ∃ n : Nat, n * m ≤ 2 ^ 80 ∧ 2 ^ 80 < (n + 1) * m ∧
          Approx.within (Num.ofFloat .f32 (f v)) (Num.sgn neg n) (-e - 80) 1 (Approx.ulpExp n (-e - 80)) = true)) ∧
      (i = .frsq h o → (m = 0 → f v = inf) ∧ (m ≠ 0 → neg = true → f v = 0x7FC00000) ∧
        (∀ (k : Nat) (j : Int), m = 2 ^ k → neg = false → k + e = 2 * j → f v = Num.rne .f32 (.fin false 1 (-j))) ∧
        ∀ (m' : Nat) (j : Int), m ≠ 0 → neg = false → (m' = m ∧ e = 2 * j ∨ m' = 2 * m ∧ e = 2 * j + 1) →
          ∃ n : Nat, n * n * m' ≤ 2 ^ 160 ∧ 2 ^ 160 < (n + 1) * (n + 1) * m' ∧
            Approx.within (Num.ofFloat .f32 (f v)) n (-j - 80) 1 (Approx.ulpExp n (-j - 80)) = true) ∧
      (i = .fsqrt h o → (m = 0 → f v = signedZero) ∧ (m ≠ 0 → neg = true → f v = 0x7FC00000) ∧
        (∀ (r : Nat) (j : Int), m = r * r → m ≠ 0 → neg = false → e = 2 * j → f v = Num.rne .f32 (.fin false r j)) ∧
        (m ≠ 0 → neg = false → ∃ (r : Nat) (j : Int), Num.ofFloat .f32 (f v) = .fin false r j ∧ 2 ^ 23 ≤ r ∧ r < 2 ^ 24 ∧
          m * 2 ^ (e + 400).toNat < (2 * r + 1) ^ 2 * 2 ^ (2 * j + 398).toNat ∧
          (2 * r - 1) ^ 2 * 2 ^ (2 * j + 398).toNat < m * 2 ^ (e + 400).toNat ∧
          (r = 2 ^ 23 → (4 * r - 1) ^ 2 * 2 ^ (2 * j + 396).toNat < m * 2 ^ (e + 400).toNat))) ∧
      (i = .fexp2 h o →
        let x149 := Num.sgn neg m * (2 ^ (e + 149).toNat : Nat)
        (m = 0 → f v = 0x3F800000) ∧ (128 * (2 ^ 149 : Nat) ≤ x149 → f v = 0x7F800000) ∧ (x149 < -150 * (2 ^ 149 : Nat) → f v = 0) ∧
        (∀ j : Int, x149 = j * (2 ^ 149 : Nat) → -149 ≤ j → j < 128 → f v = Num.rne .f32 (.fin false 1 j)) ∧
        (let n := Approx.exp2Mid (Approx.exp2Arg neg m e)
         let k := Approx.exp2Arg neg m e / (2 ^ 120 : Nat) - 100
         m ≠ 0 → x149 % (2 ^ 149 : Nat) ≠ 0 → x149 < 128 * (2 ^ 149 : Nat) → -150 * (2 ^ 149 : Nat) ≤ x149 →
         Num.rne .f32 (.fin false n.natAbs k) ≠ 0x7F800000 →
           Approx.within (Num.ofFloat .f32 (f v)) n k 2 (Approx.ulpExp n k) = true)) ∧
      (i = .flog2 h o → (m = 0 → f v = 0xFF800000) ∧ (m ≠ 0 → neg = true → f v = 0x7FC00000) ∧
        (∀ k : Nat, m = 2 ^ k → neg = false → f v = Num.rne .f32 (.fin (k + e < 0) (k + e).natAbs 0)) ∧
        (let n := Approx.log2Mid m e
         m ≠ 0 → neg = false → if Nat.log2 m + e = -1 ∨ Nat.log2 m + e = 0 then
             Approx.within (Num.ofFloat .f32 (f v)) n (-90) 1 (-22) = true
           else Approx.within (Num.ofFloat .f32 (f v)) n (-90) 2 (Approx.ulpExp n (-90)) = true)) ∧
      (i = .fsin h o → ((m = 0 ∨ Nat.log2 m + e < -12) → f v = v) ∧
        (m ≠ 0 → -12 ≤ Nat.log2 m + e → Approx.within (Num.ofFloat .f32 (f v)) (Approx.sinMid neg m e) (-80) 1 (-22) = true)) ∧
      (i = .fcos h o → (m = 0 → f v = 0x3F800000) ∧
        (m ≠ 0 → Approx.within (Num.ofFloat .f32 (f v)) (Approx.cosMid m e) (-80) 1 (-22) = true))

/-! ### The instruction frame -/

/-- A thread whose guard is false, or that its block holds back, only issues: in a path none of whose threads executes, each of NOP, RGN, RET,
BRK, BRA, MWAIT, TRET, BAR, IADD, LD, ST, ATOM and PLOP advances the counter past itself and changes nothing else (R291, R298). -/
def Obligations.FalseGuardOnlyIssues : Prop :=
  ∀ (s : State) (c : Cursor) (x : Warp) (h : Hdr) (i : Instr), Ready s i c x → activeLanes s c h = [] →
    (i ∈ ([.nop h, .rgn h, .ret h, .bar h] : List Instr) ∨ (∃ imm, i = .brk h imm) ∨ (∃ off, i = .bra h off) ∨ (∃ d, i = .mwait h d) ∨
      (∃ nx, i = .tret h nx) ∨ (∃ o, i = .iadd h o) ∨ (∃ o, i = .ld h o) ∨ (∃ o, i = .st h o) ∨ (∃ o, i = .atom h o) ∨ (∃ o, i = .plop h o)) →
    ∃ t x', exec i s = .next t ∧ warpAt t c.w = some x' ∧
      t = { s with warps := t.warps, cur := t.cur, freeCtr := t.freeCtr } ∧ { x' with th := x.th } = x ∧
      (∀ k, k ≠ wIdx c.w → t.warps.get? k = s.warps.get? k) ∧
      ∀ l, l < 32 → x'.thr l = if hasLane c.lanes l then (x.thr l).issue c h.yh else x.thr l

/-- A type that IADD, ISUB, IMUL, IMIN, IMAX, AND, OR, XOR, SHL, SHR, BFX, ICMP, ROT, POPC, CLZ, BREV, IABS, IMAD, BFI, LEA, FADD, FSUB, FMUL,
FMIN, FMAX, FCMP, FRCP, FRSQ, FSQRT, FEXP2, FLOG2, FSIN, FCOS, CVT or CVTF does not accept raises 040h in every executing thread (R309, R334). -/
def Obligations.UnacceptedTypeTraps : Prop :=
  ∀ (s : State) (c : Cursor) (x : Warp) (h : Hdr) (i : Instr), Ready s i c x → Handled s h c x 0x040 →
    ((∃ o : Bin, tyInt o.ty = false ∧ i ∈ ([.iadd h o, .isub h o, .imul h o, .imin h o, .imax h o, .and h o, .or h o, .xor h o,
        .shl h o, .shr h o, .bfx h o, .icmp h o] : List Instr)) ∨
     (∃ o : Bin, tyNat o.ty = false ∧ i = .rot h o) ∨
     (∃ o : Un, tyNat o.ty = false ∧ i ∈ ([.popc h o, .clz h o, .brev h o] : List Instr)) ∨
     (∃ o : Un, tySigned o.ty = false ∧ i = .iabs h o) ∨
     (∃ o : Tri, tyInt o.ty = false ∧ i ∈ ([.imad h o, .bfi h o, .lea h o] : List Instr)) ∨
     (∃ o : Bin, tyF o.ty = false ∧ i ∈ ([.fadd h o, .fsub h o, .fmul h o, .fmin h o, .fmax h o, .fcmp h o] : List Instr)) ∨
     (∃ o : Un, o.ty ≠ .f32 ∧ i ∈ ([.frcp h o, .frsq h o, .fsqrt h o, .fexp2 h o, .flog2 h o, .fsin h o, .fcos h o] : List Instr)) ∨
     (∃ o : Conv, (o.ty.isFloat || o.sty.isFloat) = true ∧ i = .cvt h o) ∨
     (∃ o : Conv, (o.ty.isFloat || o.sty.isFloat) = false ∧ i = .cvtf h o)) →
    Traps s i h c x 0x040 0

/-- IADD, MOVI, FADD, LD, ST, ICMP, CVT, JMPR and MWAIT: a g register at or above the warp's allocation raises 022h, and otherwise a
special-register destination raises 023h, before the instruction does anything (R290 steps 10 and 11, R297). -/
def Obligations.OperandChecksTrapFirst : Prop :=
  ∀ (s : State) (c : Cursor) (x : Warp) (h : Hdr) (i : Instr) (code : Nat),
    s.stop = none → s.cur = some c → warpAt s c.w = some x → (∀ l ∈ lanesOf c.lanes, (x.thr l).st = .running) →
    (∀ l ∈ lanesOf c.lanes, (x.thr l).sstep = false) → s.branched = [] →
    code = (if gTop (Instr.uses i) > x.alloc then 0x022 else 0x023) → (gTop (Instr.uses i) > x.alloc ∨ writesS (Instr.uses i) = true) →
    Handled s h c x code →
    ((∃ o, i = .iadd h o) ∨ (∃ o, i = .movi h o) ∨ (∃ o, i = .fadd h o) ∨ (∃ o, i = .ld h o) ∨ (∃ o, i = .st h o) ∨
      (∃ o, i = .icmp h o) ∨ (∃ o, i = .cvt h o) ∨ (∃ a, i = .jmpr h a) ∨ (∃ d, i = .mwait h d)) →
    Traps s i h c x code 0

/-- How one thread's trap is delivered, by the first row that matches: 060h, 148h, 161h and 162h park it under their code; any other code
parks it under 163h while INH = 1 and under its own code while TRAPENTRY = 0, and otherwise enters the handler. While INH = 0 the delivery
writes s.tcause, s.tepc and s.taddr, and INH stays 0 when the thread parks; while INH = 1 s.tcause and s.tepc keep their values and s.taddr
receives the second code for 163h alone. A fault record tells the code, the address and INH (11_traps_and_preemption.md R220, R221, R223).
BRK raises 160h in every executing thread (16_reference_a_c.md R322). -/
def Obligations.TrapsDeliveredByCodeAndState : Prop :=
  (∀ (s : State) (w : WKey) (x : Warp) (pc : W64) (u : TrapOf),
    warpAt s w = some x → u.lane < 32 → u.code < 512 → u.blk = none → dieOf w.core < 8 → (∀ tr ∈ s.trace.toList, tr.live = false) →
    let t := takeTraps s w pc [u]
    let h := x.thr u.lane
    let g := thrAt t w u.lane
    let entry := (ctxOf s (grp s w).ctx).trapentry
    let first := u.code ∈ [0x060, 0x148, 0x161, 0x162]
    let parked := first ∨ h.inh = true ∨ bits entry 56 2 = 0
    (parked → g.st = .parked ∧ g.pc = pc ∧ g.inh = h.inh) ∧
    (¬parked → g.st = .running ∧ g.pc = entry &&& 0x01FFFFFFFFFFFFFC#64 ∧ g.inh = true ∧ g.wait = 0) ∧
    (h.inh = false → g.cause = BitVec.ofNat 9 u.code ∧ g.tepc = pc ∧ g.taddr = u.addr) ∧
    (h.inh = true → g.cause = h.cause ∧ g.tepc = h.tepc ∧ g.taddr = if first then h.taddr else BitVec.ofNat 64 u.code) ∧
    g.g = h.g ∧ g.p = h.p ∧ g.rgnctr = h.rgnctr ∧ g.rgnpc = h.rgnpc ∧
    (∀ l < 32, l ≠ u.lane → thrAt t w l = x.thr l) ∧
    (parked → ∃ r, (fqOf t (dieOf w.core)).fresh = (fqOf s (dieOf w.core)).fresh ++ [r] ∧ r.inh = h.inh ∧ r.ipc = pc ∧
      r.lanes = maskOf [u.lane].contains ∧ r.cycle = s.cycle ∧
      (h.inh = false ∨ first → r.code = u.code ∧ r.addr = u.addr) ∧ (h.inh = true ∧ ¬first → r.code = 0x163)) ∧
    (¬parked → (fqOf t (dieOf w.core)).fresh = (fqOf s (dieOf w.core)).fresh)) ∧
  ∀ (s : State) (c : Cursor) (x : Warp) (h : Hdr) (imm : W32),
    Ready s (.brk h imm) c x → Handled s h c x 0x160 → Traps s (.brk h imm) h c x 0x160 0

/-- What an operand reads: zero reads 0, p7 reads 1, a general register is the thread's own and a k register the warp's, and a pair has its
low half in the register named (R296, R4, R37). -/
def Obligations.OperandsRead : Prop :=
  ∀ (s : State) (c : Cursor) (x : Warp) (h : Hdr) (i : Instr) (l : Nat), Ready s i c x → l ∈ activeLanes s c h →
    operand s c h l .zero true = 0 ∧ operand s c h l (.p 7) false = 1 ∧
    (∀ n, operand s c h l (.g n) false = ((x.thr l).reg n.val).toNat) ∧
    (∀ n, operand s c h l (.g n) true = ((x.thr l).reg n.val).toNat + 2 ^ 32 * ((x.thr l).reg (n.val + 1)).toNat) ∧
    (∀ n, operand s c h l (.k n) false = (x.kreg n.val).toNat) ∧
    (∀ n : Fin 8, n ≠ 7 → operand s c h l (.p n) false = if (x.thr l).p.get n then 1 else 0) ∧
    operand s c h l (.s .lane) false = l ∧ operand s c h l (.s .cycle) false = s.cycle % 2 ^ 32

/-! ### Control (15_instruction_formats.md R295, R298 to R300) -/

/-- NOP changes nothing; YIELD marks every thread of its path; RGN counts a region and keeps its address; TRET leaves the handler for
the instruction that trapped, or the one after it; PLOP writes the bit of its table that two predicates select (R362, R407, R371, R222,
R365). -/
def Obligations.NopYieldRgnTretPlopChangeThreadsAlone : Prop :=
  (∀ (s : State) (c : Cursor) (x : Warp) (h : Hdr) (i : Instr), Ready s i c x →
    (i = .nop h → ∃ t, exec i s = .next t ∧ Executes s h c x x.k (fun _ th => th) t) ∧
    (i = .yield h → ∃ t, exec i s = .next t ∧ Executes s { h with yh := true } c x x.k (fun _ th => executed s h i th) t) ∧
    (i = .rgn h → ∃ t, exec i s = .next t ∧ Executes s h c x x.k (fun _ th =>
      executed s h i { th with rgnctr := th.rgnctr + 1, rgnpc := c.pc + 12, rgnSeq := s.nextId }) t) ∧
    (∀ nx, i = .tret h nx → (∀ l ∈ activeLanes s c h, (x.thr l).inh = true) → ∃ t, exec i s = .next t ∧
      Executes s h c x x.k (fun _ th => executed s h i { th with inh := false, pc := if nx then th.tepc + 12 else th.tepc }) t) ∧
    (∀ nx, i = .tret h nx → Handled s h c x 0x164 → Traps s i h c x 0x164 0)) ∧
  ∀ (s : State) (c : Cursor) (x : Warp) (h : Hdr) (o : PlopOps), Ready s (.plop h o) c x →
    ∃ t, exec (.plop h o) s = .next t ∧ Executes s h c x x.k (fun l th => executed s h (.plop h o)
      (wroteP o.d 0 (o.lut.getLsbD ((operandP s c h l o.a).toNat * 2 + (operandP s c h l o.b).toNat)) th)) t

/-- BRA goes a signed number of instructions from itself, JMPR to the address in a register pair, and SWT past itself and as many
instructions as its index, at most its count (R320, R349, R387); a misaligned JMPR raises 0AEh. -/
def Obligations.BranchesSetProgramCounter : Prop :=
  ∀ (s : State) (c : Cursor) (x : Warp) (h : Hdr) (i : Instr), Ready s i c x →
    (traced s c.w && (traceOf s (dieOf c.w.core)).brs) = false →
    (∀ off, i = .bra h off → ∃ t, exec i s = .next t ∧
      Executes s h c x x.k (fun _ th => { th with pc := c.pc + 12 * off.signExtend 64 }) t) ∧
    (∀ a, i = .jmpr h a → (∀ l ∈ activeLanes s c h, operand s c h l a true % 4 = 0) → ∃ t, exec i s = .next t ∧
      Executes s h c x x.k (fun l th => executed s h i { th with pc := BitVec.ofNat 64 (operand s c h l a true) }) t) ∧
    (∀ a n, i = .swt h a n → ∃ t, exec i s = .next t ∧
      Executes s h c x x.k (fun l th => executed s h i
        { th with pc := c.pc + BitVec.ofNat 64 (12 * (1 + min (operand s c h l a false) n.toNat)) }) t) ∧
    (∀ a, i = .jmpr h a → (∀ l ∈ activeLanes s c h, operand s c h l a true % 4 ≠ 0) → Handled s h c x 0x0AE → Traps s i h c x 0x0AE 0)

/-- CALL and CALLR push the address after themselves on the thread's private stack and go to their target; RET pops it. The depth lies at
private offset 0 and entry d at offset 8 + 8 d (16_reference_a_c.md R323 to R325, 18_reference_m_s.md R370). -/
def Obligations.CallsPushAndReturnsPop : Prop :=
  ∀ (s : State) (c : Cursor) (x : Warp) (h : Hdr) (i : Instr) (l : Nat) (s0 s1 s2 : State) (a0 a1 : Acc) (d : Nat),
    Solo s i h c x l → (traced s c.w && (traceOf s (dieOf c.w.core)).brs) = false →
    privCheck (issuedState s c h) (acting s c h) l 0 4 true = (s0, .ok a0) →
    loadBytes s0 c.w l a0 1 false = (s1, toBytes 4 d) → d < 2 ^ 32 →
    ((∃ off, i = .call h off) ∨ (∃ a, i = .callr h a ∧ operand s c h l a true % 4 = 0) →
      privCheck s1 (acting s c h) l (8 + 8 * d) 8 true = (s2, .ok a1) →
      CompletesWith s i h c l (updThr
        (storeBytes (storeBytes s2 c.w l a1 1 false (toBytes 8 (c.pc + 12).toNat)) c.w l a0 1 false (toBytes 4 (d + 1))) c.w l
        fun th => { th with pc := match i with
          | .call _ off => c.pc + 12 * off.signExtend 64
          | .callr _ a => BitVec.ofNat 64 (operand s c h l a true)
          | _ => th.pc })) ∧
    (i = .ret h → 0 < d → privCheck s1 (acting s c h) l (8 + 8 * (d - 1)) 8 false = (s2, .ok a1) →
      ∀ pc : W64, (loadBytes s2 c.w l a1 1 false).2 = toBytes 8 pc.toNat → pc.toNat % 4 = 0 →
      CompletesWith s i h c l (updThr
        (storeBytes (loadBytes s2 c.w l a1 1 false).1 c.w l a0 1 false (toBytes 4 (d - 1))) c.w l fun th => { th with pc := pc })) ∧
    (i = .ret h → d = 0 → Handled s h c x 0x14B → Traps s i h c x 0x14B 0)

/-- PBLK completes when the covered words are fetched and pass their static checks: every thread of the path issues and takes a block of the
covered instructions with its own predicate, in which the threads whose guard is false execute none of them; nothing else changes but what
the fetch of the words changes and the model's counter (R298, R299, R363). -/
def Obligations.PblkStartsBlock : Prop :=
  ∀ (s s2 : State) (c : Cursor) (x : Warp) (h : Hdr) (o : PblkOps) (is : List Instr) (user : Bool),
    Ready s (.pblk h o) c x →
    coveredWords (issuePath s c h) c (o.cnt.val + 1) (c.pc + 12) = (s2, .ok (is, user)) → s2.stop = none →
    let block := fun (l : Nat) => ({ left := o.cnt.val + 1, idx := 0, pat := o.pat, val := operandP s c h l o.d
                                     on := (activeLanes s c h).contains l, at_ := c.pc, code := is, user := user } : Block)
    let s3 := (lanesOf c.lanes).foldl (fun u l => updThr u c.w l fun th => { th with blk := some (block l) }) s2
    ∃ t, exec (.pblk h o) s = .next t ∧ KeepsRegs s t ∧
      t = (activeLanes s c h).foldl (fun u l => completeLane (.pblk h o) h c (Config.freeNat s.freeCtr) l u)
        { s3 with freeCtr := s2.freeCtr + 1 } ∧
      ∀ l ∈ lanesOf c.lanes, (thrAt t c.w l).blk = some (block l) ∧ (thrAt t c.w l).pc = c.pc + 12

/-! ### Loads, stores and atomics (04_memory_hierarchy.md, 05_consistency.md, 16 to 19) -/

/-- A load from scratch or a vault writes to each executing thread's destination the bytes at its address, lowest address first, filled
as its format gives, and changes nothing else: LD, LDQ, and LDACQ at a scope that orders nothing beyond the core, where no thread loads what
a store of its own to scratch has not completed, and no write or release that a vault load reads has a clock to remember (R99 to R101, R352 to
R355). -/
def Obligations.ScratchAndVaultLoadsWriteBytes : Prop :=
  ∀ (s : State) (c : Cursor) (x : Warp) (h : Hdr) (i : Instr) (a : AddrOps) (n : Nat) (at_ : Nat → Nat) (byte : Nat → Nat → Byte),
    Ready s i c x →
    (a.sp = .scr ∧ byte = scrByte s c.w ∧ (∀ l ∈ activeLanes s c h,
        (at_ l : Int) = (operand s c h l a.a false : Int) + a.off.toInt ∧ at_ l % n = 0 ∧ at_ l + n ≤ 256 * (grp s c.w).scr ∧
        scrOwn s c.w l ((List.range n).map (at_ l + ·)) = none) ∨
     a.sp = .vlt ∧ byte = (fun _ k => s.mem.get (2 ^ 53 + k)) ∧ s.tide.en = false ∧ (∀ p ∈ s.ms.posted, p.wait = false) ∧
      s.ms.releases = [] ∧ (∀ ln, s.ms.lineVc.getD ln [] = []) ∧
      (ctxOf s (grp s c.w).ctx).vlten = true ∧ ∀ l ∈ activeLanes s c h,
        (at_ l : Int) = ((operand s c h l a.a true : Int) + a.off.toInt) % 2 ^ 64 ∧ at_ l % n = 0 ∧ at_ l < 2 ^ 33 ∧
        at_ l % 2 ^ 26 < 0x3000000) →
    (∀ o : LdOps, o.addr = a → o.size.bytes = n → o.fmt ≠ .q4 → o.fmt ≠ .q3 →
      (i = .ld h o ∨ i = .ldacq h o ∧ (a.sp = .scr ∨ o.sc = .grp ∨ o.sc = .core)) →
      WritesReg s i h c x o.d o.fmt.is64 fun l => Num.fill o.fmt (ofBytes ((List.range n).map fun j => byte l (at_ l + j)))) ∧
    (∀ o : LdqOps, o.addr = a → n = 16 → i = .ldq h o →
      ∃ (t : State) (words : Nat → List W32), exec i s = .next t ∧
        (∀ l, words l = (List.range 4).map fun j => BitVec.ofNat 32 (ofBytes ((List.range 4).map fun b => byte l (at_ l + 4 * j + b)))) ∧
        Executes s h c x (match activeLanes s c h with | [] => x.k | l :: _ => wroteRegsK o.d (words l) x.k)
          (fun l th => executed s h i (wroteRegs o.d (words l) th)) t)

/-- Loads and stores of one thread in any space complete when their address passes every check of R352 or R384 and they need not wait for an
earlier access (`accNeed`: an own scratch store that is not complete, R100; on a page with SC = 1 a store of the core that is held, R124; bytes
on their way from the host, R257), with the bytes that
memory gives or takes; no register changes but a load's destination (R353 to R355, R384 to R386). LDACQ waits for nothing where no
release is recorded (05_consistency.md R118). -/
def Obligations.LoadsAndStoresComplete : Prop :=
  ∀ (s : State) (c : Cursor) (x : Warp) (h : Hdr) (i : Instr) (l : Nat) (s1 s2 : State) (a : Acc) (bs : List Byte),
    Solo s i h c x l →
    (∀ o : LdOps, o.fmt ≠ .q4 → o.fmt ≠ .q3 →
      loadAcc (issuedState s c h) (acting s c h) l o.addr o.size.bytes = (s1, .ok a) →
      accNeed true (loadAcc s (acting s c h) l o.addr o.size.bytes) c.w l s = none →
      (i = .ld h o ∧ loadFor s1 (acting s c h) l a h.rh false = (s2, bs) ∨
       i = .ldacq h o ∧ s.ms.releases = [] ∧
        ∃ s3, loadFor s1 (acting s c h) l a h.rh (wideDie (effScope a.sp o.sc)) = (s3, bs) ∧
          s2 = acquire s3 c.w l (effScope a.sp o.sc) a.keys) →
      CompletesWith s i h c l (dst s2 (acting s c h) l o.d o.fmt.is64 (Num.fill o.fmt (ofBytes bs))) ∧
      ∀ t, exec i s = .next t →
        KeepsRegs (dst (issuedState s c h) (acting s c h) l o.d o.fmt.is64 (Num.fill o.fmt (ofBytes bs))) t) ∧
    (∀ o : LdqOps, i = .ldq h o → loadAcc (issuedState s c h) (acting s c h) l o.addr 16 = (s1, .ok a) →
      accNeed true (loadAcc s (acting s c h) l o.addr 16) c.w l s = none →
      loadFor s1 (acting s c h) l a h.rh false = (s2, bs) →
      let four := fun s => (List.range 4).foldl
        (fun s j => dstAt s (acting s c h) l o.d j (BitVec.ofNat 32 (ofBytes bs / 2 ^ (32 * j)))) s
      CompletesWith s i h c l (four s2) ∧ ∀ t, exec i s = .next t → KeepsRegs (four (issuedState s c h)) t) ∧
    (∀ o : StOps, o.fmt ≠ .q4 → o.fmt ≠ .q3 → bs = toBytes o.size.bytes (operand s c h l o.b o.fmt.is64) →
      storeAcc (issuedState s c h) (acting s c h) l o.addr o.size.bytes = (s1, .ok a) →
      accNeed true (storeAcc s (acting s c h) l o.addr o.size.bytes) c.w l s = none →
      (i = .st h o ∧ s2 = storeBytes s1 c.w l a h.rh false bs ∨
       i = .strel h o ∧ ∃ sc, sc = effScope a.sp o.sc ∧ ∃ s3, s3 = storeBytes (releaseBefore s1 c.w l sc) c.w l a h.rh (wideDie sc) bs ∧
        s2 = if wideDie sc then addRelease s3 c.w l a (sc == .sys) else s3) →
      CompletesWith s i h c l s2 ∧ ∀ t, exec i s = .next t → KeepsRegs s t) ∧
    (∀ o : StqOps, i = .stq h o →
      bs = (List.range 4).flatMap (fun j => toBytes 4 (srcAt (issuedState s c h) (acting s c h) l o.b j).toNat) →
      storeAcc (issuedState s c h) (acting s c h) l o.addr 16 = (s1, .ok a) →
      accNeed true (storeAcc s (acting s c h) l o.addr 16) c.w l s = none →
      CompletesWith s i h c l (storeBytes s1 c.w l a h.rh false bs) ∧ ∀ t, exec i s = .next t → KeepsRegs s t)

/-- What a load through a page returns when no tenure holds its bytes (R91, R103, R121, R353): at the home, the core's own dirty byte or
the byte of memory; in the L1, the byte it holds; on a miss, the byte of memory, which the L1 then holds, unless the hint is 11b. -/
def Obligations.LoadsReturnCurrentBytes : Prop :=
  ∀ (s : State) (w : WKey) (l : Nat) (a : Acc) (p : Page) (hint : BitVec 2) (home : Bool),
    a.page = some p → (a.sp = .virt ∨ a.sp = .prv) → p.host = false → s.ten = [] → s.ms.hostLines = [] → (∀ k ∈ a.keys, k < 2 ^ 52) →
    ((atHome p = true ∨ home = true) → (loadBytes s w l a hint home).2 =
      a.keys.map fun k => match l1Dirty s w.core k with | some d => d.val | none => s.mem.get k) ∧
    (atHome p = false → home = false → (∀ k ∈ a.keys, (l1Byte s w.core k).isSome) →
      (loadBytes s w l a hint home).2 = a.keys.map fun k => (l1Byte s w.core k).getD 0) ∧
    (atHome p = false → home = false → (∀ k ∈ a.keys, homeDie k = dieOf w.core) →
      (hint = 3 → (∀ k ∈ a.keys, l1Byte s w.core k = none) → (loadBytes s w l a hint home).2 = a.keys.map s.mem.get) ∧
      (∀ k0 n, hint ≠ 3 → l1Of s w.core = [] → n ∈ [1, 2, 4, 8, 16] → k0 % n = 0 → a.keys = (List.range n).map (k0 + ·) →
        p.grain ∈ [32, 128, 512] →
        (loadBytes s w l a hint home).2 = a.keys.map s.mem.get ∧
        ∀ k ∈ a.keys, l1Byte (loadBytes s w l a hint home).1 w.core k = some (s.mem.get k)))

/-- Where a store's bytes go when no tenure holds their places (R99, R101, R103, R384): to the group's scratch, to the vault of the core's own
cluster, posted on its way to a vault elsewhere, to memory for a page whose accesses go to its home, for a release and for hint 11b, and otherwise to the L1; every other byte stays. -/
def Obligations.StoresPlaceBytes : Prop :=
  ∀ (s : State) (x : Warp) (w : WKey) (l : Nat) (a : Acc) (hint : BitVec 2) (home : Bool) (bs : List Byte),
    warpAt s w = some x → a.keys.Nodup → bs.length = a.keys.length → s.mem.wf = true → s.ms.hostLines = [] →
    let t := storeBytes s w l a hint home bs
    (a.sp = .scr → a.page = none → (s.groups.get? x.gid).isSome → (grp s w).scratch.wf = true →
      (∀ k, (grp t w).scratch.get k = placedAt a.keys bs k ((grp s w).scratch.get k)) ∧ ∀ k, homeByte t k = homeByte s k) ∧
    (a.sp = .vlt → (∀ k ∈ a.keys, 2 ^ 53 ≤ k) → (∀ p ∈ s.ms.posted, p.wait = false) →
      if lateral w.core (a.keys.headD 0) then (∀ k, homeByte t k = homeByte s k) ∧ ∃ p, t.ms.posted = s.ms.posted ++ [p] ∧
        p.w = w ∧ p.lane = l ∧ p.wait = true ∧ p.bytes = a.keys.zip bs ∧ s.cycle < p.due
      else ∀ k, homeByte t k = placedAt a.keys bs k (homeByte s k)) ∧
    (∀ p, a.page = some p → (a.sp = .virt ∨ a.sp = .prv) → p.host = false → s.ten = [] → (∀ k ∈ a.keys, k < 2 ^ 52) →
      ((atHome p = true ∨ home = true ∨ hint = 3) → ∀ k, homeByte t k = placedAt a.keys bs k (homeByte s k)) ∧
      (atHome p = false → home = false → hint ≠ 3 → ∀ b, (∀ k ∈ a.keys, k / 512 = b) →
        (∀ k ∈ a.keys, l1Byte t w.core k = some (placedAt a.keys bs k 0)) ∧
        (((l1Of s w.core).get? b).isSome → ∀ k, homeByte t k = homeByte s k)))

/-- An address that is not a multiple of the access's size raises 0A0h, and one at or above 2^57 raises 061h, before anything is accessed
(R87, R352). -/
def Obligations.MisalignedAccessTraps : Prop :=
  ∀ (s : State) (c : Cursor) (x : Warp) (h : Hdr) (i : Instr) (a : AddrOps) (n va : Nat) (code : Nat),
    Ready s i c x → Handled s h c x code → a.sp = .virt → ((∀ r, a.a ≠ .s r) ∨ ∀ l ∈ lanesOf c.lanes, (x.thr l).issued = none) →
    (∀ l ∈ activeLanes s c h, (va : Int) = ((operand s c h l a.a true : Int) + a.off.toInt) % 2 ^ 64) →
    (va % n ≠ 0 ∧ code = 0x0A0 ∨ va % n = 0 ∧ 2 ^ 57 ≤ va ∧ code = 0x061) →
    ((∃ o : LdOps, o.addr = a ∧ o.size.bytes = n ∧ o.fmt ≠ .q4 ∧ o.fmt ≠ .q3 ∧ i ∈ ([.ld h o, .ldacq h o] : List Instr)) ∨
     (∃ o : StOps, o.addr = a ∧ o.size.bytes = n ∧ o.fmt ≠ .q4 ∧ o.fmt ≠ .q3 ∧ i ∈ ([.st h o, .strel h o] : List Instr)) ∨
     (∃ o : LdqOps, o.addr = a ∧ n = 16 ∧ i = .ldq h o) ∨ (∃ o : StqOps, o.addr = a ∧ n = 16 ∧ i = .stq h o) ∨
     (∃ o : AtomOps, o.addr = a ∧ o.size.bytes = n ∧ atomType o.op o.fmt = true ∧ i ∈ ([.atom h o, .red h o] : List Instr)) ∨
     (∃ o : AcasOps, o.addr = a ∧ o.size.bytes = n ∧ acasType o.fmt = true ∧ i = .acas h o)) →
    Traps s i h c x code (BitVec.ofNat 64 va)

/-- ATOM, RED and ACAS of one thread complete where their address passes every check and nothing must be waited for. On scratch the old
bytes combined with the operand take their place, ATOM's destination takes the old value filled as its format gives, RED has none, and
ACAS writes its new value exactly where the old value equals the one it expects; no other byte of scratch and no byte of memory changes
(R310, R311, R316, R369). -/
def Obligations.AtomicsReadAndWrite : Prop :=
  ∀ (s : State) (c : Cursor) (x : Warp) (h : Hdr) (i : Instr) (l : Nat) (s1 : State) (a : Acc) (ad : AddrOps) (n : Nat) (f : Fmt)
      (op : Option RedOp) (ord : Order) (sc : Scope) (d : Opd) (v new : Nat),
    Solo s i h c x l → s.ms.owners = [] → s.ms.releases = [] →
    (match op with | some p => atomType p f | none => acasType f) = true →
    ((∃ o : AtomOps, o.addr = ad ∧ o.size.bytes = n ∧ o.fmt = f ∧ op = some o.op ∧ o.ord = ord ∧ o.sc = sc ∧
        v = operand s c h l o.b f.is64 ∧ new = 0 ∧ (i = .atom h o ∧ d = o.d ∨ i = .red h o ∧ d = .zero)) ∨
     (∃ o : AcasOps, o.addr = ad ∧ o.size.bytes = n ∧ o.fmt = f ∧ op = none ∧ o.ord = ord ∧ o.sc = sc ∧ d = o.d ∧ i = .acas h o ∧
        (v, new) = acasVals (issuedState s c h) (acting s c h) l o.b f.is64)) →
    atomAcc (issuedState s c h) (acting s c h) l ad n sc = (s1, .ok a) → accNeed true (atomAcc s (acting s c h) l ad n sc) c.w l s = none →
    let s2 := atomLane op f n a ord sc h.rh h.la.toNat d v new (acting s c h) s1 l
    CompletesWith s i h c l s2 ∧
    (a.sp = .scr → a.keys.Nodup → (s.groups.get? x.gid).isSome → (grp s c.w).scratch.wf = true → n = f.width / 8 →
      let old := ofBytes (a.keys.map (grp s c.w).scratch.get)
      let bs := match op with
        | some p => some (toBytes n (Num.combine p f old v))
        | none => if old = v % 2 ^ f.width then some (toBytes n (new % 2 ^ f.width)) else none
      (∀ k, (grp s2 c.w).scratch.get k = match bs with
        | some b => placedAt a.keys b k ((grp s c.w).scratch.get k)
        | none => (grp s c.w).scratch.get k) ∧
      (∀ k, homeByte s2 k = homeByte s k) ∧
      KeepsRegs (dst (issuedState s c h) (acting s c h) l d f.is64 (Num.fill f old)) s2)

/-- FENCE of one thread completes when no access of its own is held or unanswered and no release that its loads may have read has writes
behind it: a release leaves no store of the thread unacknowledged and, at .die or wider, no dirty byte in the core's L1; an acquire at .die or
wider leaves clean sectors only under an armed watch (R340). PREF of one thread completes on every address, with no effect at or above 2^57 or
with hint 11b, by a prefetch where the page is cached, and by a request for the walk where it is not (R368). FLUSH and INVAL of no line, or of one line
that translates, complete once the thread's earlier accesses are performed: where no tenure is held no L1 holds a dirty byte of a cacheable line
afterwards, and after INVAL no L1 holds a byte of it (R341). PINW and UNPINW of no line, or of one line that translates, complete and
answer 1 where the line could not be pinned, or was unpinned (R364, R400). No register but a destination changes. -/
def Obligations.FenceAndLineMaintenance : Prop :=
  ∀ (s : State) (c : Cursor) (x : Warp) (h : Hdr) (i : Instr) (l : Nat), Solo s i h c x l →
    let s0 := issuedState s c h
    let addr := fun (a : Opd) (off : BitVec 24) => (((operand s c h l a true : Int) + off.toInt) % 2 ^ 64).toNat
    (∀ ord sc, i = .fence h ord sc → (ord = .acq ∨ accessOpen s c.w l = false) → hostOpen s c.w l true = false →
      (wideDie sc = true → ∀ q ∈ (x.thr l).relSeen, behind s q.1 q.2 = false ∧ heldBehind s (some x.gid) q.1 q.2 = false) →
      let t := fence s0 c.w l ord sc
      CompletesWith s i h c l t ∧ KeepsRegs s t ∧
      (ord ≠ .acq → ∀ p ∈ t.ms.posted, ¬(p.w = c.w ∧ p.lane = l ∧ p.gid = x.gid)) ∧
      (ord ≠ .acq → wideDie sc → ∀ k, l1Dirty t c.w.core k = none) ∧
      (ord ≠ .rel → wideDie sc → ∀ k b, l1Byte t c.w.core k = some b → l1Dirty t c.w.core k = none →
        ∃ j, j / 32 = k / 32 ∧ watched t c.w.core j = true)) ∧
    (∀ o, i = .pref h o →
      ((2 ^ 57 ≤ addr o.a o.off ∨ h.rh = 3) → CompletesWith s i h c l s0) ∧
      (addr o.a o.off < 2 ^ 57 → h.rh ≠ 3 →
        (∀ p, cachedPage s c.w.core (grp s c.w).ctx (addr o.a o.off) = some p →
          CompletesWith s i h c l (prefPage s0 c.w.core x.gid (addr o.a o.off) p h.rh o.l2 c.user)) ∧
        (cachedPage s c.w.core (grp s c.w).ctx (addr o.a o.off) = none → ∃ t q, CompletesWith s i h c l t ∧
          t = { s0 with ms := { s0.ms with walks := t.ms.walks }, freeCtr := t.freeCtr } ∧ q.ctx = (grp s c.w).ctx ∧
          q.va = addr o.a o.off ∧ q.core = c.w.core ∧ q.gid = x.gid ∧ q.pref = some (if c.user then 1 else 0, h.rh, o.l2) ∧
          (dieOf c.w.core < 8 → t.ms.walks.getD (dieOf c.w.core) [] = s.ms.walks.getD (dieOf c.w.core) [] ++ [q]))) ∧
      ∀ t, exec i s = .next t → KeepsRegs s t) ∧
    (∀ o inval, i = (if inval then .inval h o else .flush h o) → accessOpen s c.w l = false →
      let n := operand s c h l o.b false
      let va := addr o.a o.off
      (n = 0 → CompletesWith s i h c l (settlePosted s0 c.w l)) ∧
      (∀ s1 acc p, 0 < n → va % 128 + n ≤ 128 → virtAcc (settlePosted s0 c.w l) c.w va 1 = (s1, .ok acc) →
        permit acc c.user false = none → acc.page = some p →
        let k := p.key va / 128 * 128
        let t := ownAsks (rangeLine inval o.sys x.gid p s1 k) (settlePosted s0 c.w l).hostReqs.length c.w l
        CompletesWith s i h c l t ∧ KeepsRegs s t ∧
        (p.c = true → s.ten = [] → ∀ core j, j < 128 → l1Dirty t core (k + j) = none) ∧
        (p.c = true → inval = true → ∀ core j, j < 128 → l1Byte t core (k + j) = none))) ∧
    (∀ o pin, i = (if pin then .pinw h o else .unpinw h o) →
      let n := operand s c h l o.b false
      let va := addr o.a o.off
      (n = 0 → CompletesWith s i h c l (dst s0 (acting s c h) l o.d false 0)) ∧
      (∀ s1 acc p, 0 < n → va % 128 + n ≤ 128 → virtAcc s0 c.w va 1 = (s1, .ok acc) →
        permit acc c.user false = none → acc.page = some p →
        let k := p.key va / 128 * 128
        let r := if pin then pinLine p s1 k else unpinLine p s1 k
        let pinned := fun (t : State) => ∃ ln, t.ms.l2.get? (k / 128) = some ln ∧ ln.pinned = true
        CompletesWith s i h c l (dst r.1 (acting s c h) l o.d false r.2) ∧ r.2 ≤ 1 ∧
        (∀ t, exec i s = .next t → KeepsRegs (dst s0 (acting s c h) l o.d false r.2) t) ∧
        (p.c = true → pin = true → (r.2 = 0 ↔ pinned r.1)) ∧ (pin = false → r.2 = 1 → pinned s1 ∧ ¬pinned r.1)))

/-- MARM arms the thread's watch on the grain unit that holds its address; MWAIT without a watch answers 2, with a recorded event answers 0
and disarms, and otherwise puts the thread to sleep; a sleeping thread wakes with 0 in the cycle after an event, and with 1 after 65,536
cycles (02_execution_model.md R54 to R56, R357, R360). An event of a block is recorded by every armed watch of the core on it (R55). -/
def Obligations.WatchesSleepAndWake : Prop :=
  (∀ (s : State) (c : Cursor) (x : Warp) (h : Hdr) (i : Instr), Ready s i c x →
    (∀ l o s1 a p, activeLanes s c h = [l] → i = .marm h o → (o.sp = .virt ∨ o.sp = .prv) →
      loadAcc (issuedState s c h) (acting s c h) l o 1 = (s1, .ok a) → a.page = some p → p.c = true → p.host = false →
      ∃ s2, CompletesWith s i h c l s2 ∧ KeepsRegs s s2 ∧
        (l < 32 → (thrAt s2 c.w l).watch = some { block := a.keys.headD 0 / p.grain * p.grain, len := p.grain, event := none, page := p })) ∧
    (∀ o, i = .marm h o → (o.sp = .scr ∨ o.sp = .vlt) → Handled s h c x 0x0A7 → Traps s i h c x 0x0A7 0) ∧
    (∀ d, i = .mwait h d →
      ((∀ l ∈ activeLanes s c h, (x.thr l).watch = none) → WritesReg s i h c x d false fun _ => 2) ∧
      ((∀ l ∈ activeLanes s c h, ∃ w, (x.thr l).watch = some w ∧ w.event.isSome) → ∃ t, exec i s = .next t ∧
        Executes s h c x (wroteK d false ((activeLanes s c h).map fun _ => 0) x.k)
          (fun _ th => executed s h i { wrote d false 0 th with watch := none }) t) ∧
      ((∀ l ∈ activeLanes s c h, ∃ w, (x.thr l).watch = some w ∧ w.event = none) → ∃ t, exec i s = .next t ∧
        Executes s h c x x.k (fun _ th => { th with st := .sleep d s.cycle }) t))) ∧
  (∀ (s : State) (w : WKey) (lane : Nat) (d : Opd) (since : Nat), s.stop = none → (thrAt s w lane).st = .sleep d since →
    let woken := fun (v : W32) => updThr (wakeDst s w lane d v) w lane fun t => { t with st := .running, watch := none }
    (∀ m e, (thrAt s w lane).watch = some m → m.event = some e → e < s.cycle → exec (.mwaitWake w lane) s = .next (woken 0)) ∧
    (since + 65536 ≤ s.cycle → exec (.mwaitTimeout w lane) s = .next (woken 1)) ∧
    (s.cycle < since + 65536 → exec (.mwaitTimeout w lane) s = .next s)) ∧
  (∀ (s : State) (core block : Nat), s.stop = none →
    ∃ t, exec (.watchEvent core block) s = .next t ∧ t = { s with warps := t.warps } ∧
      ∀ w l, w.quad < 4 → w.slot < 8 → thrAt t w l =
        match (thrAt s w l).watch with
        | some m => if w.core = core ∧ m.block = block ∧ m.event = none then
            { thrAt s w l with watch := some { m with event := some s.cycle } } else thrAt s w l
        | none => thrAt s w l)

/-- The events of the memory system that come with time complete: dirty bytes of 8,192 cycles drain, and a byte so drained is in memory;
leases end; a core drains what was dirty at a release that another acquires, and its vault stores on their way; a posted store is acknowledged
with its tag, and one to a vault elsewhere is placed; forwarded
writes reach a die's copy; a walk caches its translation; ownership is recalled and granted; and a path that waits goes on when what it
waits for holds (R93, R111, R117 to R123; 02_execution_model.md R39). That a waiting thread is then running and issues its instruction again (log
21), and what EPOCH_MARKER does (log 46), are the model's readings. -/
def Obligations.MemoryEventsComplete : Prop :=
  ∀ s : State, s.stop = none →
    (∀ core, ∃ t, exec (.l1DrainTimeout core) s = .next t ∧ KeepsRegs s t ∧
      (s.ms.damage = [] → ∀ k d, l1Dirty t core k = some d → s.cycle < d.at_ + 8192) ∧
      ∀ b tag j d, l1Of s core = [(b, tag)] → tag.dirty = [(j, d)] → d.at_ + 8192 ≤ s.cycle → j < 512 → b * 512 + j < 2 ^ 52 →
        s.ten = [] → s.ms.hostLines = [] → s.ms.damage = [] → s.mem.wf = true →
        ∀ k, homeByte t k = if k = b * 512 + j then d.val else homeByte s k) ∧
    (∀ core, ∃ t, exec (.leaseExpiry core) s = .next t ∧ t = { s with ms := { s.ms with l1 := t.ms.l1 }, warps := t.warps } ∧
      KeepsRegs s t ∧ ∀ b tag e, (l1Of t core).get? b = some tag → e ∈ tag.clean → s.cycle < e.2.fill + 4096) ∧
    (∀ core, ∃ t, exec (.drainRequest core) s = .next t ∧ KeepsRegs s t ∧ (∀ q ∈ t.ms.drainReq, q.1 ≠ core) ∧
      ∀ q ∈ s.ms.drainReq, q.1 = core → q ∈ t.ms.drainAck ∧
        (s.ms.damage = [] → ∀ k d, l1Dirty t core k = some d → q.2 < d.at_) ∧
        ∀ p ∈ t.ms.posted, p.wait = true → p.w.core = core → q.2 < p.at_) ∧
    (∀ core, exec (.drainAck core) s = .next { s with ms := { s.ms with drainAck := s.ms.drainAck.filter (·.1 != core) } }) ∧
    (∀ p, nextPosted s = some p → s.ms.posted.Nodup →
      let rest := s.ms.posted.filter fun q => q != p
      let acked := s.ms.ackTag.put (wIdx p.w * 32 + p.lane) p.tag
      (p.wait = false → p.sset = none → exec .storeAck s = .next { s with ms := { s.ms with posted := rest, ackTag := acked } }) ∧
      (∀ n, p.wait = false → p.sset = some n → 1 < (s.ssets.getD n {}).puts → exec .storeAck s = .next { s with
        ms := { s.ms with posted := rest, ackTag := acked }
        ssets := s.ssets.put n { s.ssets.getD n {} with puts := (s.ssets.getD n {}).puts - 1 } }) ∧
      (p.wait = true → p.sset = none → s.ms.hostLines = [] → s.mem.wf = true → (p.bytes.map Prod.fst).Nodup →
        (∀ e ∈ p.bytes, 2 ^ 53 ≤ e.1) → ∃ t, exec .storeAck s = .next t ∧ t.ms.posted = rest ∧ KeepsRegs s t ∧
        ∀ k, homeByte t k = placedAt (p.bytes.map Prod.fst) (p.bytes.map Prod.snd) k (homeByte s k))) ∧
    (∀ die home j data, die < 8 → (forwardNext s die = some j ∨ forwardStuck s die = true ∧
        (List.range (s.ms.forwards.getD die []).length).find? (fun i =>
          homeDie (((s.ms.forwards.getD die []).getD i default).line * 128) == home) = some j) →
      let f := (s.ms.forwards.getD die []).getD j default
      (s.ms.copies.getD die []).get? f.line = some data →
      ∃ t, exec (if (forwardNext s die).isSome then .forwardedWriteApply die else .epochMarker die home) s = .next t ∧
        t = { s with ms := { s.ms with copies := t.ms.copies, forwards := t.ms.forwards } } ∧
        t.ms.forwards.getD die [] = (s.ms.forwards.getD die []).eraseIdx j ∧
        (t.ms.copies.getD die []).get? f.line = some (overlay f.line data f.bytes)) ∧
    (∀ die q s2 p, die < 8 → s.ms.walks.getD die [] = [q] → q.due ≤ s.cycle →
      translate { s with ms := { s.ms with walks := s.ms.walks.setIfInBounds die [] } } (some q.core) die q.ctx q.va = (s2, .ok p) →
      exec (.pageWalkComplete die) s = .next (match q.pref with
        | some (u, hint, l2) => prefPage s2 q.core q.gid q.va p hint l2 (u == 1)
        | none => s2)) ∧
    (∀ b, ∃ t, exec (.ownershipRecall b) s = .next t ∧ t = { s with ms := { s.ms with owners := t.ms.owners, ownWait := t.ms.ownWait } } ∧
      t.ms.owners = s.ms.owners.filter (fun e => !(e.1 ≤ b && b < e.1 + e.2.2)) ∧ (∀ q ∈ t.ms.ownWait, q.2.1 = b → q.2.2 = true) ∧
      t.ms.ownWait.map (fun q => (q.1, q.2.1)) = s.ms.ownWait.map fun q => (q.1, q.2.1)) ∧
    (∀ b q, s.ms.ownWait.find? (fun q => q.2.1 == b && q.2.2) = some q →
      exec (.ownershipGrant b) s = .next { s with ms := { s.ms with
        ownWait := s.ms.ownWait.filter fun r => !(r.1 == q.1 && r.2.1 == b) } }) ∧
    (∀ w lane y, (thrAt s w lane).st = .stall (.reissue y) → exec (.stallWake w lane) s = .next (if mayReissue s w y then
        updThr s w lane fun t => { t with st := .running } else s)) ∧
    (∀ w lane k t, (thrAt s w lane).st = .stall k → stallEnd s w lane k = some t → t.stop = none → exec (.stallWake w lane) s = .next t)

/-! ### Barriers, exit and warp-wide instructions (02_execution_model.md R47 to R60) -/

/-- BAR: the warp arrives once and its executing threads wait; when every unexited warp of the group has arrived, the generation completes
and the waiting threads of the group run again; a group with named barriers traps with 0E1h. NBAR: one arrival for each thread, complete
at the expected count (R48 to R51, R317, R361). -/
def Obligations.BarriersArriveAndRelease : Prop :=
  ∀ (s : State) (c : Cursor) (x : Warp) (h : Hdr) (i : Instr) (g : Group), Ready s i c x → s.groups.get? x.gid = some g →
    (i = .bar h → lrec s g 132 132 = 0 → x.num < 32 → activeLanes s c h ≠ [] →
      ∃ t, exec i s = .next t ∧ KeepsRegs s t ∧ t.mem = s.mem ∧
        let arrived := g.barArrived ||| BitVec.ofNat 32 (2 ^ x.num)
        let last := ∀ w ∈ g.warps, hasLane arrived (((warpAt s w).map (·.num)).getD 0) = true
        (∀ l ∈ activeLanes s c h, (thrAt t c.w l).pc = c.pc + 12) ∧
        (¬last → (t.groups.getD x.gid {}).barArrived = arrived ∧ (t.groups.getD x.gid {}).barGen = g.barGen ∧
          ∀ l ∈ activeLanes s c h, (thrAt t c.w l).st = .barrier .group) ∧
        (last → (t.groups.getD x.gid {}).barArrived = 0 ∧ (t.groups.getD x.gid {}).barGen = g.barGen + 1 ∧
          (∀ l ∈ activeLanes s c h, (thrAt t c.w l).st = .running) ∧
          ∀ w y l, warpAt s w = some y → y.gid = x.gid → (y.thr l).st = .barrier .group → (thrAt t w l).st = .running)) ∧
    (i = .bar h → lrec s g 132 132 = 1 → Handled s h c x 0x0E1 → Traps s i h c x 0x0E1 0) ∧
    (∀ o k l n, i = .nbar h o → o.a = .nb k → activeLanes s c h = [l] → lrec s g 132 132 = 1 → k.val < lrec s g 137 133 + 1 →
      n = (if o.b = .zero then o.cnt.toNat else operand s c h l o.b false) → 1 ≤ n → n ≤ 1024 →
      let b := g.nb.getD k.val {}
      (b.total = 0 ∨ n = b.expected) →
      ∃ t, exec i s = .next t ∧ KeepsRegs s t ∧ t.mem = s.mem ∧ (thrAt t c.w l).pc = c.pc + 12 ∧
        (b.total + 1 ≠ n → (thrAt t c.w l).st = .barrier (.named k) ∧
          (t.groups.getD x.gid {}).nb.getD k.val {} = { b with expected := n, total := b.total + 1 }) ∧
        (b.total + 1 = n → (thrAt t c.w l).st = .running ∧
          (t.groups.getD x.gid {}).nb.getD k.val {} = { expected := n, total := 0, gen := b.gen + 1 } ∧
          ∀ w y j, warpAt s w = some y → y.gid = x.gid → (y.thr j).st = .barrier (.named k) → (thrAt t w j).st = .running)) ∧
    (∀ o k, i = .nbar h o → o.a = .nb k → lrec s g 132 132 = 0 → Handled s h c x 0x0E1 → Traps s i h c x 0x0E1 0) ∧
    (∀ o k, i = .nbar h o → o.a = .nb k → lrec s g 132 132 = 1 → lrec s g 137 133 + 1 ≤ k.val → Handled s h c x 0x0E2 →
      Traps s i h c x 0x0E2 0)

/-- SSB: the executing threads wait for their superstep set; outside any set it traps with 0E7h. When every member launch has emitted its
groups, every live group has arrived and no lateral store is outstanding, the step rises by one and the waiting threads run.
BARRIER_DEADLOCK: when every unexited thread of a group waits at a barrier that cannot complete, each traps with 0E4h at the
instruction it waits after; the warps' arrivals at the group barrier stay (R52, R53, R102, R383). -/
def Obligations.SuperstepsWaitAndAdvance : Prop :=
  ((∀ (s : State) (c : Cursor) (x : Warp) (h : Hdr) (g : Group), Ready s (.ssb h) c x → s.groups.get? x.gid = some g →
    (lrec s g 152 152 = 0 → Handled s h c x 0x0E7 → Traps s (.ssb h) h c x 0x0E7 0) ∧
    (∀ n, ssetOf s g = some n → 0 < (s.ssets.getD n {}).puts → activeLanes s c h ≠ [] →
      ∃ t, exec (.ssb h) s = .next t ∧ KeepsRegs s t ∧ t.mem = s.mem ∧
        ∀ l ∈ activeLanes s c h, (thrAt t c.w l).st = .barrier .superstep ∧ (thrAt t c.w l).pc = c.pc + 12)) ∧
  (∀ (s : State) (n : Nat), (s.ssets.getD n {}).puts = 0 → putOpen s ((members s n).map (·.1)) = false → (∃ m ∈ members s n, 0 < m.2.live) →
    (∀ m ∈ members s n, m.2.emitted = m.2.total ∧ arrivedGroups s m.1 = m.2.live) →
    let t := superstepCheck s n
    (t.ssets.getD n {}).step = (s.ssets.getD n {}).step + 1 ∧
    ∀ m ∈ members s n, ∀ gid g w y l, s.groups.get? gid = some g → g.lti = m.1 → warpAt s w = some y → y.gid = gid →
      (y.thr l).st = .barrier .superstep → (thrAt t w l).st = .running ∧ (thrAt t w l).rgnpc = (y.thr l).pc ∧
        (t.groups.getD gid {}).ssbArrived = false)) ∧
  ∀ (s : State) (gid : Nat) (g : Group), s.stop = none → s.groups.get? gid = some g → deadlocked s gid = true →
    g.warps.Nodup →
    (∀ w ∈ g.warps, w.quad < 4 ∧ w.slot < 8 ∧ ∃ y, warpAt s w = some y ∧ y.gid = gid ∧ ∀ l < 32, (y.thr l).st ≠ .exited → (y.thr l).inh = false) →
    bits (ctxOf s g.ctx).trapentry 56 2 ≠ 0 → (∀ t ∈ s.trace.toList, t.live = false) →
    ∃ t, exec (.barrierDeadlock gid) s = .next t ∧ t.mem = s.mem ∧ (t.groups.getD gid {}).barArrived = g.barArrived ∧
      ∀ w ∈ g.warps, ∀ l < 32, (thrAt s w l).st ≠ .exited →
        (thrAt t w l).st = .running ∧ (thrAt t w l).inh = true ∧ (thrAt t w l).cause = 0x0E4 ∧
        (thrAt t w l).tepc = (thrAt s w l).pc - 12 ∧ (thrAt t w l).g = (thrAt s w l).g ∧ (thrAt t w l).p = (thrAt s w l).p ∧
        (thrAt t w l).pc = (ctxOf s g.ctx).trapentry &&& 0x01FFFFFFFFFFFFFC#64

/-- EXIT makes each executing thread Exited, or lets it wait for its incomplete instructions; EXIT_COMPLETE ends that wait, and
INSTRUCTION_COMPLETE completes the instructions that are due. When the last thread of a group's last warp exits, the warp's slot is free
and the group's exit follows (R47, R333, 15_instruction_formats.md R292). -/
def Obligations.ExitEndsThreads : Prop :=
  (∀ (s : State) (c : Cursor) (x : Warp) (h : Hdr) (g : Group), Ready s (.exit h) c x → s.groups.get? x.gid = some g → ssetOf s g = none →
    ((∃ j < 32, j ∉ activeLanes s c h ∧ (x.thr j).st = .running) → c.w ∈ g.warps → ∃ t, exec (.exit h) s = .next t ∧
      Executes s h c x x.k (fun _ th =>
        { th with st := if th.pend.isEmpty then .exited else .exiting, inh := false, watch := none }) t) ∧
    (∀ e, (∀ j < 32, j ∉ activeLanes s c h → (x.thr j).st = .exited) → (∀ j ∈ activeLanes s c h, (x.thr j).pend = []) →
      activeLanes s c h ≠ [] → g.warps = [c.w] → dieOf c.w.core < 8 →
      let va := (ctxOf s g.ctx).pfmap.toNat + x.frame / 64 * 8
      (s.ms.tcache.getD (dieOf c.w.core) []).find? (fun e => e.page.covers g.ctx va) = some e → va < 2 ^ 57 → e.page.w = true →
      e.page.host = false → e.page.c = true →
      ∃ t, exec (.exit h) s = .next t ∧ warpAt t c.w = none ∧ (t.groups.getD x.gid {}).ending = true ∧ .groupExit x.gid ∈ t.agenda)) ∧
  (∀ (s : State) (w : WKey) (lane : Nat) (x : Warp) (g : Group), s.stop = none → warpAt s w = some x → s.groups.get? x.gid = some g →
    ssetOf s g = none → lane < 32 →
    ((x.thr lane).st = .exiting → (x.thr lane).pend = [] → w ∈ g.warps → (∃ j < 32, (x.thr j).st = .running) →
      exec (.exitComplete w lane) s = .next (updThr s w lane fun t => { t with st := .exited })) ∧
    (exec (.instructionComplete w lane) s = .next (updThr s w lane fun t => { t with
      pend := t.pend.filter fun p => !(p.held.isNone && p.due ≤ s.cycle && !s.hostReqs.any fun q => q.own == some (w, lane)) }))) ∧
  (∀ (s : State) (gid : Nat) (g : Group) (la : Launch), s.stop = none → s.groups.get? gid = some g → g.ending = true → g.warps = [] →
    g.handles = [] → s.ten = [] → (engineOf s g.core).owner ≠ some gid → copiesOf s gid = [] → launchOf s g.lti = some la →
    la.f 152 152 = 0 → 1 < la.live → g.lti < 65536 →
    ∃ t, exec (.groupExit gid) s = .next t ∧ t.groups.get? gid = none ∧ t.mem = s.mem ∧ t.warps = s.warps ∧
      (launchOf t g.lti).map (·.live) = some (la.live - 1))

/-- Warp-wide instructions: when the executing lanes supply one mask, every lane that it names is in the path or has exited, it names the path's
lanes, and nobody waits at the instruction, the executing lanes exchange values at once: VOTE, SHFL, WRED, WSCAN and WSYNC (R58 to R60, R376, R402
to R405). A lane of the path whose guard is false, and an exited one, is absent: it has no predicate, SHFL reads zero from it, and it has no part in
a combination, which is the identity where no lane has one; XM tells each lane that takes part whether a named lane has exited (R59). A lane
whose mask leaves itself out traps with 0E5h and is absent from the execution at that address, and lanes that name one another with
different masks trap with 0E6h, each having come (R60). An execution not yet gathered goes on waiting, and one that has gathered takes place when
a member wait completes. -/
def Obligations.MembersExchangeValues : Prop :=
  (∀ (s : State) (c : Cursor) (x : Warp) (h : Hdr) (i : Instr) (m : Opd) (mask : W32), Ready s i c x →
    activeLanes s c h ≠ [] → (∀ l ∈ activeLanes s c h, operand s c h l m false = mask.toNat) →
    (∀ l ∈ lanesOf c.lanes, hasLane mask l = true) →
    (∀ j < 32, hasLane mask j = true → j ∈ lanesOf c.lanes ∨ (x.thr j).st = .exited) →
    (∀ j q a, (x.thr j).st ≠ .member q a) → x.absent.get? c.pc.toNat = none →
    let ls := activeLanes s c h
    let gone := (List.range 32).any fun j => hasLane mask j && (x.thr j).st == .exited
    let done_ := fun (th : Thread) => executed s h i { th with xm := gone }
    (∀ o, i = .vote h o → o.c = m →
      (o.mode = .ballot → ∃ t, exec i s = .next t ∧
        Executes s h c x (wroteK o.d false (ls.map fun _ => (maskOf fun j => ls.contains j && operandP s c h j o.a).toNat) x.k)
          (fun _ th => done_ (wrote o.d false (maskOf fun j => ls.contains j && operandP s c h j o.a).toNat th)) t) ∧
      (o.mode ≠ .ballot → ∃ t, exec i s = .next t ∧ Executes s h c x x.k (fun _ th => done_ (wroteP o.d 0
        (if o.mode = .any then ls.any fun j => operandP s c h j o.a else ls.all fun j => operandP s c h j o.a) th)) t)) ∧
    (∀ (o : ShflOps) (v : Nat → Nat), i = .shfl h o → (o.ty = .n32 ∨ o.ty = .n64) → o.c = m →
      (∀ l, v l = match shflLane o.mode l (operand s c h l o.b false) with
        | some j => if hasLane mask j then (if ls.contains j then operand s c h j o.a o.ty.is64 else 0) else operand s c h l o.a o.ty.is64
        | none => operand s c h l o.a o.ty.is64) →
      ∃ t, exec i s = .next t ∧ Executes s h c x (wroteK o.d o.ty.is64 (ls.map v) x.k) (fun l th => done_ (wrote o.d o.ty.is64 (v l) th)) t) ∧
    (∀ (o : WredOps) (v : Nat → Nat), (i = .wred h o ∨ i = .wscan h o) → o.c = m → wredType o = none →
      (∀ l, v l = combineLanes o.op o.ty ((ls.filter fun j => match i with
        | .wscan _ _ => if o.exc then j < l else j ≤ l
        | _ => true).map fun j => operand s c h j o.a o.ty.is64)) →
      ∃ t, exec i s = .next t ∧ Executes s h c x (wroteK o.d o.ty.is64 (ls.map v) x.k) (fun l th => done_ (wrote o.d o.ty.is64 (v l) th)) t) ∧
    (∀ a, i = .wsync h a → a = m → s.ms.posted = [] → s.ten = [] → (∀ q ∈ s.hostReqs, q.own = none) →
      ∃ t, exec i s = .next t ∧ Executes s h c x x.k (fun _ th => done_ th) t)) ∧
  (∀ (s : State) (c : Cursor) (x : Warp) (h : Hdr) (i : Instr) (m : Opd) (mask : Nat → W32), Ready s i c x →
    ((∃ o, i = .vote h o ∧ o.c = m) ∨ (∃ o, i = .shfl h o ∧ o.c = m ∧ (o.ty = .n32 ∨ o.ty = .n64)) ∨
     (∃ o, (i = .wred h o ∨ i = .wscan h o) ∧ o.c = m ∧ wredType o = none) ∨ i = .wsync h m) →
    activeLanes s c h ≠ [] → (∀ l ∈ activeLanes s c h, operand s c h l m false = (mask l).toNat) →
    ((∀ l ∈ activeLanes s c h, hasLane (mask l) l = false) → Handled s h c x 0x0E5 →
      ∃ t y, exec i s = .next t ∧ warpAt t c.w = some y ∧ t = { s with warps := t.warps, cur := t.cur, freeCtr := t.freeCtr } ∧
        (∀ k, k ≠ wIdx c.w → t.warps.get? k = s.warps.get? k) ∧ { y with th := x.th, absent := x.absent } = x ∧
        y.gone c.pc = x.gone c.pc ||| c.lanes ∧
        ∀ l, l < 32 → y.thr l =
          if hasLane c.lanes l then
            if (activeLanes s c h).contains l then trapped s c 0x0E5 0 ((x.thr l).issue c h.yh) else (x.thr l).issue c h.yh
          else x.thr l) ∧
    (activeLanes s c h = lanesOf c.lanes → (∀ j q a, (x.thr j).st ≠ .member q a) → x.absent.get? c.pc.toNat = none →
      (∀ l ∈ lanesOf c.lanes, hasLane (mask l) l = true ∧ hasLane (mask l) ((lanesOf c.lanes).headD 0) = true ∧
        ∀ j < 32, hasLane (mask l) j = true → j ∈ lanesOf c.lanes) →
      (∃ l ∈ lanesOf c.lanes, ∃ j ∈ lanesOf c.lanes, mask l ≠ mask j) →
      (i = .wsync h m → s.ten = [] ∧ ∀ q ∈ s.hostReqs, q.own = none) →
      Handled s h c x 0x0E6 → Traps s i h c x 0x0E6 0)) ∧
  (∀ (s : State) (w : WKey) (lane : Nat) (x : Warp) (pc : W64) (h : Hdr) (a : Opd) (mask : W32), s.stop = none → warpAt s w = some x →
    lane < 32 → hasLane mask lane = true → (x.thr lane).pc = pc → (x.thr lane).st = .member (.wsync h a) mask →
    ((∃ j < 32, hasLane mask j = true ∧ (x.thr j).st = .running) → x.gone pc = 0 → exec (.memberWaitComplete w lane) s = .next s) ∧
    ((∀ j < 32, hasLane mask j = true → (x.thr j).pc = pc ∧ (x.thr j).st = .member (.wsync h a) mask) →
      (∀ j < 32, hasLane mask j = false → ∀ q b, (x.thr j).st ≠ .member q b) → x.gone pc = 0 → s.ten = [] →
      (∀ q ∈ s.hostReqs, q.own = none) →
      ∃ t, exec (.memberWaitComplete w lane) s = .next t ∧ KeepsRegs s t ∧
        ∀ j < 32, (thrAt t w j).st = (if hasLane mask j then .running else (x.thr j).st) ∧
          (thrAt t w j).pc = if hasLane mask j then pc + 12 else (x.thr j).pc))

/-! ### Tile tenure (06_tile_tenure.md) -/

/-- The tile-handle instructions complete as R146 gives them: THOPEN binds a region of an identifier, TENR joins the directory or, with
.try, is granted at once or answers false, TREL and THCLOSE release, TSPLIT divides a region that is held for writing, and TTEST answers
the status word of Table 6.2. That a tenure which is releasing takes a second TREL, THCLOSE or TSPLIT (log 53), where a request stands in its
cycle's order (log 52), and that a try which is overtaken in its own cycle is withdrawn (log 77), are the model's choices. -/
def Obligations.HandleInstructionsComplete : Prop :=
  ∀ (s : State) (c : Cursor) (x : Warp) (h : Hdr) (i : Instr) (g : Group) (n : Fin 64), Ready s i c x → s.groups.get? x.gid = some g →
    activeLanes s c h ≠ [] →
    let s0 := issuedState s c h
    let hd : Handle := g.handles.getD n.val {}
    let set := fun (s : State) (m : Nat) (v : Handle) => updHandle s x.gid m fun _ => v
    (∀ o ka kb, i = .thopen h o → o.d = .h n → o.a = .k ka → o.b = .k kb →
      let e := tidEntry s g.ctx o.tx.toNat
      let org := fun d => (x.kreg (ka.val + d)).toNat
      let ext := fun d => (x.kreg (kb.val + d)).toNat
      (hd.st < 2 → scarpOk (tidAddr s g.ctx o.tx.toNat + 127) = true → e.empty = false → ka.val + e.rank ≤ 64 → kb.val + e.rank ≤ 64 →
        (∀ d < e.rank, ext d ≠ 0 ∧ org d + ext d ≤ e.ext d) →
        PathCompletes s i h c (set s0 n.val
          { st := 1, fmt := e.fmt, base := BitVec.ofNat 64 e.base, ext := (List.range e.rank).map e.ext
            str := (List.range e.rank).map fun d => if d = 0 then 0 else e.str d
            org := (List.range e.rank).map org, n := (List.range e.rank).map ext })) ∧
      (2 ≤ hd.st → Handled s h c x 0x0C3 → Traps s i h c x 0x0C3 0)) ∧
    (∀ o s1 trans foot tiled, i = .tenr h o → o.a = .h n → hd.st = 1 → footprint s0 (acting s c h) hd = (s1, .ok (trans, foot, tiled)) →
      ∀ t : Tenure, t = { gid := x.gid, handle := n.val, write := o.w, st := 0, foot := foot
                          order := tenureOrder s true c.w (homeDie (foot.headD (0, 0)).1), scope := o.sc, core := c.w.core, tiled := tiled } →
      (∀ e ∈ s.ten, e.2.gid = x.gid → e.2.cmd = none → e.2.conflicts t = false) →
      -- no TENR.try was granted in this cycle
      (∀ e ∈ s.ten, e.2.tryBy.map (·.1) ≠ some s.cycle) →
      (o.tr = false → ∃ s2, PathWaits s i h c (.stall (.tenr s.nextId)) s2 ∧
        s2 = { s1 with nextId := s.nextId + 1, ten := s.ten.put s.nextId t, groups := s2.groups } ∧
        (s2.groups.getD x.gid {}).handles.getD n.val {} = { hd with st := 2, entry := some s.nextId, trans := trans }) ∧
      (o.tr = true → (∃ e ∈ s.ten, e.2.conflicts t = true ∧ (e.2.st ≠ 0 ∨ orderedBefore e (s.nextId, t) = true)) →
        PathCompletes s i h c ((activeLanes s c h).foldl (fun s l => dstP s (acting s c h) l o.d 0 false) s1)) ∧
      (o.tr = true → s.ten = [] → insideDirectory s1 (s.nextId, t) = true → ∃ s2, PathCompletes s i h c s2 ∧
        (s2.ten.get? s.nextId).map (fun e => (e.st, e.foot, e.write)) = some (1, foot, o.w) ∧
        ((s2.groups.getD x.gid {}).handles.getD n.val {}).st = (if o.w then 4 else 3) ∧
        ∀ l ∈ activeLanes s c h, ∀ m, o.d = .p m → m ≠ 7 → (thrAt s2 c.w l).p.get m = true)) ∧
    (∀ sc close, i = (if close then .thclose h sc (.h n) else .trel h sc (.h n)) →
      (∀ id t, hd.st = 4 → hd.entry = some id → s.ten.get? id = some t → t.write = true →
        let r := releasePath s0 c.w (lanesOf (acting s c h).lanes)
        PathWaits s i h c (.stall (.trel id)) { r.1 with
          ten := s.ten.put id { t with st := 2, scope := sc, toBound := !close, seen := r.2 } }) ∧
      (∀ id t, hd.st = 3 → hd.entry = some id → s.ten = [(id, t)] → t.write = false → t.held = [] → t.shadow = [] → t.wait = [] →
        s.ms.releases = [] → (∀ l ∈ activeLanes s c h, (x.thr l).relSeen = []) →
        ∃ s2, PathCompletes s i h c s2 ∧ s2.ten = [] ∧ (sc ≠ .sys → s2.mem = s.mem) ∧
          (s2.groups.getD x.gid {}).handles.getD n.val {} = if close then {} else { hd with st := 1, entry := none, trans := [] }) ∧
      (hd.st = 1 → close = true → PathCompletes s i h c (set s0 n.val {})) ∧
      (hd.st = 0 → Handled s h c x 0x0C0 → Traps s i h c x 0x0C0 0) ∧
      (hd.st = 2 → Handled s h c x 0x0C3 → Traps s i h c x 0x0C3 0)) ∧
    (∀ o (m : Fin 64) kb id t k, i = .tsplit h o → o.a = .h n → o.d = .h m → o.b = .k kb → hd.st = 4 → m ≠ n →
      (g.handles.getD m.val {}).st = 0 → o.dim.toNat < hd.ext.length → hd.n.length = hd.ext.length → hd.org.length = hd.ext.length →
      k = (x.kreg kb.val).toNat → 0 < k → k < hd.n.getD o.dim.toNat 0 → hd.entry = some id → s.ten.get? id = some t → id ≠ s.nextId →
      ∃ s2, PathCompletes s i h c s2 ∧
        (s2.groups.getD x.gid {}).handles.getD n.val {} = { hd with split := true, n := hd.n.set o.dim.toNat k } ∧
        (s2.groups.getD x.gid {}).handles.getD m.val {} = { hd with
          split := true, n := hd.n.set o.dim.toNat (hd.n.getD o.dim.toNat 0 - k)
          org := hd.org.set o.dim.toNat (hd.org.getD o.dim.toNat 0 + k), entry := some s.nextId } ∧
        ∀ j a b, (s2.ten.get? j).map (·.st) = some a → (s.ten.get? (if j = s.nextId then id else j)).map (·.st) = some b → a = b) ∧
    (∀ d, i = .ttest h d (.h n) → WritesReg s i h c x d false fun _ => handleStatus s hd) ∧
    (hd.st = 0 → handleStatus s hd = if hd.split then 8 else 0) ∧
    (hd.st = 1 → handleStatus s hd = 1 + (if hd.split then 8 else 0) + 65536 * hd.ext.length)

/-- The directory grants a queued request that meets nothing held, and the threads that wait for it go on; a write tenure ends when its
core has drained, its bytes becoming the image; held stores take spill room when there is enough for all of them (R134, R137, R138). -/
def Obligations.TenureEventsComplete : Prop :=
  ∀ s : State, s.stop = none →
    (∀ die id t g, s.ten.get? id = some t → t.st = 0 → t.die = die → t.cmd = none → t.handle < 64 → s.groups.get? t.gid = some g →
      (∀ e ∈ s.ten, e.1 ≠ id → e.2.st ≠ 0 ∧ e.2.conflicts t = false) → insideDirectory s (id, t) = true → (s.ten.map Prod.fst).Nodup →
      g.warps.Nodup → (∀ w ∈ g.warps, w.quad < 4 ∧ w.slot < 8) →
      ∃ u, exec (.tenureGrant die) s = .next u ∧ (u.ten.get? id).map (·.st) = some 1 ∧
        ((u.groups.getD t.gid {}).handles.getD t.handle {}).st = (if t.write then 4 else 3) ∧
        ∀ w ∈ g.warps, ∀ l < 32, (thrAt s w l).st = .stall (.tenr id) → (∃ y, warpAt s w = some y ∧ y.gid = t.gid) →
          (thrAt u w l).st = .running ∧ (thrAt u w l).pc = (thrAt s w l).pc + 12) ∧
    (∀ die id t, s.ten = [(id, t)] → t.st = 2 → t.die = die → t.held = [] → t.wait = [] → (s.groups.get? t.gid).isSome → t.handle < 64 →
      s.ms.l1 = [] → s.ms.hostLines = [] → (∀ p ∈ s.ms.posted, p.wait = false) → s.mem.wf = true → (t.shadow.map Prod.fst).Nodup →
      (∀ e ∈ t.shadow, isHost e.1 = false) →
      ∃ u, exec (.tenureDrainAck die) s = .next u ∧ u.ten = [] ∧
        (∀ k, homeByte u k = (t.shadow.get? k).getD (homeByte s k)) ∧
        ((u.groups.getD t.gid {}).handles.getD t.handle {}).st = if t.toBound then 1 else 0) ∧
    (∀ die, ((s.ten.flatMap fun e => e.2.held).filter fun h => !h.spilled && homeDie (h.keys.headD 0) == die).length ≤
        (s.spillSize.getD die 0).toNat - spillUsed s die → (∀ e ∈ s.ten, e.2.die = die → e.2.wait = []) →
      ∃ u, exec (.spillRetry die) s = .next u ∧ u = { s with ten := u.ten } ∧
        u.ten.map (fun e => (e.1, { e.2 with held := [] })) = s.ten.map (fun e => (e.1, { e.2 with held := [] })) ∧
        ∀ e ∈ u.ten, ∀ h ∈ e.2.held, homeDie (h.keys.headD 0) = die → h.spilled = true)

/-! ### The matrix engine (08_tensor_engines.md, 19_reference_t_z.md) -/

/-- TIDSET writes an identifier entry and TIDGET reads it; SCALEB replaces the scale base alone; an entry that R170 calls malformed is
refused with 100h or 042h (R374, R394). -/
def Obligations.IdentifierTableAccess : Prop :=
  ∀ (s : State) (c : Cursor) (x : Warp) (h : Hdr) (i : Instr) (l : Nat) (tx : BitVec 10) (a : Opd), Solo s i h c x l →
    let s0 := issuedState s c h
    let ctx := (grp s c.w).ctx
    scarpOk (tidAddr s ctx tx.toNat + 127) = true → s.ms.hostLines = [] → s.mem.wf = true →
    (∀ s1 s2 acc bs, i = .tidset h tx a → pairAcc s0 (acting s c h) l a 128 false = (s1, .ok acc) →
      loadBytes s1 c.w l acc plainHint false = (s2, bs) → bs.length = 128 →
      let d : Tensor := BitVec.ofNat 1024 (ofBytes bs)
      (d.scaleBad = false → d.malformed = false → ∃ t, CompletesWith s i h c l t ∧ KeepsRegs s t ∧
        (s2.ms.hostLines = [] → s2.mem.wf = true → tidEntry t ctx tx.toNat = d)) ∧
      (d.scaleBad = true → Handled s h c x 0x042 → ∃ t, exec i s = .next t ∧ (thrAt t c.w l).cause = 0x042 ∧ t.mem = s.mem) ∧
      (d.scaleBad = false → d.malformed = true → Handled s h c x 0x100 → ∃ t, exec i s = .next t ∧ (thrAt t c.w l).cause = 0x100 ∧ t.mem = s.mem)) ∧
    (∀ s1 acc, i = .tidget h tx a → pairAcc s0 (acting s c h) l a 128 true = (s1, .ok acc) →
      CompletesWith s i h c l (storeBytes s1 c.w l acc plainHint false (toBytes 128 (tidEntry s1 ctx tx.toNat).toNat)) ∧
      ∀ t, exec i s = .next t → KeepsRegs s t) ∧
    (∀ va, i = .scaleb h tx a → va = operand s c h l a true → (tidEntry s ctx tx.toNat).rank ≠ 0 → (tidEntry s ctx tx.toNat).scfmt ≠ 0 →
      va % Tensor.scaleSize (tidEntry s ctx tx.toNat).scfmt = 0 → va < 2 ^ 57 →
      ∃ t, CompletesWith s i h c l t ∧ KeepsRegs s t ∧ (tidEntry t ctx tx.toNat).scbase = va ∧
        ∀ j, (j < 512 ∨ 569 ≤ j) → (tidEntry t ctx tx.toNat).getLsbD j = (tidEntry s ctx tx.toNat).getLsbD j)

/-- MRSV reserves a free engine for the executing group and answers whether the group holds it; MREL frees it, zeroing the accumulators,
or waits for the group's commands; a tile instruction issued by every live thread of a warp of the holding group adds one command to the
engine's queue, of which each thread's completion waits (R175, R176, R359, R389 to R391). That s.rprog reads 0 from the end of a reservation to the
next tile instruction (log 55), and that IT asks tenure for TLDACC, TSTACC and TCVT (log 30), are the model's. -/
def Obligations.EngineInstructionsComplete : Prop :=
  ∀ (s : State) (c : Cursor) (x : Warp) (h : Hdr) (i : Instr) (g : Group), Ready s i c x → s.groups.get? x.gid = some g →
    activeLanes s c h ≠ [] →
    let s0 := issuedState s c h
    let e := engineOf s c.w.core
    (∀ d, i = .mrsv h d →
      ∃ s2, PathCompletes s i h c ((activeLanes s c h).foldl (fun s l => dstP s (acting s c h) l d 0 (e.owner == some x.gid || engineFree s0 c.w.core)) s2) ∧
        s2 = { s0 with engines := s2.engines } ∧
        engineOf s2 c.w.core = if e.owner ≠ some x.gid ∧ engineFree s c.w.core then { owner := some x.gid } else e) ∧
    (i = .mrel h →
      (e.owner = some x.gid → e.queue = [] → ∃ s2, PathCompletes s i h c s2 ∧ engineOf s2 c.w.core = {} ∧ s2 = { s0 with engines := s2.engines }) ∧
      (e.owner = some x.gid → e.queue ≠ [] → PathWaits s i h c (.stall (.engine .zero (e.queue.map (·.id)) true)) s0) ∧
      (e.owner ≠ some x.gid → Handled s h c x 0x106 → Traps s i h c x 0x106 0)) ∧
    (∀ (o : TileOps) (ka kb : Fin 64) (acc : Fin 4) (q0 q : ECmd),
      let ent := fun n => tidEntry s g.ctx n
      let k := fun (r : Fin 64) j => (x.kreg (r.val + j)).toNat
      (i = .tmma h o ∧ o.d = .acc acc ∧ o.a = .k ka ∧ o.b = .k kb ∧ k kb 0 < 1024 ∧
          q0 = { id := 0, op := 1, a := ent o.tx.toNat, b := ent (k kb 0), m0 := k ka 0, n0 := k ka 1, k0 := k ka 2, klen := k ka 3
                 acc := acc.val, fl := o.fl } ∨
       i = .tldacc h o ∧ o.d = .acc acc ∧ o.a = .k ka ∧
          q0 = { id := 0, op := 2, a := ent o.tx.toNat, m0 := k ka 0, n0 := k ka 1, acc := acc.val, fl := o.fl } ∨
       i = .tstacc h o ∧ o.a = .acc acc ∧ o.b = .k kb ∧
          q0 = { id := 0, op := 3, d := ent o.tx.toNat, m0 := k kb 0, n0 := k kb 1, acc := acc.val, fmt := o.fmt, sat := o.sat, fl := o.fl } ∨
       i = .tzacc h (.acc acc) ∧ q0 = { id := 0, op := 4, acc := acc.val } ∨
       i = .tcvt h o ∧ o.a = .k ka ∧ o.b = .k kb ∧ k kb 0 < 1024 ∧
          q0 = { id := 0, op := 5, a := ent (k kb 0), d := ent o.tx.toNat, m0 := k ka 0, n0 := k ka 1, m1 := k ka 2, n1 := k ka 3
                 sat := o.sat, fl := o.fl }) →
      q = { q0 with id := s.nextId, ctx := g.ctx, gid := x.gid, user := c.user, w := c.w, lanes := maskOf (activeLanes s c h).contains
                    pc := c.pc, nstep := q0.steps } →
      (q.op = 4 ∨ scarpOk (tidAddr s g.ctx o.tx.toNat + 127) = true) →
      (∀ sr s1, sr = (if q.fl.it then (q.agent c.w.core).request { s0 with nextId := s.nextId + 1 } q.fl.sc c.w q.tiles
          else { s0 with nextId := s.nextId + 1 }) →
        s1 = (if q.fl.acq || q.fl.it then drainSeen sr c.w (activeLanes s c h) else sr) → s1.stop = none →
        e.owner = some x.gid → maskOf (activeLanes s c h).contains = liveMask x → q.check = none → e.queue.length ≤ 8 →
        (q.fl.it = true → (q.agent c.w.core).readHeld s0 q.tiles = false) →
        ∃ s2, PathCompletes s i h c s2 ∧ (engineOf s2 c.w.core).queue = e.queue ++ [q] ∧ (engineOf s2 c.w.core).acc = e.acc ∧
          (engineOf s2 c.w.core).owner = e.owner ∧
          ((q.fl.it = true → ∀ e ∈ s.ten, e.2.tryBy.map (·.1) ≠ some s.cycle) → KeepsRegs s s2) ∧ s2.mem = s1.mem ∧ s2.ten = s1.ten ∧
          ∀ l ∈ activeLanes s c h, ∃ p ∈ (thrAt s2 c.w l).pend, p.held = some q.id) ∧
      (e.owner ≠ some x.gid → Handled s h c x 0x104 → Traps s i h c x 0x104 0) ∧
      (e.owner = some x.gid → maskOf (activeLanes s c h).contains ≠ liveMask x → Handled s h c x 0x105 → Traps s i h c x 0x105 0) ∧
      (∀ code, e.owner = some x.gid → maskOf (activeLanes s c h).contains = liveMask x → q.check = some code → Handled s h c x code →
        Traps s i h c x code 0))

/-- ENGINE_STEP starts the head command, takes one of its steps, and completes it with the last: TZACC clears its accumulator, a step that
succeeds counts, and a chunk of TMMA adds to each element of the tile the rounded exact sum of its 32 products (R163, R164, R179). -/
def Obligations.EngineStepsCommand : Prop :=
  (∀ (s : State) (core : Nat) (q : ECmd) (qs : List ECmd), s.stop = none → (engineOf s core).queue = q :: qs → q.stopped = false →
    (engineOf s core).stop = false → q.task = none → cmdWaits s q.id = false →
    (q.started = false → tenured s q.id = true → ∃ t f, exec (.engineStep core) s = .next t ∧ KeepsRegs s t ∧
      (engineOf t core).queue = { q with started := true, due := s.work + q.cycles q.done + f } :: qs ∧
      (engineOf t core).acc = (engineOf s core).acc) ∧
    (q.started = true → q.due ≤ s.work → q.op = 4 → q.done = 0 → q.nstep = 1 → q.acc < 4 → q.fl.rel = false → s.ten = [] →
      savingOn s core = false → ∃ t, exec (.engineStep core) s = .next t ∧ KeepsRegs s t ∧ t.mem = s.mem ∧
        (engineOf t core).queue = qs ∧ (engineOf t core).acc.getD q.acc [] = [] ∧
        ∀ j < 4, j ≠ q.acc → (engineOf t core).acc.getD j [] = (engineOf s core).acc.getD j []) ∧
    (∀ s2, q.started = true → q.due ≤ s.work → q.done + 1 < q.nstep → runStep s core q = (s2, none) → s2.stop = none →
      (engineOf s2 core).queue = q :: qs → savingOn s2 core = false →
      ∃ t f, exec (.engineStep core) s = .next t ∧
        (engineOf t core).queue = { q with done := q.done + 1, due := s2.work + q.cycles (q.done + 1) + f } :: qs ∧
        (engineOf t core).acc = (engineOf s2 core).acc ∧ (engineOf t core).done = q.done + 1)) ∧
  (∀ (acc : List Nat) (rows cols : List (List Num.FV)) (m n : Nat), acc.length = 128 * 128 → rows.length = 128 → cols.length = 128 →
    m < 128 → n < 128 →
    (mmaChunk acc rows cols).getD (128 * m + n) 0 = Num.fadd .f32 (acc.getD (128 * m + n) 0)
      (Num.rne .f32 (((((rows.getD m []).zip (cols.getD n [])).map fun p => Num.mulFV p.1 p.2)).foldl Num.addFV (.fin true 0 0))))

/-- TTASK enters a valid record in its die's task table and pushes its TILE record, with 0 for D; TWAITK waits while a command of the
engine or a task of its tag is open, and otherwise answers 0 for the engine, and for the tag 0 or 200h and the code of the first of its tasks that
failed (R185, R188, R398, R399). The lowest free entry of the table (log 79) and the failures that are reported (log 27) are the model's. -/
def Obligations.TileTasksComplete : Prop :=
  ∀ (s : State) (c : Cursor) (x : Warp) (h : Hdr) (i : Instr) (g : Group) (d a : Opd), Ready s i c x → s.groups.get? x.gid = some g →
    let s0 := issuedState s c h
    let die := dieOf c.w.core
    (∀ l s1 s2 acc bs, i = .ttask h d a → activeLanes s c h = [l] → die < 8 → (taskTab s die).length < 2048 →
      (ctxOf s g.ctx).suspended = false → pairAcc s0 (acting s c h) l a 64 false = (s1, .ok acc) → scarpPage acc = true →
      loadBytes s1 c.w l acc plainHint false = (s2, bs) →
      let r : BitVec 512 := BitVec.ofNat 512 (ofBytes bs)
      taskInvalid r = false → ∀ idx < 2048, (taskTab s die).get? idx = none → (∀ j < idx, ((taskTab s die).get? j).isSome) →
      let prio := bits r 104 102
      let seen := if r.getLsbD 10 || r.getLsbD 12 then drainSeen s2 c.w [l] else s2
      let entry : Task := { rcd := r, ctx := g.ctx, gid := x.gid, core := c.w.core, user := c.user, seq := s.nextId }
      let s3 := pushRcd (setTasks { seen with nextId := s.nextId + 1 } die fun tb => tb.put idx entry) die g.ctx (tileRecord prio idx)
        (if roomForDevice s die prio then some (pusher c.w.core l) else none)
      s3.stop = none → CompletesWith s i h c l (dst s3 (acting s c h) l d false 0) ∧ KeepsRegs s s3 ∧
        (taskTab s3 die).get? idx = some entry ∧
        (roomForDevice s die prio = true → ∃ q ∈ levelOf (schedOf s3 die) prio, q.rcd = tileRecord prio idx ∧ q.ctx = g.ctx)) ∧
    (∀ k : Fin 64, i = .twaitk h d a → a = .k k → activeLanes s c h ≠ [] →
      let w := (x.kreg k.val).toNat
      (natBits w 31 13 ≠ 0 → Handled s h c x 0x108 → Traps s i h c x 0x108 0) ∧
      (natBits w 31 13 = 0 → natBit w 12 = true →
        ((engineOf s c.w.core).owner = some x.gid → (engineOf s c.w.core).queue ≠ [] →
          PathWaits s i h c (.stall (.engine d ((engineOf s c.w.core).queue.map (·.id)) false)) s0) ∧
        ((engineOf s c.w.core).queue = [] →
          PathCompletes s i h c ((activeLanes s c h).foldl (fun s l => observe (dst s (acting s c h) l d false 0) c.w l) s0))) ∧
      (natBits w 31 13 = 0 → natBit w 12 = false →
        (openTasks s die g.ctx (w % 4096) s.nextId = true → PathWaits s i h c (.stall (.tasks d (w % 4096) s.nextId)) s0) ∧
        (openTasks s die g.ctx (w % 4096) s.nextId = false → PathCompletes s i h c ((activeLanes s c h).foldl
          (fun t l => observe (dst t (acting s c h) l d false (taskStatus s die g.ctx (w % 4096) s.nextId)) c.w l) s0))))

/-! ### Copies and channels (09_copies_and_channels.md, 16_reference_a_c.md) -/

/-- ACOPY adds one command to its core's coalescer, ACOPYT and ACOPYR one to the die's copy table with its TILE record; CMTEST and CMWAIT
answer from the map in scratch, CMWAIT waiting for the bits or a STATUS; CSEND moves a message into the consumer's next slot, CRECV takes
the oldest, each waiting for room or a message unless the other stage has ended, and CPOLL answers whether they would; a copy command moves
its bytes, counts them and sets its chunk bit (R190 to R201, R312 to R314, R327, R328). The lowest free entry of the copy table (log 79), the order of
commands and chunks (log 31), and that a command's bytes are all read before any is written (log 59), are the model's choices. -/
def Obligations.CopiesAndChannels : Prop :=
  (∀ (s : State) (c : Cursor) (x : Warp) (h : Hdr) (i : Instr) (g : Group), Ready s i c x → s.groups.get? x.gid = some g →
    activeLanes s c h ≠ [] →
    let s0 := issuedState s c h
    let cc := acting s c h
    let kv := fun o j => kval s0 cc o j
    let die := dieOf c.w.core
    let all := fun (f : State → Nat → State) (t : State) => (activeLanes s c h).foldl f t
    (∀ o l, i = .acopy h o → activeLanes s c h = [l] → (coalOf s c.w.core).length < 16 →
      let size := o.sz.bytes
      let da := operand s c h l o.d (o.dsp != .scr)
      let sa := operand s c h l o.a (o.ssp != .scr)
      let hdr := kv o.b 0
      hdr % 8 = 0 → hdr + 12 + 4 * (o.bit.toNat / 32) ≤ g.scr * 256 → o.dsp ≠ .prv → o.ssp ≠ .prv → sa % size = 0 → da % size = 0 →
      acopyBad s0 cc o.ssp size sa = none → acopyBad s0 cc o.dsp size da = none →
      CompletesWith s i h c l (updCoal { (if o.acq then drainSeen s0 c.w (lanesOf cc.lanes) else s0) with nextId := s.nextId + 1 } c.w.core fun q => q ++
        [{ id := s.nextId, kind := 0, gid := x.gid, ctx := g.ctx, user := c.user, w := c.w, pc := c.pc, hdr := hdr, reqs := [(da, sa)]
           size := size, dsp := o.dsp, ssp := o.ssp, bit := o.bit.toNat
           fl := { sc := o.sc, acq := o.acq, rel := o.rel, it := false } }])) ∧
    (∀ (tx : BitVec 10) (d a b : Opd) (vlt bad : Bool) (y0 y : CCmd),
      let tn := tidEntry s g.ctx tx.toNat
      y0 = { id := s.nextId, kind := 1, gid := x.gid, ctx := g.ctx, user := c.user, w := c.w, pc := c.pc, hdr := kv d 0, t := tn
             org := (List.range (Tensor.rank tn)).map fun j => (x.kreg (kNo a + j)).toNat
             loc := kv b 0 + (if vlt then kv b 1 * 2 ^ 32 else 0), vlt := vlt, prio := lrec s g 142 140 } →
      ((∃ o, i = .acopyt h o ∧ tx = o.tx ∧ d = o.d ∧ a = o.a ∧ b = o.b ∧ vlt = o.vlt ∧
          bad = (o.lcv && (!(Tensor.fmt tn).isFloat || !o.lfmt.isFloat)) ∧
          y = { y0 with lfmt := if o.lcv then some o.lfmt else none, sat := o.sat, toMem := o.st, fl := o.fl }) ∨
       ∃ o, i = .acopyr h o ∧ tx = o.tx ∧ d = o.d ∧ a = o.a ∧ b = o.b ∧ vlt = o.vlt ∧ bad = !combineFmt o.op (Tensor.fmt tn) ∧
          y = { y0 with kind := 2, op := o.op, fl := o.fl }) →
      scarpOk (tidAddr s g.ctx tx.toNat + 127) = true → Tensor.empty tn = false → kNo a + Tensor.rank tn ≤ 64 →
      y.hdr % 8 = 0 → y.hdr + 12 + 4 * ((y.chunks - 1) / 32) ≤ g.scr * 256 → tileChecks s0 cc y bad = none → die < 8 →
      (ctabOf s die).length < 4096 →
      let tiles : List Tile := [⟨tn, y.org, y.tl, y.kind == 2 || y.toMem⟩]
      let sn := { s0 with nextId := s.nextId + 1 }
      (y.fl.it = true → (y.agent c.w.core).readHeld s0 tiles = false) →
      ∀ sr s1 idx, sr = (if y.fl.it then (y.agent c.w.core).request sn y.fl.sc c.w tiles else sn) →
      s1 = (if y.fl.acq || y.fl.it then drainSeen sr c.w (lanesOf cc.lanes) else sr) →
      idx < 4096 → (ctabOf s die).get? idx = none → (∀ j < idx, ((ctabOf s die).get? j).isSome) →
      let s2 := pushRcd (updCtab s1 die fun tb => tb.put idx y) die g.ctx (tileRecord y.prio (2 ^ 63 + idx))
        (if roomForDevice s die y.prio then some (pusher c.w.core ((activeLanes s c h).headD 0)) else none)
      s2.stop = none → PathCompletes s i h c s2 ∧
        ((y.fl.it = true → ∀ e ∈ s.ten, e.2.tryBy.map (·.1) ≠ some s.cycle) → KeepsRegs s s2) ∧ s2.ten = s1.ten ∧ (ctabOf s2 die).get? idx = some y) ∧
    (∀ o, i = .cmtest h o ∨ i = .cmwait h o → kv o.c 0 ≤ 15 → kv o.a 0 % 8 = 0 → kv o.a 0 + 12 + 4 * kv o.c 0 ≤ g.scr * 256 →
      let hdr := kv o.a 0
      let wo := hdr + 8 + 4 * kv o.c 0
      let m := srcAt s0 cc 0 o.b 0
      let v := w32 (scrWord s x.gid wo) &&& m == m
      let st := scrWord s x.gid (hdr + 4)
      (i = .cmtest h o → PathCompletes s i h c (all (fun t l => let t := dstP t cc l o.d 0 v; if v then observe t c.w l else t) s0)) ∧
      (i = .cmwait h o → (v = true ∨ st ≠ 0) → PathCompletes s i h c (all (fun t l => observe (dst t cc l o.d false st) c.w l) s0)) ∧
      (i = .cmwait h o → v = false → st = 0 → PathWaits s i h c (.stall (.cmwait o.d hdr wo m)) s0)) ∧
    (∀ (k : Fin 16) d b, i = .csend h d (.ch k) b → chanSlots s g k.val ≠ 0 → g.stage = chanStage s g k.val → kv b 0 % 64 = 0 →
      kv b 0 + chanSize s g k.val ≤ g.scr * 256 → (∀ l ∈ activeLanes s c h, relNeed s c.w l = none) →
      let off := kv b 0
      let n := chanSize s g k.val
      (stageGone s g (g.stage + 1) = true → PathCompletes s i h c (all (fun t l => dst t cc l d false 1) s0)) ∧
      (stageGone s g (g.stage + 1) = false → (∀ p, stagePeer s g (g.stage + 1) = some p → chanSlots s g k.val ≤ (chanOf p.2 k.val).full) →
        PathWaits s i h c (.stall (.channel d k.val true off (maskOf (activeLanes s c h).contains))) s0) ∧
      (∀ gp p, stageGone s g (g.stage + 1) = false → stagePeer s g (g.stage + 1) = some (gp, p) → s.groups.get? gp = some p →
        (chanOf p k.val).full < chanSlots s g k.val → p.scratch.wf = true →
        ∃ s2, PathCompletes s i h c (all (fun t l => dst t cc l d false 0) s2) ∧ KeepsRegs s s2 ∧
          chanOf (s2.groups.getD gp {}) k.val = { chanOf p k.val with full := (chanOf p k.val).full + 1 } ∧
          let slot := chanBase s p k.val + ((chanOf p k.val).head + (chanOf p k.val).full) % chanSlots s g k.val * n
          (∀ j < n, (s2.groups.getD gp {}).scratch.get (slot + j) = g.scratch.get (off + j)) ∧
          ∀ j, (j < slot ∨ slot + n ≤ j) → (s2.groups.getD gp {}).scratch.get j = p.scratch.get j)) ∧
    (∀ (k : Fin 16) d b, i = .crecv h d (.ch k) b → chanSlots s g k.val ≠ 0 → g.stage = chanStage s g k.val + 1 → kv b 0 % 64 = 0 →
      kv b 0 + chanSize s g k.val ≤ g.scr * 256 →
      let off := kv b 0
      let n := chanSize s g k.val
      let ch := chanOf g k.val
      (ch.full = 0 → stageGone s g (chanStage s g k.val) = true → PathCompletes s i h c (all (fun t l => dst t cc l d false 1) s0)) ∧
      (ch.full = 0 → stageGone s g (chanStage s g k.val) = false →
        PathWaits s i h c (.stall (.channel d k.val false off (maskOf (activeLanes s c h).contains))) s0) ∧
      (0 < ch.full → g.scratch.wf = true →
        ∃ s2, PathCompletes s i h c (all (fun t l => dst t cc l d false 0) s2) ∧ KeepsRegs s s2 ∧
          chanOf (s2.groups.getD x.gid {}) k.val = { head := (ch.head + 1) % chanSlots s g k.val, full := ch.full - 1 } ∧
          (∀ j < n, (s2.groups.getD x.gid {}).scratch.get (off + j) = g.scratch.get (chanBase s g k.val + ch.head * n + j)) ∧
          ∀ j, (j < off ∨ off + n ≤ j) → (s2.groups.getD x.gid {}).scratch.get j = g.scratch.get j)) ∧
    (∀ (k : Fin 16) rcv d, i = .cpoll h rcv d (.ch k) → chanSlots s g k.val ≠ 0 →
      g.stage = chanStage s g k.val + (if rcv then 1 else 0) →
      PathCompletes s i h c (all (fun t l => dstP t cc l d 0 (if rcv then canRecv s g k.val
        else canSend s g k.val && !stageGone s g (chanStage s g k.val + 1))) s0)) ∧
    (∀ (k : Fin 16) d b (send : Bool), i = (if send then .csend h d (.ch k) b else .crecv h d (.ch k) b) → chanSlots s g k.val = 0 →
      Handled s h c x 0x0E9 → Traps s i h c x 0x0E9 0)) ∧
  ∀ s : State, s.stop = none →
    (∀ w lane d k (send : Bool) off lanes, (thrAt s w lane).st = .stall (.channel d k send off lanes) →
      ((if send then canSend s (grp s w) k else canRecv s (grp s w) k) = false → exec (.channelResume w lane) s = .next s) ∧
      ((if send then canSend s (grp s w) k else canRecv s (grp s w) k) = true → exec (.channelResume w lane) s = .next (
        let ls := (lanesOf lanes).filter fun l => (thrAt s w l).st == .stall (.channel d k send off lanes)
        let r := if send then sendMessage s (gidOf s w) w ls k off else recvMessage s (gidOf s w) w.core k off
        ls.foldl (fun t l => resumeLane (wakeDst t w l d (w32 r.2)) w l true) r.1))) ∧
    (∀ core q g, s.crun.get? core = none → coalOf s core = [q] → q.stopped = false → q.kind = 0 → s.ten = [] → s.ms.damage = [] →
      s.groups.get? q.gid = some g → g.scratch.wf = true →
      (q.started = false → ∃ t f, exec (.copyChunkComplete core) s = .next t ∧ KeepsRegs s t ∧
        coalOf t core = [{ q with started := true, due := s.work + 1 + f }]) ∧
      (∀ d sa, q.started = true → q.pend = none → q.due ≤ s.work → cmdWaits s q.id = false → q.dsp = .scr → q.ssp = .scr →
        q.reqs = [(d, sa)] → q.moved = [] → q.got = [] → (q.hdr + 4 ≤ d ∨ d + q.size ≤ q.hdr) →
        ∃ t, exec (.copyChunkComplete core) s = .next t ∧ KeepsRegs s t ∧ (q.fl.acq = false → t.mem = s.mem) ∧
          (∀ j < q.size, (t.groups.getD q.gid {}).scratch.get (d + j) = g.scratch.get (sa + j)) ∧
          scrWord t q.gid q.hdr = (scrWord s q.gid q.hdr + q.size) % 2 ^ 32 ∧
          ∀ j, (j < d ∨ d + q.size ≤ j) → (j < q.hdr ∨ q.hdr + 4 ≤ j) → (t.groups.getD q.gid {}).scratch.get j = g.scratch.get j) ∧
      (∀ n at_, q.started = true → q.pend = some (n, some at_) → at_ < s.cycle → q.next = 1 → ssetOf s g = none →
        ∃ t, exec (.copyChunkComplete core) s = .next t ∧ KeepsRegs s t ∧ t.mem = s.mem ∧ coalOf t core = [] ∧
          let o := q.hdr + 8 + 4 * (q.bit / 32)
          scrWord t q.gid o = Nat.lor (scrWord s q.gid o) (2 ^ (q.bit % 32)) % 2 ^ 32 ∧
          ∀ j, (j < o ∨ o + 4 ≤ j) → (t.groups.getD q.gid {}).scratch.get j = g.scratch.get j))

/-! ### Scheduling (03_work_scheduling.md, 17_reference_d_l.md, 18_reference_m_s.md) -/

/-- SPAWN pushes a valid GROUP record whose JOIN is 0 and arms another; JOINDEC lowers JOIN and pushes an armed record that reaches 0;
LAUNCH enters a launch and answers its id; RGROW waits for its grant and RSHRINK gives registers up at once; where a die's queues lie on
the die, the expander emits the next group of its one launch, device pushes go on and records age; the scheduler starts the group or the
launch of the one record it visits; held lists and register requests go on as their room allows (R67 to R85, R236, R350, R351, R372, R378). The
destination check of RGROW (log 72), the die that a record of the held list returns to (log 28) and a granted group's first place at 8 cycles (log
4) are the model's. -/
def Obligations.WorkIsScheduled : Prop :=
  (∀ (s : State) (c : Cursor) (x : Warp) (h : Hdr) (i : Instr) (l : Nat) (d a : Opd) (off : BitVec 24) (g : Group), Solo s i h c x l →
    s.groups.get? x.gid = some g → (ctxOf s g.ctx).suspended = false →
    let s0 := issuedState s c h
    let cc := acting s c h
    let die := dieOf c.w.core
    (∀ s1 acc s2 r, (i = .spawn h d a off ∨ i = .joindec h d a off) → recNeed a off cc s l = none →
      recAcc s0 cc l a off 32 true = (s1, .ok acc) → takeRecord s1 cc acc = (s2, r) → Rcd.invalid r = false → Rcd.kind r = 1 →
      let back := fun (n : Rcd) => putRecord (pathRelease s2 c.w [l]) cc l acc n
      (i = .spawn h d a off → Rcd.armed r = false → Rcd.join r = 0 → roomOutsideReserve s1 (targetDie r die) (Rcd.prio r) = true →
        let p := pushRcd (back (r.withLti g.lti)) die g.ctx (r.withLti g.lti) (some (pusher c.w.core l))
        p.stop = none → CompletesWith s i h c l (dst (addLive p g.lti) cc l d false 0)) ∧
      (i = .spawn h d a off → Rcd.armed r = false → Rcd.join r ≠ 0 →
        CompletesWith s i h c l (dst (updLaunch (back ((r.withLti g.lti).withJoin (Rcd.join r) true)) g.lti
          fun e => { e with armed := e.armed + 1 }) cc l d false 1)) ∧
      (i = .spawn h d a off → Rcd.armed r = true → Handled s h c x 0x145 → Traps s i h c x 0x145 0) ∧
      (i = .joindec h d a off → Rcd.join r = 0 → Handled s h c x 0x144 → Traps s i h c x 0x144 0) ∧
      (i = .joindec h d a off → (1 < Rcd.join r ∨ Rcd.join r = 1 ∧ Rcd.armed r = false) →
        CompletesWith s i h c l (dst (back (r.withJoin (Rcd.join r - 1) (Rcd.armed r))) cc l d false (Rcd.join r - 1))) ∧
      (i = .joindec h d a off → Rcd.join r = 1 → Rcd.armed r = true → roomOutsideReserve s1 (targetDie r die) (Rcd.prio r) = true →
        let n := r.withJoin 0 false
        let p := pushRcd (back n) die (recordCtx (back n) n g.ctx) n (some (pusher c.w.core l))
        p.stop = none → CompletesWith s i h c l (dst (updLaunch (addLive p (Rcd.lti n)) (Rcd.lti n)
          fun e => { e with armed := e.armed - 1 }) cc l d false 0))) ∧
    (∀ s1 acc s2 bs, i = .launch h d a off → launchNeed a off cc s l = none → recAcc s0 cc l a off 128 false = (s1, .ok acc) →
      loadBytes s1 c.w l acc plainHint false = (s2, bs) →
      let r : LRec := BitVec.ofNat 1024 (ofBytes bs)
      (∀ q, LRec.reject r = none → launchRoom s2 die (bits r 142 140) = true →
        acceptLaunch (pathRelease s2 c.w [l]) die g.ctx r (some (pusher c.w.core l)) = q → q.1.stop = none →
        CompletesWith s i h c l (dst q.1 cc l d false q.2.toNat) ∧
        (die < 8 → ∃ k < 1024, (schedOf s2 die).launches.get? k = none ∧
          (schedOf q.1 die).launches.get? k = some { rcd := r, ctx := g.ctx, id := q.2, firstAt := s.cycle + 8 })) ∧
      (∀ n, LRec.reject r = some n → Handled s h c x 0x147 → Traps s i h c x 0x147 (w64 n)))) ∧
  (∀ (s : State) (c : Cursor) (x : Warp) (h : Hdr) (i : Instr) (d : Opd) (imm : W32), Ready s i c x → activeLanes s c h ≠ [] →
    let s0 := issuedState s c h
    let n := imm.toNat
    let queued := ((growOf s c.w.core).filter fun q => q.w == c.w).foldl (fun k q => k + q.n) 0
    (i = .rgrow h d imm → n ≠ 0 → n % 8 = 0 → n ≤ 120 → x.alloc + queued + n ≤ 128 → dstBeyond d (x.alloc + queued + n) = false →
      PathWaits s i h c (.stall (.rgrow d n)) { once s0 (.rgrowDeadlock c.w.core) with grow := s.grow.put c.w.core (growOf s c.w.core ++
        [{ w := c.w, lanes := maskOf (activeLanes s c h).contains, n := n, d := d, gid := x.gid }]) }) ∧
    (i = .rgrow h d imm → dstBeyond d (x.alloc + queued + n) = false → (n = 0 ∨ 120 < n ∨ n % 8 ≠ 0 ∨ 128 < x.alloc + queued + n) →
      Handled s h c x 0x142 → Traps s i h c x 0x142 0) ∧
    (i = .rgrow h d imm → dstBeyond d (x.alloc + queued + n) = true → Handled s h c x 0x022 → Traps s i h c x 0x022 0) ∧
    (i = .rshrink h d imm → n ≠ 0 → n % 8 = 0 → n ≤ 120 → n + 8 ≤ x.alloc → dstBeyond d (x.alloc - n) = false →
      PathCompletes s i h c ((activeLanes s c h).foldl (fun t l => dst t (acting s c h) l d false (x.alloc - n))
        (updWarp s0 c.w fun x => { x with alloc := x.alloc - n })))) ∧
  ∀ s : State, s.stop = none →
    -- the queues of a die hold no record beyond what lies on the die
    let near := fun (d : Nat) => ((schedOf s d).queues.toList.flatMap id).length < 512 ∧ ∀ q ∈ (schedOf s d).queues.toList.flatMap id, q.ov = none
    (∀ die idx L, die < 8 → (schedOf s die).launches = [(idx, L)] → L.active = true → L.waiting = false → L.emitted < L.total →
      (ctxOf s L.ctx).suspended = false → L.f 152 152 = 0 →
      let dest := launchDie L die L.emitted
      queuedOf s dest (die * 8192 + idx) < 64 → near dest → (schedOf s dest).waiting = [] →
      ∃ t, exec (.expanderEmit die) s = .next t ∧ t = { s with sched := t.sched } ∧
        (schedOf t die).launches = [(idx, { L with emitted := L.emitted + 1, live := L.live + 1, active := decide (L.emitted + 1 ≠ L.total) })] ∧
        ∃ q ∈ levelOf (schedOf t dest) (L.f 142 140), q.rcd = groupRecord L die idx L.emitted ∧ q.ctx = L.ctx) ∧
    (∀ die lv q, visited s die = [(lv, q)] → Rcd.isResume q.rcd = false →
      let p := popRcd s die lv q
      (∀ L core s1 frames, Rcd.kind q.rcd = 1 → launchOf p (Rcd.lti q.rcd) = some L → L.firstAt ≤ s.cycle →
        coreFor die (fun k => coreFits p k (LRec.warps L.rcd) (LRec.warps L.rcd * (32 * LRec.regs L.rcd + 64))
          (bits L.rcd 170 160 * 256 + LRec.slotBytes L.rcd (bits q.rcd 179 176))) = some core →
        flushedFor p q.ctx q.rcd = none → takeFrames p die q.ctx (LRec.warps L.rcd) = (s1, some frames) → s1.stop = none →
        launchOf s1 (Rcd.lti q.rcd) = some L →
        exec (.schedulerGrant die) s = .next (startGroup s1 core q.ctx q.rcd frames 0) ∧
        ((startGroup s1 core q.ctx q.rcd frames 0).groups.get? s1.nextId).map (fun g => (g.core, g.ctx, g.nwarps, g.stage)) =
          some (core, q.ctx, LRec.warps L.rcd, bits q.rcd 179 176)) ∧
      (Rcd.kind q.rcd = 4 → ((schedOf p die).launches.filter fun e => e.2.active).length < 16 →
        exec (.schedulerGrant die) s = .next (joinSets (updLaunch p (die * 8192 + Rcd.frame q.rcd % 8192)
          fun e => { e with active := true, waiting := e.f 152 152 == 1 }) die))) ∧
    (∀ die q, die < 8 → (schedOf s die).waiting = [q] →
      (near die → q.ov = none → ∃ t, exec (.devicePushRetry die) s = .next t ∧ t = { s with sched := t.sched } ∧
        (schedOf t die).waiting = [] ∧ { q with since := s.cycle } ∈ levelOf (schedOf t die) (Rcd.prio q.rcd)) ∧
      (roomForDevice s die (Rcd.prio q.rcd) = false → ∃ t, exec (.devicePushRetry die) s = .next t ∧ t = { s with sched := t.sched } ∧
        schedOf t die = { schedOf s die with qfull := true })) ∧
    (∀ ctx e s1 ks, let r := ctxOf s ctx
      let va := bits r.heldbase 56 5 * 32 + 32 * r.heldcnt.toNat
      r.heldWait = [e] → r.heldcnt.toNat < r.heldsize.toNat → sysAccess s e.2 ctx va 32 true false = (s1, .ok ks) → s1.stop = none →
      exec (.heldListPushRetry ctx) s = .next (updCtx (homeWrite s1 [] (ks.zip (toBytes 32 e.1.toNat))) ctx fun r =>
        { r with heldWait := [], heldcnt := r.heldcnt + 1, heldFailed := false, heldDies := r.heldDies ++ [e.2] })) ∧
    (∀ die, die < 8 → near die → ∃ t, exec (.queueAging die) s = .next t ∧ t = { s with sched := t.sched } ∧
      (∀ lv < 7, ∀ q ∈ levelOf (schedOf s die) lv, q.since + 65536 ≤ s.cycle →
        { q with since := s.cycle, byThread := none } ∈ levelOf (schedOf t die) (lv + 1)) ∧
      (∀ lv < 7, ∀ q ∈ levelOf (schedOf t die) lv, s.cycle < q.since + 65536) ∧
      ∀ q ∈ levelOf (schedOf s die) 7, q ∈ levelOf (schedOf t die) 7) ∧
    (∀ core q x, growOf s core = [q] → 32 * q.n ≤ freeRegs s core → warpAt s q.w = some x →
      ∃ t y, exec (.rgrowGrant core) s = .next t ∧ growOf t core = [] ∧ warpAt t q.w = some y ∧ y.alloc = x.alloc + q.n ∧
        ∀ l ∈ lanesOf q.lanes, (x.thr l).st = .stall (.rgrow q.d q.n) → (y.thr l).st = .running ∧ (y.thr l).pc = (x.thr l).pc + 12) ∧
    (∀ core, regDeadlock s core = true →
      (∀ e q rest, coreGroups s core = [e] → growOf s core = q :: rest →
        let s1 := { s with grow := s.grow.put core rest }
        let ls := (lanesOf q.lanes).filter fun l => (thrAt s q.w l).st == .stall (.rgrow q.d q.n)
        let t := takeTraps s1 q.w (thrAt s q.w (ls.headD 0)).pc (ls.map fun l => { lane := l, code := 0x141, addr := 0 })
        t.stop = none → exec (.rgrowDeadlock core) s = .next t) ∧
      (∀ y, y ∈ coreGroups s core → 1 < (coreGroups s core).length → (∀ e ∈ coreGroups s core, e.2.order < y.2.order ∨ e = y) →
        exec (.rgrowDeadlock core) s = .next (startSave
          { s with grow := s.grow.put core ((growOf s core).filter fun q => q.gid != y.1) } y.1 2)))

/-! ### Halyard collectives and links (10_halyard_collectives.md, 17_reference_d_l.md) -/

/-- HLRED, HLGATH and HLROT enter a command whose descriptor and entry are usable and answer 0, or wait while 16 are queued; HLWAIT waits for the
commands of its tag and answers the first failure, HLSTAT their last state; a hop of an FP32 reduction adds element by element in FP32; a
chunk that does not match its command fails it with 10Eh, and one taken before is acknowledged again; a chunk unacknowledged for 2^20 cycles
is sent over the alternate port while that is up, each time counting a reroute, or its command fails with 10Dh, and a silent predecessor fails it with 10Fh; a link with four lanes comes up
at the highest version of both sides, one with fewer is down, and so is one that has failed to send a flit again eight times; and a
time-alignment exchange sends its request, is answered, and yields the delay and the offset (R203 to R205, R207 to R211, R213, R214, R343,
R344). The first ordinal and the lanes after a link has failed (log 36), who answers a time-alignment request and with which cycles, and the cycles of
an exchange (log 37), and what happens to a command already rerouted (log 70) are the model's. -/
def Obligations.CollectivesAndLinks : Prop :=
  (∀ (s : State) (c : Cursor) (x : Warp) (h : Hdr) (i : Instr) (d a : Opd) (g : Group), Ready s i c x → s.groups.get? x.gid = some g →
    activeLanes s c h ≠ [] →
    let s0 := issuedState s c h
    let cc := acting s c h
    let die := dieOf c.w.core
    let all := fun (f : State → Nat → State) (t : State) => (activeLanes s c h).foldl f t
    (∀ kind s1 acc s2 bs, (i = .hlred h d a ∧ kind = 0 ∨ i = .hlgath h d a ∧ kind = 1 ∨ i = .hlrot h d a ∧ kind = 2) →
      pairAcc s0 cc ((activeLanes s c h).headD 0) a 64 false = (s1, .ok acc) → scarpPage acc = true →
      loadBytes s1 c.w ((activeLanes s c h).headD 0) acc plainHint false = (s2, bs) →
      let dsc : Dsc := BitVec.ofNat 512 (ofBytes bs)
      let at_ := collAddr s2 die (Dsc.ce dsc)
      let ent : HEnt := BitVec.ofNat 512 (ofBytes (devRead s2 at_ 64))
      scarpOk (at_ + 63) = true →
      (Dsc.malformed dsc kind (HEnt.n ent) = true → Handled s h c x 0x10B → Traps s i h c x 0x10B 0) ∧
      (Dsc.malformed dsc kind (HEnt.n ent) = false → HEnt.bad ent g.ctx = true → Handled s h c x 0x10C → Traps s i h c x 0x10C 0) ∧
      (Dsc.malformed dsc kind (HEnt.n ent) = false → HEnt.bad ent g.ctx = false → scarpOk (bits ent 179 128 + 2 * HEnt.n ent - 1) = true →
        (HEnt.rank s2 ent (HEnt.pos ent) ≠ s.hlpkgid.toNat → Handled s h c x 0x10C → Traps s i h c x 0x10C 0) ∧
        -- with ACQUIRE, what lies behind the releases that the path has read is drained
        let s3 := if dsc.getLsbD 17 then drainSeen s2 c.w (activeLanes s c h) else s2
        (HEnt.rank s2 ent (HEnt.pos ent) = s.hlpkgid.toNat → 16 ≤ (collOf s3 die).length →
          PathWaits s i h c (.stall (.collRoom d kind c.user dsc ent plainHint cc.lanes)) s3) ∧
        (HEnt.rank s2 ent (HEnt.pos ent) = s.hlpkgid.toNat → (collOf s3 die).length < 16 →
        let key := 256 * die + Dsc.ce dsc
        let q : HCmd :=
          { id := s3.nextId, kind := kind, dsc := dsc, ent := ent, succ := HEnt.rank s3 ent ((HEnt.pos ent + 1) % HEnt.n ent)
            ordinal := s3.collOrd.getD key 0 + 1, ctx := g.ctx, gid := x.gid, user := c.user, w := c.w, pc := c.pc, hint := plainHint }
        let t := collRun (setColl { s3 with nextId := s3.nextId + 1, collOrd := s3.collOrd.put key (s3.collOrd.getD key 0 + 1) } die
          (collOf s3 die ++ [q])) die
        t.stop = none → PathCompletes s i h c (all (fun t l => dst t cc l d false 0) t)))) ∧
    (i = .hlwait h d a ∨ i = .hlstat h d a →
      let w := kval s0 cc a 0
      let ids := tagged s die g.ctx w
      (i = .hlwait h d a → w < 4096 → collOpen s die ids = true → PathWaits s i h c (.stall (.coll d ids)) s0) ∧
      (i = .hlwait h d a → w < 4096 → collOpen s die ids = false →
        PathCompletes s i h c (all (fun t l => observe (dst t cc l d false (collStatus s ids)) c.w l) s0)) ∧
      (i = .hlstat h d a → w < 4096 →
        let v := statusWord s die ids
        PathCompletes s i h c (all (fun t l => let t := dst t cc l d false v; if v % 2 = 1 then observe t c.w l else t) s0) ∧
        (ids = [] → v = 4)) ∧
      (4096 ≤ w → Handled s h c x 0x10B → Traps s i h c x 0x10B 0))) ∧
  (∀ (q : HCmd) (part own : List Byte) (n j : Nat), Dsc.fmt q.dsc = 8 → Dsc.carry q.dsc = false → part.length = 4 * n → own.length = 4 * n →
    j < n →
    let el := fun (bs : List Byte) => ofBytes ((bs.drop (4 * j)).take 4)
    el (addPartial q part own) = Num.rne .f32 (Num.addFV (Num.ofFloat .f32 (el part)) (Num.ofFloat .f32 (el own))) % 2 ^ 32) ∧
  ∀ s : State, s.stop = none →
    (∀ m, let t := collRun (offerChunk s (m.port / 4) m) (m.port / 4)
      (t.stop = none → exec (.collectiveChunkArrival m) s = .next t) ∧
      ∀ q, (collOf s (m.port / 4)).find? (fun q => HEnt.collid q.ent == m.collid && q.ordinal == m.ordinal) = some q → q.started = true →
        q.stopped = false →
        ((m.kind ≠ q.kind ∨ m.count ≠ Dsc.count q.dsc ∨ m.fmt ≠ Dsc.fmt q.dsc ∨ m.carry ≠ Dsc.carry q.dsc) →
          offerChunk s (m.port / 4) m = endColl s (m.port / 4) q 0x10E) ∧
        (m.kind = q.kind → m.count = Dsc.count q.dsc → m.fmt = Dsc.fmt q.dsc → m.carry = Dsc.carry q.dsc → q.seen.contains m.seq = true →
          offerChunk s (m.port / 4) m = emit s m.port (.ack m.port m.collid m.ordinal m.seq))) ∧
    (∀ port collid ordinal seq,
      (∀ q t, (collOf s (port / 4)).find? (fun q => HEnt.collid q.ent == collid && q.ordinal == ordinal) = some q →
        collRun (updColl s (port / 4) q.id fun q => { q with unacked := q.unacked.filter fun u => u.1.seq != seq }) (port / 4) = t →
        t.stop = none → exec (.collectiveChunkAck port collid ordinal seq) s = .next t) ∧
      ((collOf s (port / 4)).find? (fun q => HEnt.collid q.ent == collid && q.ordinal == ordinal) = none →
        exec (.collectiveChunkAck port collid ordinal seq) s = .next s)) ∧
    (∀ die q, die < 8 → collOf s die = [q] →
      (∀ t, ackLate s q = true → (q.ent.getLsbD 196 = false ∨ (s.ports.getD (4 * die + bits q.ent 195 194) {}).up = false) →
        collRun (endColl s die q 0x10D) die = t → t.stop = none → exec (.chunkAckTimeout die) s = .next t) ∧
      (∀ t, ackLate s q = true → collRun (reroute s die q.id) die = t → t.stop = none → exec (.chunkAckTimeout die) s = .next t) ∧
      (let p := 4 * die + bits q.ent 195 194
       q.ent.getLsbD 196 = true → (s.ports.getD p {}).up = true → collOf (reroute s die q.id) die = [{ q with
         alt := true, reroutes := min 255 (q.reroutes + 1), unacked := q.unacked.map fun u => ({ u.1 with port := p }, s.cycle) }]) ∧
      (∀ t, predLate s q = true → collRun (endColl s die q 0x10F) die = t → t.stop = none → exec (.predecessorTimeout die) s = .next t)) ∧
    (∀ port versions lanes, collOf s (port / 4) = [] →
      (lanes < 4 → exec (.linkUp port versions lanes) s = .next (updPort s port fun p =>
        if p.up then { p with up := false, ver := 0, downev := true, lanes := lanes, failed := 0 } else { p with lanes := lanes })) ∧
      (4 ≤ lanes → exec (.linkUp port versions lanes) s = .next (updPort (emit s port (.versions port 6)) port fun p =>
        if natBit versions 2 then { p with up := true, ver := 2, lanes := 4, failed := 0 }
        else if natBit versions 1 then { p with up := true, ver := 1, lanes := 4, failed := 0 }
        else { p with nover := true, lanes := 4 })) ∧
      ∃ n < 5, exec (.linkDown port) s = .next (updPort { s with freeCtr := s.freeCtr + 1 } port fun p =>
        { p with up := false, ver := 0, downev := p.downev || p.up, lanes := n, failed := 0 })) ∧
    (∀ port, exec (.flitRetry ⟨port, false⟩) s = .next (updPort s port fun p => { p with retry := min 0xFFFF (p.retry + 1), failed := 0 }) ∧
      ((s.ports.getD port {}).failed < 7 → exec (.flitRetry ⟨port, true⟩) s =
        .next (updPort s port fun p => { p with retry := min 0xFFFF (p.retry + 1), failed := p.failed + 1 })) ∧
      (7 ≤ (s.ports.getD port {}).failed → exec (.flitRetry ⟨port, true⟩) s = exec (.linkDown port) s)) ∧
    (let p := bits s.hltctl 6 2
     let q := s.ports.getD p {}
     (q.up = true → q.ver = 2 → exec .timeAlignExchange s = .next (emit s p (.timeRequest p (w64 s.cycle)))) ∧
     (q.up = true → q.ver = 1 → exec .timeAlignExchange s = .next { s with hltctl := s.hltctl ||| 0x1000#32 })) ∧
    (∀ port t1, s.hltctl.getLsbD 0 = true → s.hltctl.getLsbD 1 = true → (s.ports.getD port {}).up = true → (s.ports.getD port {}).ver = 2 →
      exec (.timeAlignRequest port t1) s = .next (emit s port (.timeReply port t1 (w64 s.cycle) (w64 s.cycle)))) ∧
    (∀ t1 t2 t3 : W64, let there := (t2 - t1).toInt
      let back := (w64 s.cycle - t3).toInt
      exec (.timeAlignReply t1 t2 t3) s = .next { s with
        hltdly := BitVec.ofInt 32 (Int.tdiv (there + back) 2), hltoff := BitVec.ofInt 64 (Int.tdiv (there - back) 2) })

/-! ### Pennants (12_pennants.md, 18_reference_m_s.md) -/

/-- PNSEND puts one send on its way and waits for its status; PNMASK, PNPEND and PNACK read and change the group's pennant state, PNWAIT
answers the lowest pending pennant of its mask or waits for one, and PNRET returns and clears k62 and k63, with 121h outside a handler or where
a live lane of k62 is not in the path; outside the handler warp PNWAIT and PNRET trap with 122h, and a group without pennants traps with 124h. A send that reaches the pennant unit is taken into its group's pennant state, or settled with 3 where its context is unknown and 2
where it is not permitted; a peer's send joins those of its home die once, and its status settles a send of this package; a send without an
answer settles with 4; the sender goes on with its status; and a diversion of the one thread that takes part pushes its address, enters the
handler, and sets k62 and k63 (R242 to R246, R248, R249, R254, R366). -/
def Obligations.PennantsAreSentAndTaken : Prop :=
  (∀ (s : State) (c : Cursor) (x : Warp) (h : Hdr) (i : Instr) (g : Group), Ready s i c x → s.groups.get? x.gid = some g →
    activeLanes s c h ≠ [] →
    let s0 := issuedState s c h
    let cc := acting s c h
    let die := dieOf c.w.core
    let all := fun (f : State → Nat → State) (t : State) => (activeLanes s c h).foldl f t
    let low := fun (a : Opd) => lowPair s0 cc (activeLanes s c h) a
    let handler := x.num = lrec s g 157 153
    (∀ n wake d a b l s1 acc s2 bs, i = .pnsend h n wake d a b → activeLanes s c h = [l] → relNeed s c.w l = none →
      scarpAcc s0 cc (src s0 cc l a true) 16 false 0x0A0 = (s1, .ok acc) → loadBytes s1 c.w l acc plainHint false = (s2, bs) →
      let desc : BitVec 128 := BitVec.ofNat 128 (ofBytes bs)
      (descBad desc = true → Handled s h c x 0x123 → Traps s i h c x 0x123 0) ∧
      (descBad desc = false →
        let s3 := pathRelease s2 c.w [l]
        let q := makeSend s3 (.thread c.w l x.gid) die (w32 g.ctx) desc n.toNat (w64 (src s3 cc l b true)) wake
        exec i s = .next (stayBeside (waitLane c l (.stall (.pnsend d q.2)) (updGroup q.1 x.gid fun g => { g with tainted := true })) c [l]) ∧
        (∀ t, exec i s = .next t → (thrAt t c.w l).st = .stall (.pnsend d q.2) ∧
          ∀ j ∈ lanesOf c.lanes, j ≠ l → (thrAt t c.w j).st = .stall (.beside (maskOf [l].contains)) ∧ (thrAt t c.w j).pc = c.pc) ∧
        ((∀ e ∈ s3.sends, e.id ≠ s3.nextId) → ∃ e, q.1.sends = s3.sends ++ [e] ∧ e.id = q.2 ∧ e.num = n.toNat ∧ e.payload = w64 (src s3 cc l b true) ∧ e.lti = bits desc 47 32 ∧
          e.grp = bits desc 99 64 ∧ e.ctx = bits desc 31 16))) ∧
    (∀ p, g.pn = some p →
      (∀ d a, i = .pnmask h d a → PathCompletes s i h c (all (fun t l => dst t cc l d true p.mask.toNat) (setPn s0 cc { p with mask := low a }))) ∧
      (∀ sel d, i = .pnpend h sel d → PathCompletes s i h c (all (fun t l => dst t cc l d true (if sel then p.mask else p.pend).toNat)
        (if sel = false ∧ p.pend ≠ 0 then pkgAcquire s0 c.w.core else s0))) ∧
      (∀ d n, i = .pnack h d n → n.toNat < 64 →
        let k := n.toNat
        let got := p.pend.getLsbD k
        let val := fun j => if got then [lo32 (p.pay.getD k 0), hi32 (p.pay.getD k 0), w32 (p.cnt.getD k 0).toNat].getD j 0 else 0
        PathCompletes s i h c (all (fun t l => dstAt (dstAt (dstAt t cc l d 0 (val 0)) cc l d 1 (val 1)) cc l d 2 (val 2))
          (setPn (if got then pkgAcquire s0 c.w.core else s0) cc
            { p with pend := p.pend &&& ~~~(BitVec.ofNat 64 (2 ^ k)), pay := p.pay.setIfInBounds k 0, cnt := p.cnt.setIfInBounds k 0 }))) ∧
      (∀ d n, i = .pnack h d n → 64 ≤ n.toNat → Handled s h c x 0x120 → Traps s i h c x 0x120 0) ∧
      (∀ d a, i = .pnwait h d a →
        (handler → low a = 0 → PathCompletes s i h c (all (fun t l => dst t cc l d false 64) s0)) ∧
        (handler → p.pend &&& low a ≠ 0 →
          PathCompletes s i h c (all (fun t l => dst t cc l d false (lowestBit (p.pend &&& low a))) (pkgAcquire s0 c.w.core))) ∧
        (handler → low a ≠ 0 → p.pend &&& low a = 0 → PathWaits s i h c (.stall (.pnwait d (low a))) s0) ∧
        (¬handler → Handled s h c x 0x122 → Traps s i h c x 0x122 0)) ∧
      (∀ l s1 pc, i = .pnret h → activeLanes s c h = [l] → handler → (x.kreg 63).getLsbD 31 = true →
        x.kreg 62 &&& liveMask x &&& ~~~c.lanes = 0 → (traced s c.w && (traceOf s die).brs) = false → pop s0 cc l = (s1, .ok pc) →
        CompletesWith s i h c l (updWarp (updThr s1 c.w l fun t => { t with pc := pc }) c.w fun x =>
          { x with k := (x.k.setIfInBounds 62 0).setIfInBounds 63 0 })) ∧
      (i = .pnret h → ¬handler → Handled s h c x 0x122 → Traps s i h c x 0x122 0) ∧
      (∀ l, i = .pnret h → activeLanes s c h = [l] → handler →
        ((x.kreg 63).getLsbD 31 = false ∨ x.kreg 62 &&& liveMask x &&& ~~~c.lanes ≠ 0) → Handled s h c x 0x121 → Traps s i h c x 0x121 0)) ∧
    (g.pn = none → ((∃ d a, i = .pnmask h d a ∨ i = .pnwait h d a) ∨ (∃ sel d, i = .pnpend h sel d) ∨ (∃ d n, i = .pnack h d n) ∨ i = .pnret h) →
      Handled s h c x 0x124 → Traps s i h c x 0x124 0)) ∧
  (∀ v : W64, v ≠ 0 → v.getLsbD (lowestBit v) = true ∧ ∀ j < lowestBit v, v.getLsbD j = false) ∧
  (∀ (p : PnState) (n : Nat) (v : W64), n < 64 →
    (p.pend.getLsbD n = false → (p.take n v).2 = 0 ∧ (p.take n v).1.pend = p.pend ||| BitVec.ofNat 64 (2 ^ n) ∧
      (p.take n v).1.pay.getD n 0 = v ∧ (p.take n v).1.cnt.getD n 0 = 1) ∧
    (p.pend.getLsbD n = true → (p.take n v).2 = 1 ∧ (p.take n v).1.pend = p.pend ∧ (p.take n v).1.pay = p.pay ∧
      ((p.take n v).1.cnt.getD n 0).toNat = min 0xFFFF ((p.cnt.getD n 0).toNat + 1))) ∧
  ∀ s : State, s.stop = none →
    (∀ die e, s.sends = [e] → e.die = die → e.remote = false → e.status = none →
      (∀ s1 st, settle s e = some (s1, st) → (answerSend s1 e st).stop = none →
        exec (.pennantSendArrival die) s = .next (answerSend s1 e st)) ∧
      (s.ctxs.get? e.ctx = none → settle s e = some (s, 3)) ∧
      ((s.ctxs.get? e.ctx).isSome → permitted s e = false → settle s e = some (countRefused s e.ctx, 2)) ∧
      (∀ gid, (s.ctxs.get? e.ctx).isSome → permitted s e = true → sendTarget s e = .resident gid →
        let p := ((s.groups.getD gid {}).pn.getD {}).take e.num e.payload
        settle s e = some (updGroup s gid (fun g => { g with pn := g.pn.map fun _ => p.1 }), p.2)) ∧
      (∀ w l gid st, e.src = .thread w l gid → answerSend s e st = { s with sends := [{ e with status := some st }] })) ∧
    (∀ port m, m.reply = none → s.pnSeen.contains (m.srcPkg, m.srcDie, m.seq) = false → m.num < 64 →
      ∃ e, exec (.pennantFabricMessage port m) s = .next { s with
          nextId := s.nextId + 1, pnSeen := (m.srcPkg, m.srcDie, m.seq) :: s.pnSeen, sends := s.sends ++ [e] } ∧
        e.num = m.num ∧ e.payload = m.payload ∧ e.ctx = m.ctx ∧ e.lti = m.lti ∧ e.grp = m.grp ∧ e.die = m.lti % 65536 / 8192 ∧
        e.src = .fabric port m.srcPkg m.srcDie m.seq ∧ e.status = none ∧ e.remote = false) ∧
    (∀ port m, s.pnSeen.contains (m.srcPkg, m.srcDie, m.seq) = true → m.reply = none → exec (.pennantFabricMessage port m) s = .next s) ∧
    (∀ port m st e w l gid, m.reply = some st → s.sends = [e] → e.remote = true → e.status = none → e.seq = m.seq → e.src = .thread w l gid →
      dieOf w.core = m.srcDie → exec (.pennantFabricMessage port m) s = .next { s with sends := [{ e with status := some st }] }) ∧
    (∀ die e w l gid, s.sends = [e] → e.die = die → sendTimedOut s e = true → e.src = .thread w l gid →
      exec (.pennantNoAnswer die) s = .next { s with sends := [{ e with status := some 4 }] }) ∧
    (∀ w lane d id st, settledFor s w lane = some (d, id, st) → exec (.pnsendSettle w lane) s = .next
      { resumeLane (wakeDst s w lane d (w32 st)) w lane true with sends := s.sends.filter fun e => e.id != id }) ∧
    (∀ gid g p w x l s2, s.groups.get? gid = some g → g.pn = some p → mayDivert s gid = true → handlerWarp s g = some (w, x) →
      (List.range 32).filter (fun l => divertible (x.thr l)) = [l] →
      let s1 := pkgAcquire s w.core
      let t := thrAt s1 w l
      t.st = .running →
      push s1 { w := w, lanes := maskOf (· == l), pc := t.pc, user := nextUser s1 w.core (grp s1 w).ctx t } l t.pc = (s2, .ok ()) →
      exec (.pennantDiversion gid) s = .next (updWarp (updThr s2 w l fun t => { t with pc := w64 (lrec s g 255 192), wait := 0 }) w fun x =>
        { x with k := (x.k.setIfInBounds 62 (maskOf [l].contains)).setIfInBounds 63 (w32 (2 ^ 31 + lowestBit (p.pend &&& ~~~p.mask))) })) ∧
    (∀ gid, mayDivert s gid = false → exec (.pennantDiversion gid) s = .next s)

/-! ### System and debug instructions, registers and trace (13, 14, 17 to 19) -/

/-- SRD and SWR read and write the registers of a context, of BAR0 and of a thread that may be reached; SVC enters SVCENTRY in user mode with
the return address pushed and otherwise parks with 162h, and SRET returns; TLBI drops the translations it names; DCAP answers, delegates and
revokes capabilities; TRIG raises a trigger (R286 to R288, R332, R380 to R382, R395, R397). -/
def Obligations.SystemInstructionsComplete : Prop :=
  (∀ (s : State) (c : Cursor) (x : Warp) (h : Hdr) (i : Instr) (l : Nat) (g : Group), Solo s i h c x l → s.groups.get? x.gid = some g →
    let s0 := issuedState s c h
    let cc := acting s c h
    let s1 := settlePosted s0 c.w l
    (∀ o : SysOps, accessOpen s c.w l = false →
      let n := o.n.toNat
      let cx := namedCtx s1 cc l o.b
      (i = .srd h o → o.sp = .ctx →
        (∀ r, c.user = false → s.ctxs.get? cx = some r → n < 14 → CompletesWith s i h c l (dst s1 cc l o.r true (ctxReg r n))) ∧
        (c.user = true → Handled s h c x 0x128 → Traps s i h c x 0x128 0) ∧
        (c.user = false → s.ctxs.get? cx = none → Handled s h c x 0x129 → Traps s i h c x 0x129 0)) ∧
      (i = .srd h o → o.sp = .bar →
        (c.user = false → CompletesWith s i h c l (dst s1 cc l o.r true (readBar s1 n (barLen n)))) ∧
        (c.user = true → rightOf n = none → Handled s h c x 0x129 → Traps s i h c x 0x129 0)) ∧
      (∀ w t v, i = .srd h o → o.sp = .thr → c.user = false → namedThread s1 cc l o.b = some (w, t) → readThr s1 w t n = some v →
        CompletesWith s i h c l (dst s1 cc l o.r true v)) ∧
      (i = .swr h o →
        let v := src s1 cc l o.r true
        (o.sp = .ctx → c.user = false → (s.ctxs.get? cx).isSome → n < 14 →
          CompletesWith s i h c l (updCtx s1 cx fun r => setCtxReg r n v)) ∧
        (o.sp = .bar → c.user = false → exec i s = .next (inOrder s.agenda.length
          (completeLane i h c (Config.freeNat s.freeCtr) l (writeBar s1 none n (barLen n) v)))) ∧
        (o.sp = .ctx → c.user = true → Handled s h c x 0x128 → Traps s i h c x 0x128 0) ∧
        (∀ w t s2, o.sp = .thr → c.user = false → namedThread s1 cc l o.b = some (w, t) → writeThr s1 w t n v = some s2 →
          CompletesWith s i h c l s2))) ∧
    (∀ imm, i = .svc h imm →
      let e := (ctxOf s g.ctx).svcentry
      (∀ s2, c.user = true → bits e 56 2 ≠ 0 → push s0 cc l (c.pc + 12) = (s2, .ok ()) →
        CompletesWith s i h c l (updThr s2 c.w l fun t => { t with pc := w64 (bits e 56 2 * 4), gate := true })) ∧
      ((c.user = false ∨ bits e 56 2 = 0) → (∀ tr ∈ s.trace.toList, tr.live = false) →
        ∃ t, exec i s = .next t ∧ t.mem = s.mem ∧ (thrAt t c.w l).st = .parked ∧ (thrAt t c.w l).pc = c.pc ∧
          ((x.thr l).inh = false → (thrAt t c.w l).cause = 0x162 ∧ (thrAt t c.w l).tepc = c.pc))) ∧
    (i = .sret h →
      (∀ s2 pc, c.user = false → pop s0 cc l = (s2, .ok pc) → CompletesWith s i h c l (updThr s2 c.w l fun t => { t with pc := pc })) ∧
      (c.user = true → Handled s h c x 0x128 → Traps s i h c x 0x128 0)) ∧
    (∀ mode a b, i = .tlbi h mode a b → accessOpen s c.w l = false → c.user = false →
      let cx := namedCtx s0 cc l b
      (mode = .all ∨ (s.ctxs.get? cx).isSome) →
      let s2 := pkgRelease s1 c.w.core
      let va := src s2 cc l a true
      let out := fun (p : Page) => match mode with
        | .va => p.ctx == cx && decide (p.va ≤ va) && decide (va < p.va + p.size)
        | .ctx => p.ctx == cx
        | .all => true
      ∃ t, CompletesWith s i h c l t ∧ KeepsRegs s t ∧ t.mem = s2.mem ∧
        (∀ core, t.ms.tlb.getD core [] = (s2.ms.tlb.getD core []).filter fun e => !out e.page) ∧
        ∀ die, t.ms.tcache.getD die [] = (s2.ms.tcache.getD die []).filter fun e => !out e.page) ∧
    (∀ op d a b m, i = .dcap h op d a b m → scarpOk (s.dcapbase.toNat + 65535) = true →
      let hd := operand s c h l a false
      let e := hd % 4096
      let r := operand s c h l b false
      let ent := dentNow s0 e
      let live := ent.valid && ent.gen == hd / 4096
      (op = .qry → CompletesWith s i h c l (dst s0 cc l d false (if live then ent.rights + 1 else 0))) ∧
      (op = .rev → live = false → CompletesWith s i h c l (dst s0 cc l d false 0)) ∧
      (op = .rev → live = true → (c.user = false ∨ ent.holder = g.ctx) →
        CompletesWith s i h c l (dst (pkgRelease (revoke s0 e cc.lat) c.w.core) cc l d false 1)) ∧
      (op = .dlg → (live = false ∨ c.user = true ∧ ent.holder ≠ g.ctx) → Handled s h c x 0x12A → Traps s i h c x 0x12A 0) ∧
      (∀ n, op = .dlg → live = true → (c.user = false ∨ ent.holder = g.ctx) → r < 256 → r % 2 = 0 →
        Nat.land (keep r 7 1) (254 - ent.rights) = 0 → freeDent s0 = some n → s.revoked = [] →
        let gen := (dentNow s0 n).gen
        CompletesWith s i h c l (dst (putDent s0 c.w.core n (DEnt.make true r (operand s c h l m false) ent.target e gen)) cc l d false
          (gen * 4096 + n))) ∧
      (op = .dlg → live = true → (c.user = false ∨ ent.holder = g.ctx) → freeDent s0 = none → r < 256 → r % 2 = 0 →
        Nat.land (keep r 7 1) (254 - ent.rights) = 0 → CompletesWith s i h c l (dst s0 cc l d false 0)))) ∧
  (∀ (s : State) (c : Cursor) (x : Warp) (h : Hdr) (imm : W32), Ready s (.trig h imm) c x → activeLanes s c h ≠ [] →
    ((c.user = false ∨ (holds s c.w .trace fun _ => true).isSome) →
      PathCompletes s (.trig h imm) h c (trigger (issuedState s c h) fun t => t.src.getLsbD 0)) ∧
    (c.user = true → holds s c.w .trace (fun _ => true) = none → Handled s h c x 0x12A → Traps s (.trig h imm) h c x 0x12A 0)) ∧
  (∀ (r : Ctx) (i j v : Nat), i < 14 → j < 14 → v < 2 ^ 64 →
    (i ≠ j → ctxReg (setCtxReg r i v) j = ctxReg r j) ∧
    ctxReg (setCtxReg r i v) i = match i with
      | 0 | 11 => keep v 51 12
      | 1 => keep v 56 0
      | 2 => keep v 4 0 + keep v 31 8
      | 3 => v
      | 4 => keep v 15 0
      | 5 => keep v 0 0
      | 6 => keep v 51 17
      | 7 | 13 => keep v 56 2
      | 8 => keep v 56 5
      | 9 | 12 => keep v 31 0
      | _ => r.heldcnt.toNat)

/-- A debug halt, resume or step takes the groups of its context on the cores it names; a host write acts on the register of its offset, and
an access that R258 and R259 do not let through is aborted; a trace trigger takes effect after 8 cycles and capture ends after its records;
tide-table sampling writes a row whose blocks begin with the count, and starts again (R258, R259, R283, R285, R380). That TIDESIZE 0 writes no row and
keeps SEQ (log 41), which groups a step halts and when a stepped thread parks (log 42), and that each die judges its own TRCCYC (log 39), are the
model's readings. -/
def Obligations.RegistersTraceAndHalts : Prop :=
  ∀ s : State, s.stop = none →
    (∀ core all ctx, (s.groups.map Prod.fst).Nodup →
      let hit := fun (g : Group) => g.ctx == ctx && (all || g.core == core)
      (∃ t, exec (.dbghaltHalt core all ctx) s = .next t ∧ t = { s with groups := t.groups } ∧ ∀ k, t.groups.get? k =
        (s.groups.get? k).map fun g => if hit g then { g with halted := true, haltBy := s.dbgBy } else g) ∧
      (∃ t, exec (.dbghaltResume core all ctx) s = .next t ∧ t = { s with groups := t.groups, warps := t.warps } ∧ KeepsRegs s t ∧
        (∀ k, t.groups.get? k = (s.groups.get? k).map fun g => if hit g then { g with halted := false, haltBy := none } else g) ∧
        ∀ k g w y, s.groups.get? k = some g → hit g = true → w ∈ g.warps → warpAt t w = some y → y.step1 = false) ∧
      ∃ t, exec (.dbghaltStep core all ctx) s = .next t ∧ t = { s with groups := t.groups, warps := t.warps } ∧ KeepsRegs s t ∧
        (∀ k, t.groups.get? k = (s.groups.get? k).map fun g => if hit g then { g with halted := true, haltBy := s.dbgBy } else g) ∧
        ∀ k g w y, s.groups.get? k = some g → hit g = true → g.halted = true → w ∈ g.warps → warpAt t w = some y → y.step1 = true) ∧
    (∀ (off : Nat) (eight : Bool) (v : W64),
      let t := writeBar s none off (if eight then 8 else 4) v.toNat
      exec (.registerWrite off eight v) s = .next t ∧
      (eight = true → off ∈ [0x2010, 0x2040, 0x2058] → readBar t off 8 = v.toNat) ∧
      (eight = true → off = 0x2030 → t = s) ∧
      (eight = true → off = 0x2070 → readBar t off 8 = keep v.toNat 51 16) ∧
      (eight = true → off = 0x2038 → readBar t off 8 = keep v.toNat 0 0 + keep v.toNat 35 2)) ∧
    (∀ off len tag, (barAccess off len = false → exec (.bar0BadAccess off len tag) s = .next (reply s (.abort tag))) ∧
      (barAccess off len = true → exec (.bar0BadAccess off len tag) s = .next s)) ∧
    (∀ die, ∃ t, exec (.traceCycleTrigger die) s = .next t ∧ t = { s with trace := t.trace } ∧ ∀ d < 8, traceOf t d =
      if (traceOf s d).live && (traceOf s d).effect.isNone && (traceOf s d).left.isNone && (traceOf s d).src.getLsbD 2 &&
        (traceOf s d).cyc.toNat == s.cycle then { traceOf s d with effect := some (s.cycle + 8) } else traceOf s d) ∧
    (∀ d, d < 8 → (traceOf s d).effect.any (· ≤ s.cycle) = true → (∀ e < 8, e ≠ d → (traceOf s e).effect.any (· ≤ s.cycle) = false) →
      (traceOf s d).lost = 0 → logRoom s d 1 = true →
      scarpOk ((traceOf s d).base.toNat / 4096 * 4096 + 16 * ((traceOf s d).wr.toNat % 2 ^ ((traceOf s d).size + 8)) + 15) = true →
      ∃ t, exec .triggerEffect s = .next t ∧ KeepsRegs s t ∧ (traceOf t d).effect = none ∧
        (traceOf t d).left = some (min (traceOf s d).post.toNat (2 ^ ((traceOf s d).size + 8))) ∧
        (traceOf t d).wr = (traceOf s d).wr + (if (traceOf s d).live then 1 else 0) ∧
        ∀ e < 8, e ≠ d → traceOf t e = traceOf s e) ∧
    (∀ d, d < 8 → ∃ t, exec (.traceCaptureEnd d) s = .next t ∧ t = { s with trace := t.trace } ∧
      traceOf t d = if (traceOf s d).left = some 0 then { traceOf s d with stopped := true, left := none } else traceOf s d) ∧
    (s.tide.en = true → s.cycle % 2 ^ s.tide.k = 0 →
      let at_ := s.tide.base.toNat + 32768 * (s.tide.seq.toNat % s.tide.rows.toNat)
      (s.tide.rows = 0 ∨ scarpOk (at_ + 32767) = true) →
      ∃ t, exec .tideLatch s = .next t ∧ KeepsRegs s t ∧
        t.tide = { s.tide with seq := if s.tide.rows = 0 then s.tide.seq else s.tide.seq + 1, start := s.cycle, heldCycles := 0, counts := [] } ∧
        (s.tide.rows ≠ 0 → s.mem.wf = true → s.ms.hostLines = [] → ∀ d < 8, ∀ j < 8,
          homeByte t (at_ + 4096 * d + j) = (toBytes 8 s.cycle).getD j 0)) ∧
    (s.tide.en = false ∨ s.cycle % 2 ^ s.tide.k ≠ 0 → exec .tideLatch s = .next s)

/-! ### Pre-emption, saves and fault records (11_traps_and_preemption.md) -/

/-- A pre-emption drains a group that is expected to end in time and begins to save one that can neither drain nor restart, and a suspension also
moves the context's queued records to its held list, from which CTXRESUME pushes them again; a drain that lasts too long becomes a save, and a save that is ready either takes its group off the core
with its saved state or gives it back to drain (R231 to R236). A fault record that software disposes of is no longer outstanding and its
threads retry, skip or enter their handler, or their group is killed; a disposition of no record, or one that its record does not allow, is
refused with DERR; records wait in the die while the queue has no room (R227, R228). The die that CTXRESUME pushes a record to is the model's reading
(log 28). -/
def Obligations.PreemptionAndFaultRecords : Prop :=
  ∀ s : State, s.stop = none →
    (∀ (i : Instr) (hit : Group → Bool), (∃ k, i = .preemptContext k ∧ hit = fun g => g.ctx == k) ∨ (∃ k, i = .preemptCore k ∧ hit = fun g => g.core == k) →
      (∀ t, preemptDone (preemptAll s hit) = t → t.stop = none → exec i s = .next t) ∧
      (∀ gid g, s.groups = [(gid, g)] → hit g = true → g.ending = false → g.pre = .none →
        (mayDrain s g = true → ∃ t, exec i s = .next t ∧ KeepsRegs s t ∧
          (t.groups.get? gid).map (·.pre) = some (.draining (s.cycle + drainWindow s))) ∧
        (mayDrain s g = false → mayFlush s gid g = false → ∃ t, exec i s = .next t ∧ KeepsRegs s t ∧ t.mem = s.mem ∧
          (t.groups.get? gid).map (·.pre) = some (.saving 1)))) ∧
    (∀ ctx t, (s.ctxs.get? ctx).isSome →
      preemptDone (preemptAll (holdRecords { updCtx s ctx (fun r => { r with suspended := true }) with preSuspend := some ctx } ctx)
        fun g => g.ctx == ctx) = t → t.stop = none →
      exec (.preemptSuspend ctx) s = .next t ∧ (ctxOf t ctx).suspended = true ∧ ∀ die, queuedRcds t die ctx = []) ∧
    (∀ ctx, ((ctxOf s ctx).suspended = false → exec (.ctxresume ctx) s = .next s) ∧
      ∀ s1 rs, (s.ctxs.get? ctx).isSome → (ctxOf s ctx).suspended = true → heldRecords s ctx = (s1, some rs) →
        let r := ctxOf s1 ctx
        let t := (rs.zip (r.heldDies ++ List.replicate rs.length 0) ++ r.heldWait).foldl (fun (u : State) (e : BitVec 256 × Nat) => pushRcd u e.2 ctx e.1 none)
          (updCtx s1 ctx fun r => { r with suspended := false, heldcnt := 0, heldDies := [], heldWait := [] })
        t.stop = none → exec (.ctxresume ctx) s = .next t) ∧
    (∀ gid g, s.groups.get? gid = some g →
      (saveReady s gid = false → exec (.saveComplete gid) s = .next s) ∧
      (saveReady s gid = true → (completeSave s gid).stop = none → ∃ t, exec (.saveComplete gid) s = .next t ∧
        ((t.groups.get? gid = none ∧ ∃ v ∈ t.saved, v.gid = gid) ∨
          (t.groups.get? gid).map (·.pre) = some (.draining (s.cycle + drainWindow s)))) ∧
      (∀ d, g.pre = .draining d → g.ending = false →
        (d ≤ s.cycle → ∃ t, exec (.drainWindowExpiry gid) s = .next t ∧ KeepsRegs s t ∧ t.mem = s.mem ∧
          (t.groups.get? gid).map (·.pre) = some (.saving 1)) ∧
        (s.cycle < d → exec (.drainWindowExpiry gid) s = .next s))) ∧
    (∀ die seq i, (i = .fltdoneRetry die seq ∨ i = .fltdoneSkip die seq ∨ i = .fltdoneDeliver die seq ∨ i = .fltdoneKill die seq) →
      (outstandingRec s die seq = none → exec i s = .next (refuseDone s die)) ∧
      (∀ r, outstandingRec s die seq = some r →
        let gone := fun (t : State) => ∀ q ∈ (fqOf t die).outstanding, q.seq ≠ seq
        (r.kind = 0 → r.cmd = none → gidOf s r.place ≠ r.gid → (i = .fltdoneRetry die seq ∨ i = .fltdoneSkip die seq ∧ 0x160 ≤ r.code ∧ r.code ≤ 0x163) →
          exec i s = .next (dispose s die seq)) ∧
        (r.kind = 0 → r.cmd = none → gidOf s r.place = r.gid → i = .fltdoneRetry die seq →
          ∃ t, exec i s = .next t ∧ KeepsRegs s t ∧ t.mem = s.mem ∧ gone t ∧ ∀ l ∈ lanesOf r.lanes, (thrAt s r.place l).st = .parked →
            (thrAt t r.place l).st = .running ∧ (thrAt t r.place l).pc = if r.inh then r.ipc else (thrAt s r.place l).rgnpc) ∧
        (r.kind = 2 → (∀ id, r.cmd = some id → copyById s die id = none) → r.cmd ≠ none → i = .fltdoneRetry die seq →
          exec i s = .next (updCoal (dispose s die seq) r.core fun q => q.map fun x => if some x.id == r.cmd then { x with stopped := false } else x)) ∧
        (r.kind = 0 → 0x160 ≤ r.code → r.code ≤ 0x163 → gidOf s r.place = r.gid → i = .fltdoneSkip die seq →
          ∃ t, exec i s = .next t ∧ KeepsRegs s t ∧ t.mem = s.mem ∧ gone t ∧ ∀ l ∈ lanesOf r.lanes, (thrAt s r.place l).st = .parked →
            (thrAt t r.place l).st = .running ∧
            (thrAt t r.place l).pc = if r.code = 0x161 then (thrAt s r.place l).pc else r.ipc + 12) ∧
        ((r.kind ≠ 0 ∨ r.code < 0x160 ∨ 0x163 < r.code) → i = .fltdoneSkip die seq → exec i s = .next (refuseDone s die)) ∧
        (let entry := (ctxOf s r.ctx).trapentry &&& 0x01FFFFFFFFFFFFFC#64
         r.kind = 0 → i = .fltdoneDeliver die seq →
          ((r.inh = true ∨ entry = 0) → exec i s = .next (refuseDone s die)) ∧
          (r.inh = false → entry ≠ 0 → r.cmd = none → gidOf s r.place = r.gid → (∀ tr ∈ s.trace.toList, tr.live = false) →
            ∃ t, exec i s = .next t ∧ t.mem = s.mem ∧ gone t ∧ ∀ l ∈ lanesOf r.lanes, (thrAt s r.place l).st = .parked →
              (thrAt t r.place l).st = .running ∧ (thrAt t r.place l).pc = entry ∧ (thrAt t r.place l).inh = true ∧
              (thrAt t r.place l).cause = BitVec.ofNat 9 r.code ∧ (thrAt t r.place l).tepc = r.ipc)) ∧
        (r.kind ≠ 0 → i = .fltdoneKill die seq → exec i s = .next (refuseDone s die)) ∧
        (r.kind = 0 → i = .fltdoneKill die seq →
          (s.groups.get? r.gid = none → exec i s = .next (dispose s die seq)) ∧
          ∀ g, s.groups.get? r.gid = some g → (killGroup (dispose s die seq) r.gid g).stop = none →
            exec i s = .next (killGroup (dispose s die seq) r.gid g)))) ∧
    (∀ die r, let q := fqOf s die
      q.waiting = [r] →
      (q.en = false → exec (.faultRecordRetry die) s = .next s) ∧
      (q.en = true → q.room = false → exec (.faultRecordRetry die) s = .next (updFq s die fun q => { q with full := true })) ∧
      (q.en = true → q.room = true → scarpOk (q.base.toNat / 4096 * 4096 + 64 * (q.tail.toNat % q.ring) + 63) = true →
        ∃ t, exec (.faultRecordRetry die) s = .next t ∧ KeepsRegs s t ∧ (fqOf t die).waiting = [] ∧ (fqOf t die).tail = q.tail + 1 ∧
          (r.kind ≤ 3 → r.ended = false → (fqOf t die).outstanding = q.outstanding ++ [r])))

/-! ### The host link, contexts and attestation (13_host_and_system.md, 04_memory_hierarchy.md R98) -/

/-- Requests before the package is ready draw Retry Status or Unsupported Request, and so do requests that CXL.cache does not have; the link
takes the width, rate and version it trained to; unmasking a vector sends its pending message; configuration accesses of function 0 read and
write MSI-X Enable, Function Mask and BAR0, and another function is not there; a snoop is answered with the line that D0 holds, which SnpInv
takes away, and SnpInv wakes the queues whose tail lies in the line; the queue agent stops with OVF on a tail count beyond its ring and else
takes packets up to it; contexts become known and unknown; an attestation burns a fuse, and its end sends vector 9 (R27, R78, R79, R98,
R256 to R258, R262, R265, R266). The rates at which a link trains and the places of the configuration registers (log 12), what becomes of the other half
of a snooped line (log 43), the 90 cycles of every snoop (log 4), a queue's read in the cycle of its enable (log 49), that a queue reads again while
its tail moves (log 82), and BADID alone for a refused create that would also be FULL (log 83), are the model's. -/
def Obligations.HostEventsComplete : Prop :=
  ∀ s : State, s.stop = none →
    (∀ config tag, exec (.hostRequestNotReady config tag) s = .next { s with
      hostOut := (if config then .retry tag else .unsupported tag) :: s.hostOut }) ∧
    (∀ tag, s.replay.getLsbD 0 = false →
      exec (.cxlUnsupportedRequest tag) s = .next { s with hostOut := .unsupported tag :: s.hostOut }) ∧
    (∀ width gts ver,
      (linkFits width gts = true → exec (.hostLinkTraining width ⟨gts, ver⟩) s =
        .next { s with linkWidth := width, linkRate := gts, linkVer := min ver 7 }) ∧
      (linkFits width gts = false → exec (.hostLinkTraining width ⟨gts, ver⟩) s = .next s)) ∧
    (∀ n, n < 16 →
      (s.msix.enable = true → s.msix.fmask = false → s.msix.mask.getLsbD n = false → s.msix.pend.getLsbD n = true → s.replay.getLsbD 0 = false →
        exec (.msixVectorUnmask n) s = .next { s with
          msix := { s.msix with pend := s.msix.pend &&& ~~~BitVec.ofNat 16 (2 ^ n), sent := n :: s.msix.sent } }) ∧
      (s.msix.pend.getLsbD n = false → exec (.msixVectorUnmask n) s = .next s)) ∧
    (∀ write fn reg (v : W32) tag, s.replay.getLsbD 0 = false → fn ≠ 0 →
      exec (.hostConfigRequest write ⟨fn, reg⟩ v tag) s = .next { s with hostOut := .unsupported tag :: s.hostOut }) ∧
    (∀ reg (v : W32) tag, s.replay.getLsbD 0 = false →
      (∃ t, exec (.hostConfigRequest true ⟨0, reg⟩ v tag) s = .next t ∧ t.hostOut = .config tag 0 :: s.hostOut ∧ t.mem = s.mem ∧ KeepsRegs s t ∧
        (reg = msixReg → t.msix = { s.msix with enable := v.getLsbD 31, fmask := v.getLsbD 30 }) ∧
        (reg ≠ msixReg → t.msix = s.msix) ∧
        (reg = 4 → t.bar0.toNat = s.bar0.toNat / 2 ^ 32 * 2 ^ 32 + v.toNat / 2 ^ 24 * 2 ^ 24) ∧
        (reg = 5 → t.bar0.toNat = v.toNat * 2 ^ 32 + s.bar0.toNat % 2 ^ 32) ∧
        (reg ≠ 4 → reg ≠ 5 → t.bar0 = s.bar0)) ∧
      ∃ r, exec (.hostConfigRequest false ⟨0, reg⟩ v tag) s = .next { s with freeCtr := s.freeCtr + 1, hostOut := .config tag r :: s.hostOut } ∧
        (reg = msixReg → r.getLsbD 31 = s.msix.enable ∧ r.getLsbD 30 = s.msix.fmask) ∧
        (reg = 4 → r.toNat = s.bar0.toNat % 2 ^ 32 / 2 ^ 24 * 2 ^ 24 + 4) ∧ (reg = 5 → r.toNat = s.bar0.toNat / 2 ^ 32) ∧
        (6 ≤ reg → reg ≤ 9 → r = 0)) ∧
    (∀ kind line, s.replay.getLsbD 0 = false →
      let k := hostLineKey line
      let data := ((s.ms.hostLines.get? k).map fun h => (h.data.drop (line % 2 * 64)).take 64).getD []
      (∃ t more, exec (.hostSnoop kind line) s = .next t ∧ t.hostOut = more ++ .snoop kind line data :: s.hostOut ∧ KeepsRegs s t) ∧
      exec (.hostSnoop .cur line) s = .next { s with hostOut := .snoop .cur line data :: s.hostOut } ∧
      ∃ t, exec (.hostSnoop .inv line) s = .next t ∧ t.ms.hostLines.get? k = none ∧ ∀ n < 16, t.hq.getD n {} =
        if (s.hq.getD n {}).en && (s.hq.getD n {}).tail.toNat / 64 == line then
          { s.hq.getD n {} with woken := true, readAt := s.cycle + 90, tailIs := none, pkt := none } else s.hq.getD n {}) ∧
    (∀ n, n < 16 → exec (.hqEnable n) s = .next (updHq s n fun q =>
      { q with woken := true, readAt := s.cycle, tailIs := none, pkt := none })) ∧
    (∀ n, n < 16 →
      (agentDue s n = false → exec (.queueAgentPackets n) s = .next s) ∧
      (agentDue s n = true →
        let q := s.hq.getD n {}
        let at_ := hostKey q.tail.toNat
        let p := packetKey q
        -- the tail count and the head packet are read, and acted upon once the host has answered
        (∀ t, q.tailIs = none → t = updHq (agentAsks s n [at_, p, p + 64]) n (fun q =>
            { q with tailIs := some (w32 (ofBytes (homeRead s at_ 4))), pkt := some (homeRead s p 128) }) → t.stop = none →
          exec (.queueAgentPackets n) s = .next t) ∧
        ∀ tail, q.tailIs = some tail →
          (q.ring < (tail - q.head).toNat → exec (.queueAgentPackets n) s = .next (updHq s n fun q =>
            { q with ovf := true, en := false, woken := false, tailIs := none, pkt := none })) ∧
          (tail = q.head → (agentRest s n).stop = none → exec (.queueAgentPackets n) s = .next (agentRest s n)) ∧
          ∀ t, (tail - q.head).toNat ≤ q.ring → agentWork n tail (3 * q.ring + 3) s = t → t.stop = none →
            exec (.queueAgentPackets n) s = .next t)) ∧
    (∀ id,
      ((id = 0 ∨ 0xFFFF ≤ id ∨ (s.ctxs.get? id).isSome) → exec (.ctxCreate id) s = .next { s with ctxBadId := true }) ∧
      (0 < id → id < 0xFFFF → s.ctxs.get? id = none → 4096 ≤ s.ctxs.length → exec (.ctxCreate id) s = .next { s with ctxFull := true }) ∧
      (0 < id → id < 0xFFFF → s.ctxs.get? id = none → s.ctxs.length < 4096 →
        exec (.ctxCreate id) s = .next { s with ctxs := s.ctxs.put id {} }) ∧
      (s.ctxs.get? id = none → exec (.ctxDestroy id) s = .next { s with ctxBadId := true }) ∧
      ((s.ctxs.get? id).isSome → ctxInUse s id = true → exec (.ctxDestroy id) s = .next { s with ctxRefused := true }) ∧
      ((s.ctxs.get? id).isSome → ctxInUse s id = false → ∃ t, exec (.ctxDestroy id) s = .next t ∧ t.ctxs.get? id = none ∧
        (∀ j, j ≠ id → t.ctxs.get? j = s.ctxs.get? j) ∧ KeepsRegs s t ∧ t.mem = s.mem ∧
        ∀ core e, e ∈ t.ms.tlb.getD core [] → e.page.ctx ≠ id)) ∧
    (∀ addr, (s.att.isSome → exec (.attreq addr) s = .next s) ∧
      (s.att = none → ∃ f, exec (.attreq addr) s = .next { s with
        freeCtr := s.freeCtr + 1, att := some (addr, w32 (attIndex s)), attUsed := if s.attUsed < 2 ^ 20 then s.attUsed + 1 else s.attUsed
        timed := s.timed ++ [((s.cycle + 1 + f) % 2 ^ 64, .attestationComplete)] })) ∧
    (∀ addr idx, s.att = some (addr, idx) → ∃ t, exec .attestationComplete s = .next t ∧ t.att = none ∧ KeepsRegs s t ∧
      (s.msix.enable = true → s.msix.fmask = false → s.msix.mask.getLsbD 9 = false → s.replay.getLsbD 0 = false →
        t.msix.sent = 9 :: s.msix.sent))

/-! ### Power, start-up, reset and soft errors (01_device_overview.md, 13, 14) -/

/-- PWRCTL's command waits for the first multiple of 4 at or after PWRCYC and after the present cycle, a thermal trip commands step 2, and a step
takes effect at its cycle with vector 8; power lost leaves only fuses, the link and host memory, and a package reset or power applied starts the
package from its reset values; start-up takes 128 steps and the package is ready, with its count at 0, once every boundary has trained and the
firmware has been verified; verification fails on an image that is bad or older than the floor, and else raises the floor; refresh ticks
count, a soft error found without a requester is reported with a record of KIND 5, and lines of class 10b age (R25 to R27, R105, R229, R262,
R266 to R268, R271, R272). That what verification found shows again after a later reset, the tally of refreshes and the steps of training (log 44),
and that unwritten bytes read 0 after a loss of power (log 1), are the model's. -/
def Obligations.PowerAndResetEvents : Prop :=
  ∀ s : State, s.stop = none →
    (∀ step, ∃ c, exec (.pwrctlGo step) s = .next { s with pwrCmd := some (step, c) } ∧ c % 4 = 0 ∧ s.pwrcyc.toNat ≤ c ∧ s.cycle < c ∧
      c < max s.pwrcyc.toNat (s.cycle + 1) + 4) ∧
    (∀ die, ∃ c, exec (.thermalTrip die) s = .next (msixRaise { s with therm := true, thermAt := some c } 8) ∧
      (s.thermAt = none → c % 4 = 0 ∧ s.cycle < c ∧ c ≤ s.cycle + 4) ∧ ∀ d, s.thermAt = some d → c = d) ∧
    (∀ step c, s.pwrCmd = some (step, c) → s.thermAt = none → (∀ d < 8, (traceOf s d).live = false) →
      (c ≤ s.cycle → exec .powerStepEffect s = .next (msixRaise { s with pwrCmd := none, pwrCur := step } 8)) ∧
      (s.cycle < c → exec .powerStepEffect s = .next s)) ∧
    (∀ c, s.thermAt = some c → c ≤ s.cycle → s.pwrCmd = none → (∀ d < 8, (traceOf s d).live = false) →
      exec .powerStepEffect s = .next (msixRaise { s with thermAt := none, pwrCur := 2 } 8)) ∧
    (let off : State := { s with
       toPackage := {}, swState := 0, startup := 0, training := 0, ready := false, began := false, verified := false, bootErr := 0 }
     let cold : State := { off with
       bootDone := false, bootRes := 0, inReset := false, replayCtl := 0, replayEnd := 0, slackStop := 0, swErr := 0, imgBase := 0, imgSize := 0 }
     exec .packageReset s = .next { off with inReset := true } ∧ exec .powerOn s = .next { cold with power := true } ∧
     ∃ m, exec .powerLoss s = .next { cold with power := false, mem := m } ∧
       (s.mem.wf = true → ∀ k, m.get k = if isHost k then s.mem.get k else 0)) ∧
    (s.inReset = true → exec .resetRelease s = .next { s with
      inReset := false, startup := 0, training := 0, ready := false, cycle := 0
      replay := if s.replayCtl.getLsbD 0 then w64 (bits s.replayCtl 35 2) else 0
      verified := if s.bootDone then s.bootRes == 0 else s.verified, bootErr := if s.bootDone then s.bootRes else s.bootErr }) ∧
    (s.inReset = false → exec .resetRelease s = .next s) ∧
    (s.power = true → s.inReset = false → s.ready = false →
      let tally := fun (u : State) => Vector.ofFn fun i : Fin 16 =>
        if started u (i.val / 2) 0 then (u.startup + u.training - 16 * (i.val / 2)) * 85 / 8 else 0
      let counted := fun (u : State) => ({ u with refreshes := tally u } : State)
      let reports := fun (u : State) => if u.verified && allTrained u then { u with ready := true, cycle := 0 } else u
      (s.startup < 127 → exec .startupStep s = .next (counted { s with startup := s.startup + 1 })) ∧
      (s.startup = 127 → exec .startupStep s = .next (reports (counted { s with startup := 128 }))) ∧
      (s.startup = 128 → allTrained s = true → exec .startupStep s = .next s) ∧
      (s.startup = 128 → allTrained s = false → exec .startupStep s = .next (reports (counted { s with training := s.training + 1 })))) ∧
    (s.power = true → s.bootDone = false →
      let code := if s.firmware ≠ 0 then s.firmware else if s.fwVersion < s.secFloor then 2 else 0
      (s.inReset = true → exec .bootVerifyComplete s = .next { s with
        bootDone := true, bootRes := code, secFloor := if code = 0 then s.fwVersion else s.secFloor }) ∧
      (s.inReset = false → code ≠ 0 →
        exec .bootVerifyComplete s = .next { s with bootDone := true, bootRes := code, verified := false, bootErr := code }) ∧
      (s.inReset = false → code = 0 → (s.startup < 128 ∨ s.ready = true ∨ allTrained s = false) → exec .bootVerifyComplete s = .next { s with
        bootDone := true, bootRes := 0, verified := true, bootErr := 0, secFloor := s.fwVersion }) ∧
      (s.inReset = false → code = 0 → s.startup = 128 → s.ready = false → allTrained s = true → exec .bootVerifyComplete s = .next { s with
        bootDone := true, bootRes := 0, verified := true, bootErr := 0, secFloor := s.fwVersion, ready := true, cycle := 0 })) ∧
    exec .refreshTick s = .next { s with refreshes := s.refreshes.map (· + 1) } ∧
    (∀ line, (∀ e ∈ s.ms.found, e.2.2 ≠ line) →
      (lineDamage s line = none → exec (.softErrorScrub line) s = .next s) ∧
      ∀ code, lineDamage s line = some code → homeDie (line * 128) < 8 →
        ∃ t, exec (.softErrorScrub line) s = .next t ∧ t.soft = true ∧ t.noReplay = true ∧ KeepsRegs s t ∧ t.mem = s.mem ∧
          ∃ r, (fqOf t (homeDie (line * 128))).fresh = (fqOf s (homeDie (line * 128))).fresh ++ [r] ∧ r.kind = 5 ∧ r.code = code ∧
            r.cycle = s.cycle) ∧
    (∀ code die line, s.ms.found = [(code, die, line)] → die < 8 →
      ∃ t, exec (.softErrorScrub line) s = .next t ∧ t.soft = true ∧ t.noReplay = true ∧ KeepsRegs s t ∧ t.mem = s.mem ∧ t.ms.found = [] ∧
        ∃ r, (fqOf t die).fresh = (fqOf s die).fresh ++ [r] ∧ r.kind = 5 ∧ r.code = code) ∧
    (∀ die, ∃ t, exec (.retentionAging die) s = .next t ∧ t = { s with ms := { s.ms with l2 := t.ms.l2 } } ∧ ∀ k, t.ms.l2.get? k =
      (s.ms.l2.get? k).map fun e => if agingLine s die (k, e) then { e with aged := true } else e)

/-! ### Votes, gates, replay and images (02_execution_model.md, 14_determinism_and_debug.md) -/

/-- Every vote completes. A quadrant's vote takes the eligible warp next in turn, latches its first path, and the second-ranked path exactly where it
is ready and in the port B class, and clears the yield marks of the warp; with the progress promise, the threads that issue have a wait count of
0 and the others that take part wait one vote more, up to 256 (02_execution_model.md R39, R41 to R46). -/
def Obligations.VoteLatchesPaths : Prop :=
  ∀ (s : State) (core quad : Nat), s.stop = none → quad < 4 →
    let last := s.lastSlot.getD (core * 4 + quad) 7
    let at_ := fun (k : Nat) => ({ core := core, quad := quad, slot := (last + 1 + k) % 8 } : WKey)
    (∃ t, exec (.issueVote core quad) s = .next t ∧ KeepsRegs s t ∧ t.mem = s.mem) ∧
    ((∀ k < 8, eligible s (at_ k) = false) → exec (.issueVote core quad) s = .next s) ∧
    (∀ k a rest, k < 8 → eligible s (at_ k) = true → (∀ j < k, eligible s (at_ j) = false) → votePaths s (at_ k) = a :: rest →
      ∃ t second, exec (.issueVote core quad) s = .next t ∧ KeepsRegs s t ∧ t.mem = s.mem ∧
        t.lastSlot.getD (core * 4 + quad) 7 = (at_ k).slot ∧
        t.issue = s.issue ++ { w := at_ k, lanes := a.lanes, pc := a.pc } :: second ∧
        second = (match rest.head? with
          | some p => if pathReady s (at_ k) p && pathPortB s (at_ k) p then [{ w := at_ k, lanes := p.lanes, pc := p.pc }] else []
          | none => []) ∧
        ∀ l < 32, (thrAt t (at_ k) l).yield = false ∧ (thrAt t (at_ k) l).pc = (thrAt s (at_ k) l).pc ∧
          (thrAt t (at_ k) l).st = (thrAt s (at_ k) l).st ∧
          (thrAt t (at_ k) l).wait =
            if progressOn s (at_ k) = false then (thrAt s (at_ k) l).wait
            else if hasLane a.lanes l || second.any (fun q => hasLane q.lanes l) then 0
            else if (thrAt s (at_ k) l).votes then min 256 ((thrAt s (at_ k) l).wait + 1) else (thrAt s (at_ k) l).wait)

/-- An arrival that crosses a gate is stamped, logged when the ring and the log path have room and else lost to the log, from which the run can
then not be replayed, and applied when its cycle comes; a replaying gate injects its next logged arrival, and REPLAYEND turns the gates live; a
slack-water stop freezes the package with its state kept for the image, and a restore loads the package of the image that the region holds
(R273 to R282). The rate at which a log path takes records and the places of an arrival's parts (log 40), the free number of refreshes while frozen
(log 4), and the bytes of an image, when they are in memory and the order in which a restore checks them (logs 8 and 45), are the model's. -/
def Obligations.GatesReplayAndImages : Prop :=
  ∀ s : State, s.stop = none →
    (∀ gate g, gate < 34 → s.gates.getD gate {} = g →
      (g.queue = [] → exec (.gateCrossing gate) s = .next s) ∧
      (∀ a rest, g.queue = a :: rest →
        let ac := if s.cycle ≠ 0 ∧ s.cycle % 3200 = 0 then (s.cycle + 1) % 2 ^ 64 else s.cycle
        (g.en = false → exec (.gateCrossing gate) s = .next (updGate s gate fun g =>
          { g with queue := rest, crossed := g.crossed ++ [(s.cycle, ac, a)] })) ∧
        (g.en = true → replays s gate = false → (g.ring < (g.tail - g.head).toNat + entriesOf g a ∨ logRoom s (gateDie gate) (entriesOf g a) = false) →
          ∃ t, exec (.gateCrossing gate) s = .next t ∧ t.mem = s.mem ∧ t.noReplay = true ∧ (t.gates.getD gate {}).ovf = true ∧
            (t.gates.getD gate {}).tail = g.tail ∧ (t.gates.getD gate {}).crossed = g.crossed ++ [(s.cycle, ac, a)]) ∧
        (g.en = true → replays s gate = false → entriesOf g a = 1 → (g.tail - g.head).toNat + 1 ≤ g.ring → logRoom s (gateDie gate) 1 = true →
          scarpOk (g.base.toNat + 128 * (g.tail.toNat % g.ring) + 127) = true →
          ∃ t, exec (.gateCrossing gate) s = .next t ∧ (t.gates.getD gate {}).queue = rest ∧ (t.gates.getD gate {}).tail = g.tail + 1 ∧
            (t.gates.getD gate {}).crossed = g.crossed ++ [(s.cycle, ac, a)] ∧
            (s.mem.wf = true → s.ms.hostLines = [] → ∀ j < 16,
              homeByte t (g.base.toNat + 128 * (g.tail.toNat % g.ring) + j) = (toBytes 8 s.cycle ++ toBytes 8 ac).getD j 0))) ∧
      (∀ x ac a rest, g.crossed = (x, ac, a) :: rest →
        let s1 := updGate s gate fun g => { g with crossed := rest }
        (s.cycle < ac → exec (.arrivalApply gate) s = .next s) ∧
        (ac ≤ s.cycle → exec (.arrivalApply gate) s = .next (applyArrival s1 gate a)) ∧
        (kindFits gate a.kind = false → applyArrival s1 gate a = s1) ∧
        (gate = 0 → a.kind = 1 → barAccess (a.addr.toNat % 2 ^ 24) a.reqlen = true → applyArrival s1 gate a =
          { s1 with agenda := .registerWrite (a.addr.toNat % 2 ^ 24) (a.reqlen == 8) (w64 (ofBytes a.data)) :: s1.agenda }) ∧
        (gate = 0 → a.kind = 2 → barAccess (a.addr.toNat % 2 ^ 24) a.reqlen = true → s.replay.getLsbD 0 = false → applyArrival s1 gate a =
          { s1 with hostOut := .read (a.addr.toNat % 2 ^ 24) (w64 (readBar s1 (a.addr.toNat % 2 ^ 24) a.reqlen)) :: s1.hostOut })) ∧
      (injectDue s gate = false → exec (.replayInject gate) s = .next s) ∧
      (∀ a len, injectDue s gate = true → rebuild s gate g.head.toNat 0 = some (a, len) →
        exec (.replayInject gate) s = .next (applyArrival (updGate (logTake s (gateDie gate) len) gate fun g =>
          { g with head := g.head + w32 len, held := if LogEnt.pl (logEntry s gate g.head.toNat) then g.held else g.held.drop 1 }) gate a))) ∧
    (s.replay ≠ 0 → s.replayEnd.toNat = s.cycle → s.replayEnd ≠ 0 → ∃ t, exec .replayEnd s = .next t ∧ t.replay = 0 ∧
      t.replayCtl = s.replayCtl &&& ~~~1#64 ∧ t.mem = s.mem ∧ KeepsRegs s t ∧ ∀ n < 34, t.gates.getD n {} =
        if s.replay.getLsbD n then { s.gates.getD n {} with en := true, queue := (s.gates.getD n {}).held ++ (s.gates.getD n {}).queue, held := [] }
        else s.gates.getD n {}) ∧
    (s.swState ≠ 0 → exec .slackWaterStop s = .next s) ∧
    (s.swState = 0 → s.imgSize.toNat < imgLen → exec .slackWaterStop s = .next { s with swState := 1, swErr := 1 }) ∧
    (s.swState = 0 → imgLen ≤ s.imgSize.toNat → exec .slackWaterStop s = .next { s with
      swState := 1
      images := { pkg := { s.toPackage with agenda := [] }, data := s.mem.filter fun c => onDie s.toPackage c.1 } :: s.images }) ∧
    (s.swState ≠ 1 → exec .imageWriteComplete s = .next s) ∧
    (s.swState = 1 → s.imgSize.toNat < imgLen → ∃ n, exec .imageWriteComplete s = .next { s with
      swState := 2, freeCtr := s.freeCtr + 1, refreshes := s.refreshes.map (· + n) }) ∧
    (∀ img rest, s.swState = 1 → imgLen ≤ s.imgSize.toNat → s.images = img :: rest → img.pkg.cycle = s.cycle →
      scarpOk (s.imgBase.toNat + 65536 * imgLen - 1) = true →
      ∃ n, exec .imageWriteComplete s = .next { s with
        swState := 2, freeCtr := s.freeCtr + 1, refreshes := s.refreshes.map (· + n), mem := s.mem.putAll (imageCells img s.imgBase.toNat) }) ∧
    ((s.swState = 2 ∨ s.swState = 0 ∧ s.inReset = true ∧ s.bootDone = true ∧ s.bootRes = 0) →
      (ofBytes (s.mem.read (s.imgBase.toNat + 4) 2) ≠ 1 → exec .swctlRestore s = .next { s with swErr := 2 }) ∧
      (ofBytes (s.mem.read (s.imgBase.toNat + 4) 2) = 1 → imageAt s = none → exec .swctlRestore s = .next { s with swErr := 3 }) ∧
      (ofBytes (s.mem.read (s.imgBase.toNat + 4) 2) = 1 → (imageAt s).isSome → exec .swctlRestore s = .next { s with
        swState := 3, restoreGates := s.gates.toList.map fun g => (g.head, g.tail) })) ∧
    ((s.swState = 1 ∨ s.swState = 3) → exec .swctlRestore s = .next s) ∧
    (s.swState = 3 → imageAt s = none → exec .restoreComplete s = .next { s with swState := 2, swErr := 3 }) ∧
    (∀ img, s.swState = 3 → imageAt s = some img → (∀ d < 8, (img.pkg.trace.getD d {}).live = false) →
      let s1 : State := { s with
        toPackage := loadPackage s img, mem := restoredMem s img
        swState := 0, ready := true, began := true, inReset := false, startup := 128, verified := true, bootErr := 0 }
      (beginCycle s1 ((img.pkg.cycle + 1) % 2 ^ 64)).stop = none →
      exec .restoreComplete s = .next (beginCycle s1 ((img.pkg.cycle + 1) % 2 ^ 64)))

/-! ### What reset leaves, words of the spec, conflicts, traps, fresh groups and k destinations -/

/-- What reset leaves, where the spec gives the value: memory canonical, no warp, group or context, the package count at 0, every quadrant's
last slot at 7 (02_execution_model.md R41), PREEMPTWIN at 0100_0040h, PREEMPT and the FLT queue registers at 0 and, of a context just created,
HELDBASE, HELDSIZE and HELDCNT at 0 (Tables 11.4, 11.5), host
queues off with head 0 (Table 3.3), superstep sets at step 0 (04_memory_hierarchy.md R102), engines free with empty queues, accumulators
zero, s.rprog 0 (08_tensor_engines.md R175), tenure and copy tables empty, gates with PAYLOAD set and logging off, no replay (Tables 14.2,
14.3), capture and sampling off (Tables 14.4, 14.5); and what a fresh thread holds, and a fresh warp before its record's values are written (R36).
The accumulators' zeros are the model's (log 2). -/
def Obligations.ResetValues : Prop :=
  let s := State.reset
  s.mem.wf = true ∧ s.stop = none ∧ s.cycle = 0 ∧ (∀ w, warpAt s w = none) ∧ (∀ g, s.groups.get? g = none) ∧ (∀ k, s.ctxs.get? k = none) ∧
  (∀ q, s.lastSlot.getD q 7 = 7) ∧ s.preemptWin = 0x01000040 ∧ s.preempt = 0 ∧
  (∀ d < 8, (fqOf s d).en = false ∧ (fqOf s d).fresh = [] ∧ (fqOf s d).waiting = [] ∧ (fqOf s d).outstanding = [] ∧ (fqOf s d).next = 1 ∧
    (fqOf s d).base = 0 ∧ (fqOf s d).size = 0 ∧ (fqOf s d).head = 0 ∧ (fqOf s d).tail = 0 ∧ (fqOf s d).ie = false ∧
    (fqOf s d).full = false ∧ (fqOf s d).derr = false) ∧
  (let c : Ctx := {}
   c.heldbase = 0 ∧ c.heldsize = 0 ∧ c.heldcnt = 0) ∧
  (∀ n < 16, (s.hq.getD n {}).en = false ∧ (s.hq.getD n {}).head = 0) ∧ (∀ n, (s.ssets.getD n {}).step = 0) ∧
  (∀ core, (engineOf s core).owner = none ∧ (engineOf s core).queue = [] ∧ (engineOf s core).done = 0 ∧
    ∀ a < 4, (engineOf s core).acc.getD a [] = []) ∧
  (∀ d < 8, (schedOf s d).launches = [] ∧ (∀ lv < 8, levelOf (schedOf s d) lv = []) ∧ ctabOf s d = [] ∧ taskTab s d = []) ∧ s.ten = [] ∧
  (∀ g < 34, (s.gates.getD g {}).payload = true ∧ (s.gates.getD g {}).en = false ∧ (s.gates.getD g {}).tail = 0) ∧
  s.replay = 0 ∧ s.replayCtl = 0 ∧ s.swState = 0 ∧ (∀ d < 8, (traceOf s d).en = false) ∧ s.tide.en = false ∧ s.pwrCur = 0 ∧
  (let h : Thread := {}
   (∀ n < 128, h.reg n = 0) ∧ (∀ n : Fin 8, h.p.get n = decide (n = 7)) ∧ h.st = .running ∧ h.inh = false ∧ h.cause = 0 ∧ h.wait = 0 ∧
     h.watch = none) ∧
  (let x : Warp := {}
   (∀ n < 64, x.k.getD n 0 = 0) ∧ x.hwm = 0 ∧ x.absent = [] ∧ ∀ l < 32, x.thr l = {})

/-- The worked encodings of the spec decode to the instructions they stand for: PBLK (15_instruction_formats.md R300), LD (Worked encoding),
BFX (16_reference_a_c.md R318), LEA (17_reference_d_l.md R356), SHFL (18_reference_m_s.md R376), TMMA and TENR (19_reference_t_z.md), BRA
(20), ACOPYT (21), CALLR and LDQ (22). -/
def Obligations.WorkedEncodingsDecode : Prop :=
  let g (neg : Bool) (p : Fin 8) (la : BitVec 4) (yh : Bool) (rh : BitVec 2) : Hdr := { grd := { neg := neg, p := p }, la := la, yh := yh, rh := rh }
  let h := g false 7 0 false 0
  decode 0x1FDC0149FFFFF40A00000000 = .ok (.pblk h { cnt := 2, pat := 5, d := .p 1 }) ∧
  decode 0x3008D00400BFF50002000010 =
    .ok (.ld (g false 2 3 false 2) { addr := { sp := .vlt, off := 16, a := .g 2 }, size := .b4, fmt := .i32, sc := .grp, d := .g 4 }) ∧
  decode 0x0C1C000A00FFF60000000804 = .ok (.bfxImm h { ty := .n32, d := .g 10, a := .g 3, imm := 0x804 }) ∧
  decode 0x0E9C000A0100870000000007 = .ok (.leaImm h { ty := .n64, d := .g 10, a := .g 4, b := .g 8, imm := 7 }) ∧
  decode 0x285C00050100920B06000000 = .ok (.shfl h { mode := .xor, ty := .n32, d := .g 5, a := .g 4, b := .g 9, c := .k 2 }) ∧
  decode 0x6D5C01402208C051C0000000 = .ok (.tmma h
    { tx := 20, fl := { sc := .pkg, acq := true, rel := false, it := false }, fmt := .i8, sat := false, d := .acc 0, a := .k 8, b := .k 12 }) ∧
  decode 0x685C014A417FF00160000000 = .ok (.tenr h { sc := .die, w := true, tr := true, d := .p 2, a := .h 5 }) ∧
  decode 0x200C23FFFFFFF000FFFFFFFE = .ok (.bra (g false 3 0 true 0) 0xFFFFFFFE) ∧
  decode 0x745C008F22091031CA400000 = .ok (.acopyt h
    { tx := 12, fl := { sc := .pkg, acq := true, rel := false, it := false }, lfmt := .bf16, sat := false, lcv := true, st := false
      vlt := false, d := .k 15, a := .k 8, b := .k 17 }) ∧
  decode 0x20DC03FF053FFFFC00000000 = .ok (.callr h (.g 20)) ∧
  decode 0x309C080400BFF80000000000 =
    .ok (.ldq (g false 7 0 false 1) { addr := { sp := .virt, off := 0, a := .g 2 }, sc := .grp, d := .g 4 })

/-- Two tenures conflict exactly when their footprints share a block and at least one of them is write tenure, whatever their states, and so
two read tenures never do (06_tile_tenure.md R133). -/
def Obligations.TenuresConflictOnSharedBlocks : Prop :=
  ∀ a b : Tenure,
    (a.conflicts b = true ↔ (∃ k ∈ a.foot.map Prod.fst, k ∈ b.foot.map Prod.fst) ∧ (a.write = true ∨ b.write = true)) ∧
    (a.write = false → b.write = false → a.conflicts b = false) ∧
    ∀ st st', ({ a with st := st } : Tenure).conflicts { b with st := st' } = a.conflicts b

/-- A fresh group's threads and k registers: k0:k1 hold the record's FRAME, k2 the launch id and k3 to k63 zero; every thread's counter holds
the launch's code address, its registers read zero, p0 to p6 are false, and its trap state, wait count and watch are empty
(02_execution_model.md R36, 03_work_scheduling.md R76). -/
def Obligations.FreshGroupStarts : Prop :=
  ∀ (s : State) (core ctx age : Nat) (r : Rcd) (frames : List Nat) (L : Launch),
    launchOf s (Rcd.lti r) = some L → s.groups.get? s.nextId = none → (∀ k y, s.warps.get? k = some y → y.gid ≠ s.nextId) →
    LRec.warps L.rcd ≤ freeSlots s core →
    let t := startGroup s core ctx r frames age
    ((t.groups.getD s.nextId {}).warps.length = LRec.warps L.rcd) ∧
    (∀ k y, s.warps.get? k = some y → (t.warps.get? k).map Warp.regs = some (Warp.regs y)) ∧
    ∀ k y, t.warps.get? k = some y → y.gid = s.nextId →
      y.kreg 0 = w32 (Rcd.frame r) ∧ y.kreg 1 = w32 (Rcd.frame r / 2 ^ 32) ∧ y.kreg 2 = L.id ∧ (∀ n, 3 ≤ n → n < 64 → y.kreg n = 0) ∧
      ∀ l < 32, (y.thr l).pc = w64 (Rcd.code r) ∧ (∀ n < 128, (y.thr l).reg n = 0) ∧ (∀ n : Fin 8, (y.thr l).p.get n = decide (n = 7)) ∧
        (y.thr l).cause = 0 ∧ (y.thr l).inh = false ∧ (y.thr l).tepc = 0 ∧ (y.thr l).taddr = 0 ∧ (y.thr l).wait = 0 ∧
        (y.thr l).watch = none ∧ (y.thr l).st = .running

/-- An instruction whose threads execute one after another and write a k register leaves in it the value of the lowest-numbered one, and no
thread traps or has a general register or predicate changed; so does MOV (02_execution_model.md R37). -/
def Obligations.KDestinationTakesLowestThread : Prop :=
  (∀ (s : State) (c : Cursor) (x : Warp) (i : Instr) (h : Hdr) (n : Fin 64) (v : Nat → Nat) (act : List Nat) (due : Nat),
    warpAt s c.w = some x → (∀ l ∈ act, l < 32) → act ≠ [] → s.cur.map (·.kfree) = some true →
    let r := runLanes i h c due (fun s l => .ok (dst s c l (.k n) false (v l))) act s []
    r.2 = [] ∧ ∃ y, warpAt r.1 c.w = some y ∧ y.k = x.k.setIfInBounds n.val (w32 (v (act.headD 0))) ∧
      ∀ l < 32, (y.thr l).g = (x.thr l).g ∧ (y.thr l).p = (x.thr l).p ∧ (y.thr l).st = (x.thr l).st) ∧
  (∀ (s : State) (c : Cursor) (x : Warp) (h : Hdr) (o : Un) (n : Fin 64), Ready s (.mov h o) c x → tyMov o.ty = true → o.ty.is64 = false →
    o.d = .k n → activeLanes s c h ≠ [] →
    ∃ t y, exec (.mov h o) s = .next t ∧ warpAt t c.w = some y ∧
      y.k = x.k.setIfInBounds n.val (w32 (operand s c h ((activeLanes s c h).headD 0) o.a false)) ∧
      ∀ l < 32, (y.thr l).g = (x.thr l).g ∧ (y.thr l).p = (x.thr l).p)
end

