-- ==== Sys2Proof/Laws/State.lean ====
section
/-! SUPPORT. What the named updates of the state leave alone: one lemma for each update and field. -/
namespace Sys2Proof.Machine

/-! ### setWarp -/
@[simp] theorem setWarp_cycle (s : State) (w : WKey) (x : Warp) : (setWarp s w x).cycle = s.cycle := rfl
@[simp] theorem setWarp_heldN (s : State) (w : WKey) (x : Warp) : (setWarp s w x).heldN = s.heldN := rfl
@[simp] theorem setWarp_groups (s : State) (w : WKey) (x : Warp) : (setWarp s w x).groups = s.groups := rfl
@[simp] theorem setWarp_lastSlot (s : State) (w : WKey) (x : Warp) : (setWarp s w x).lastSlot = s.lastSlot := rfl
@[simp] theorem setWarp_issue (s : State) (w : WKey) (x : Warp) : (setWarp s w x).issue = s.issue := rfl
@[simp] theorem setWarp_nextId (s : State) (w : WKey) (x : Warp) : (setWarp s w x).nextId = s.nextId := rfl
@[simp] theorem setWarp_sched (s : State) (w : WKey) (x : Warp) : (setWarp s w x).sched = s.sched := rfl
@[simp] theorem setWarp_hq (s : State) (w : WKey) (x : Warp) : (setWarp s w x).hq = s.hq := rfl
@[simp] theorem setWarp_grow (s : State) (w : WKey) (x : Warp) : (setWarp s w x).grow = s.grow := rfl
@[simp] theorem setWarp_ssets (s : State) (w : WKey) (x : Warp) : (setWarp s w x).ssets = s.ssets := rfl
@[simp] theorem setWarp_ctxs (s : State) (w : WKey) (x : Warp) : (setWarp s w x).ctxs = s.ctxs := rfl
@[simp] theorem setWarp_ms (s : State) (w : WKey) (x : Warp) : (setWarp s w x).ms = s.ms := rfl
@[simp] theorem setWarp_fq (s : State) (w : WKey) (x : Warp) : (setWarp s w x).fq = s.fq := rfl
@[simp] theorem setWarp_saved (s : State) (w : WKey) (x : Warp) : (setWarp s w x).saved = s.saved := rfl
@[simp] theorem setWarp_ten (s : State) (w : WKey) (x : Warp) : (setWarp s w x).ten = s.ten := rfl
@[simp] theorem setWarp_engines (s : State) (w : WKey) (x : Warp) : (setWarp s w x).engines = s.engines := rfl
@[simp] theorem setWarp_tasks (s : State) (w : WKey) (x : Warp) : (setWarp s w x).tasks = s.tasks := rfl
@[simp] theorem setWarp_coal (s : State) (w : WKey) (x : Warp) : (setWarp s w x).coal = s.coal := rfl
@[simp] theorem setWarp_ctab (s : State) (w : WKey) (x : Warp) : (setWarp s w x).ctab = s.ctab := rfl
@[simp] theorem setWarp_coll (s : State) (w : WKey) (x : Warp) : (setWarp s w x).coll = s.coll := rfl
@[simp] theorem setWarp_sends (s : State) (w : WKey) (x : Warp) : (setWarp s w x).sends = s.sends := rfl
@[simp] theorem setWarp_gates (s : State) (w : WKey) (x : Warp) : (setWarp s w x).gates = s.gates := rfl
@[simp] theorem setWarp_trace (s : State) (w : WKey) (x : Warp) : (setWarp s w x).trace = s.trace := rfl
@[simp] theorem setWarp_tide (s : State) (w : WKey) (x : Warp) : (setWarp s w x).tide = s.tide := rfl
@[simp] theorem setWarp_branched (s : State) (w : WKey) (x : Warp) : (setWarp s w x).branched = s.branched := rfl
@[simp] theorem setWarp_timed (s : State) (w : WKey) (x : Warp) : (setWarp s w x).timed = s.timed := rfl
@[simp] theorem setWarp_agenda (s : State) (w : WKey) (x : Warp) : (setWarp s w x).agenda = s.agenda := rfl
@[simp] theorem setWarp_freeCtr (s : State) (w : WKey) (x : Warp) : (setWarp s w x).freeCtr = s.freeCtr := rfl
@[simp] theorem setWarp_cur (s : State) (w : WKey) (x : Warp) : (setWarp s w x).cur = s.cur := rfl
@[simp] theorem setWarp_mem (s : State) (w : WKey) (x : Warp) : (setWarp s w x).mem = s.mem := rfl
@[simp] theorem setWarp_stop (s : State) (w : WKey) (x : Warp) : (setWarp s w x).stop = s.stop := rfl
@[simp] theorem setWarp_link (s : State) (w : WKey) (x : Warp) : (setWarp s w x).link = s.link := rfl
@[simp] theorem setWarp_fabOut (s : State) (w : WKey) (x : Warp) : (setWarp s w x).fabOut = s.fabOut := rfl
@[simp] theorem setWarp_hostReqs (s : State) (w : WKey) (x : Warp) : (setWarp s w x).hostReqs = s.hostReqs := rfl
@[simp] theorem setWarp_hostLog (s : State) (w : WKey) (x : Warp) : (setWarp s w x).hostLog = s.hostLog := rfl
@[simp] theorem setWarp_hostOut (s : State) (w : WKey) (x : Warp) : (setWarp s w x).hostOut = s.hostOut := rfl
@[simp] theorem setWarp_replay (s : State) (w : WKey) (x : Warp) : (setWarp s w x).replay = s.replay := rfl
@[simp] theorem setWarp_crun (s : State) (w : WKey) (x : Warp) : (setWarp s w x).crun = s.crun := rfl
@[simp] theorem setWarp_logWait (s : State) (w : WKey) (x : Warp) : (setWarp s w x).logWait = s.logWait := rfl

/-! ### updWarp -/
@[simp] theorem updWarp_cycle (s : State) (w : WKey) (f : Warp → Warp) : (updWarp s w f).cycle = s.cycle := by unfold updWarp; split <;> rfl
@[simp] theorem updWarp_heldN (s : State) (w : WKey) (f : Warp → Warp) : (updWarp s w f).heldN = s.heldN := by unfold updWarp; split <;> rfl
@[simp] theorem updWarp_groups (s : State) (w : WKey) (f : Warp → Warp) : (updWarp s w f).groups = s.groups := by unfold updWarp; split <;> rfl
@[simp] theorem updWarp_lastSlot (s : State) (w : WKey) (f : Warp → Warp) : (updWarp s w f).lastSlot = s.lastSlot := by unfold updWarp; split <;> rfl
@[simp] theorem updWarp_issue (s : State) (w : WKey) (f : Warp → Warp) : (updWarp s w f).issue = s.issue := by unfold updWarp; split <;> rfl
@[simp] theorem updWarp_nextId (s : State) (w : WKey) (f : Warp → Warp) : (updWarp s w f).nextId = s.nextId := by unfold updWarp; split <;> rfl
@[simp] theorem updWarp_sched (s : State) (w : WKey) (f : Warp → Warp) : (updWarp s w f).sched = s.sched := by unfold updWarp; split <;> rfl
@[simp] theorem updWarp_hq (s : State) (w : WKey) (f : Warp → Warp) : (updWarp s w f).hq = s.hq := by unfold updWarp; split <;> rfl
@[simp] theorem updWarp_grow (s : State) (w : WKey) (f : Warp → Warp) : (updWarp s w f).grow = s.grow := by unfold updWarp; split <;> rfl
@[simp] theorem updWarp_ssets (s : State) (w : WKey) (f : Warp → Warp) : (updWarp s w f).ssets = s.ssets := by unfold updWarp; split <;> rfl
@[simp] theorem updWarp_ctxs (s : State) (w : WKey) (f : Warp → Warp) : (updWarp s w f).ctxs = s.ctxs := by unfold updWarp; split <;> rfl
@[simp] theorem updWarp_ms (s : State) (w : WKey) (f : Warp → Warp) : (updWarp s w f).ms = s.ms := by unfold updWarp; split <;> rfl
@[simp] theorem updWarp_fq (s : State) (w : WKey) (f : Warp → Warp) : (updWarp s w f).fq = s.fq := by unfold updWarp; split <;> rfl
@[simp] theorem updWarp_saved (s : State) (w : WKey) (f : Warp → Warp) : (updWarp s w f).saved = s.saved := by unfold updWarp; split <;> rfl
@[simp] theorem updWarp_ten (s : State) (w : WKey) (f : Warp → Warp) : (updWarp s w f).ten = s.ten := by unfold updWarp; split <;> rfl
@[simp] theorem updWarp_engines (s : State) (w : WKey) (f : Warp → Warp) : (updWarp s w f).engines = s.engines := by unfold updWarp; split <;> rfl
@[simp] theorem updWarp_tasks (s : State) (w : WKey) (f : Warp → Warp) : (updWarp s w f).tasks = s.tasks := by unfold updWarp; split <;> rfl
@[simp] theorem updWarp_coal (s : State) (w : WKey) (f : Warp → Warp) : (updWarp s w f).coal = s.coal := by unfold updWarp; split <;> rfl
@[simp] theorem updWarp_ctab (s : State) (w : WKey) (f : Warp → Warp) : (updWarp s w f).ctab = s.ctab := by unfold updWarp; split <;> rfl
@[simp] theorem updWarp_coll (s : State) (w : WKey) (f : Warp → Warp) : (updWarp s w f).coll = s.coll := by unfold updWarp; split <;> rfl
@[simp] theorem updWarp_sends (s : State) (w : WKey) (f : Warp → Warp) : (updWarp s w f).sends = s.sends := by unfold updWarp; split <;> rfl
@[simp] theorem updWarp_gates (s : State) (w : WKey) (f : Warp → Warp) : (updWarp s w f).gates = s.gates := by unfold updWarp; split <;> rfl
@[simp] theorem updWarp_trace (s : State) (w : WKey) (f : Warp → Warp) : (updWarp s w f).trace = s.trace := by unfold updWarp; split <;> rfl
@[simp] theorem updWarp_tide (s : State) (w : WKey) (f : Warp → Warp) : (updWarp s w f).tide = s.tide := by unfold updWarp; split <;> rfl
@[simp] theorem updWarp_branched (s : State) (w : WKey) (f : Warp → Warp) : (updWarp s w f).branched = s.branched := by unfold updWarp; split <;> rfl
@[simp] theorem updWarp_timed (s : State) (w : WKey) (f : Warp → Warp) : (updWarp s w f).timed = s.timed := by unfold updWarp; split <;> rfl
@[simp] theorem updWarp_agenda (s : State) (w : WKey) (f : Warp → Warp) : (updWarp s w f).agenda = s.agenda := by unfold updWarp; split <;> rfl
@[simp] theorem updWarp_freeCtr (s : State) (w : WKey) (f : Warp → Warp) : (updWarp s w f).freeCtr = s.freeCtr := by unfold updWarp; split <;> rfl
@[simp] theorem updWarp_cur (s : State) (w : WKey) (f : Warp → Warp) : (updWarp s w f).cur = s.cur := by unfold updWarp; split <;> rfl
@[simp] theorem updWarp_mem (s : State) (w : WKey) (f : Warp → Warp) : (updWarp s w f).mem = s.mem := by unfold updWarp; split <;> rfl
@[simp] theorem updWarp_stop (s : State) (w : WKey) (f : Warp → Warp) : (updWarp s w f).stop = s.stop := by unfold updWarp; split <;> rfl
@[simp] theorem updWarp_link (s : State) (w : WKey) (f : Warp → Warp) : (updWarp s w f).link = s.link := by unfold updWarp; split <;> rfl
@[simp] theorem updWarp_fabOut (s : State) (w : WKey) (f : Warp → Warp) : (updWarp s w f).fabOut = s.fabOut := by unfold updWarp; split <;> rfl
@[simp] theorem updWarp_hostReqs (s : State) (w : WKey) (f : Warp → Warp) : (updWarp s w f).hostReqs = s.hostReqs := by unfold updWarp; split <;> rfl
@[simp] theorem updWarp_hostLog (s : State) (w : WKey) (f : Warp → Warp) : (updWarp s w f).hostLog = s.hostLog := by unfold updWarp; split <;> rfl
@[simp] theorem updWarp_hostOut (s : State) (w : WKey) (f : Warp → Warp) : (updWarp s w f).hostOut = s.hostOut := by unfold updWarp; split <;> rfl
@[simp] theorem updWarp_replay (s : State) (w : WKey) (f : Warp → Warp) : (updWarp s w f).replay = s.replay := by unfold updWarp; split <;> rfl
@[simp] theorem updWarp_crun (s : State) (w : WKey) (f : Warp → Warp) : (updWarp s w f).crun = s.crun := by unfold updWarp; split <;> rfl
@[simp] theorem updWarp_logWait (s : State) (w : WKey) (f : Warp → Warp) : (updWarp s w f).logWait = s.logWait := by unfold updWarp; split <;> rfl

/-! ### updThr -/
@[simp] theorem updThr_cycle (s : State) (w : WKey) (l : Nat) (f : Thread → Thread) : (updThr s w l f).cycle = s.cycle := updWarp_cycle ..
@[simp] theorem updThr_heldN (s : State) (w : WKey) (l : Nat) (f : Thread → Thread) : (updThr s w l f).heldN = s.heldN := updWarp_heldN ..
@[simp] theorem updThr_groups (s : State) (w : WKey) (l : Nat) (f : Thread → Thread) : (updThr s w l f).groups = s.groups := updWarp_groups ..
@[simp] theorem updThr_lastSlot (s : State) (w : WKey) (l : Nat) (f : Thread → Thread) : (updThr s w l f).lastSlot = s.lastSlot := updWarp_lastSlot ..
@[simp] theorem updThr_issue (s : State) (w : WKey) (l : Nat) (f : Thread → Thread) : (updThr s w l f).issue = s.issue := updWarp_issue ..
@[simp] theorem updThr_nextId (s : State) (w : WKey) (l : Nat) (f : Thread → Thread) : (updThr s w l f).nextId = s.nextId := updWarp_nextId ..
@[simp] theorem updThr_sched (s : State) (w : WKey) (l : Nat) (f : Thread → Thread) : (updThr s w l f).sched = s.sched := updWarp_sched ..
@[simp] theorem updThr_hq (s : State) (w : WKey) (l : Nat) (f : Thread → Thread) : (updThr s w l f).hq = s.hq := updWarp_hq ..
@[simp] theorem updThr_grow (s : State) (w : WKey) (l : Nat) (f : Thread → Thread) : (updThr s w l f).grow = s.grow := updWarp_grow ..
@[simp] theorem updThr_ssets (s : State) (w : WKey) (l : Nat) (f : Thread → Thread) : (updThr s w l f).ssets = s.ssets := updWarp_ssets ..
@[simp] theorem updThr_ctxs (s : State) (w : WKey) (l : Nat) (f : Thread → Thread) : (updThr s w l f).ctxs = s.ctxs := updWarp_ctxs ..
@[simp] theorem updThr_ms (s : State) (w : WKey) (l : Nat) (f : Thread → Thread) : (updThr s w l f).ms = s.ms := updWarp_ms ..
@[simp] theorem updThr_fq (s : State) (w : WKey) (l : Nat) (f : Thread → Thread) : (updThr s w l f).fq = s.fq := updWarp_fq ..
@[simp] theorem updThr_saved (s : State) (w : WKey) (l : Nat) (f : Thread → Thread) : (updThr s w l f).saved = s.saved := updWarp_saved ..
@[simp] theorem updThr_ten (s : State) (w : WKey) (l : Nat) (f : Thread → Thread) : (updThr s w l f).ten = s.ten := updWarp_ten ..
@[simp] theorem updThr_engines (s : State) (w : WKey) (l : Nat) (f : Thread → Thread) : (updThr s w l f).engines = s.engines := updWarp_engines ..
@[simp] theorem updThr_tasks (s : State) (w : WKey) (l : Nat) (f : Thread → Thread) : (updThr s w l f).tasks = s.tasks := updWarp_tasks ..
@[simp] theorem updThr_coal (s : State) (w : WKey) (l : Nat) (f : Thread → Thread) : (updThr s w l f).coal = s.coal := updWarp_coal ..
@[simp] theorem updThr_ctab (s : State) (w : WKey) (l : Nat) (f : Thread → Thread) : (updThr s w l f).ctab = s.ctab := updWarp_ctab ..
@[simp] theorem updThr_coll (s : State) (w : WKey) (l : Nat) (f : Thread → Thread) : (updThr s w l f).coll = s.coll := updWarp_coll ..
@[simp] theorem updThr_sends (s : State) (w : WKey) (l : Nat) (f : Thread → Thread) : (updThr s w l f).sends = s.sends := updWarp_sends ..
@[simp] theorem updThr_gates (s : State) (w : WKey) (l : Nat) (f : Thread → Thread) : (updThr s w l f).gates = s.gates := updWarp_gates ..
@[simp] theorem updThr_trace (s : State) (w : WKey) (l : Nat) (f : Thread → Thread) : (updThr s w l f).trace = s.trace := updWarp_trace ..
@[simp] theorem updThr_tide (s : State) (w : WKey) (l : Nat) (f : Thread → Thread) : (updThr s w l f).tide = s.tide := updWarp_tide ..
@[simp] theorem updThr_branched (s : State) (w : WKey) (l : Nat) (f : Thread → Thread) : (updThr s w l f).branched = s.branched := updWarp_branched ..
@[simp] theorem updThr_timed (s : State) (w : WKey) (l : Nat) (f : Thread → Thread) : (updThr s w l f).timed = s.timed := updWarp_timed ..
@[simp] theorem updThr_agenda (s : State) (w : WKey) (l : Nat) (f : Thread → Thread) : (updThr s w l f).agenda = s.agenda := updWarp_agenda ..
@[simp] theorem updThr_freeCtr (s : State) (w : WKey) (l : Nat) (f : Thread → Thread) : (updThr s w l f).freeCtr = s.freeCtr := updWarp_freeCtr ..
@[simp] theorem updThr_cur (s : State) (w : WKey) (l : Nat) (f : Thread → Thread) : (updThr s w l f).cur = s.cur := updWarp_cur ..
@[simp] theorem updThr_mem (s : State) (w : WKey) (l : Nat) (f : Thread → Thread) : (updThr s w l f).mem = s.mem := updWarp_mem ..
@[simp] theorem updThr_stop (s : State) (w : WKey) (l : Nat) (f : Thread → Thread) : (updThr s w l f).stop = s.stop := updWarp_stop ..
@[simp] theorem updThr_link (s : State) (w : WKey) (l : Nat) (f : Thread → Thread) : (updThr s w l f).link = s.link := updWarp_link ..
@[simp] theorem updThr_fabOut (s : State) (w : WKey) (l : Nat) (f : Thread → Thread) : (updThr s w l f).fabOut = s.fabOut := updWarp_fabOut ..
@[simp] theorem updThr_hostReqs (s : State) (w : WKey) (l : Nat) (f : Thread → Thread) : (updThr s w l f).hostReqs = s.hostReqs := updWarp_hostReqs ..
@[simp] theorem updThr_hostLog (s : State) (w : WKey) (l : Nat) (f : Thread → Thread) : (updThr s w l f).hostLog = s.hostLog := updWarp_hostLog ..
@[simp] theorem updThr_hostOut (s : State) (w : WKey) (l : Nat) (f : Thread → Thread) : (updThr s w l f).hostOut = s.hostOut := updWarp_hostOut ..
@[simp] theorem updThr_replay (s : State) (w : WKey) (l : Nat) (f : Thread → Thread) : (updThr s w l f).replay = s.replay := updWarp_replay ..
@[simp] theorem updThr_crun (s : State) (w : WKey) (l : Nat) (f : Thread → Thread) : (updThr s w l f).crun = s.crun := updWarp_crun ..
@[simp] theorem updThr_logWait (s : State) (w : WKey) (l : Nat) (f : Thread → Thread) : (updThr s w l f).logWait = s.logWait := updWarp_logWait ..

/-! ### updGroup -/
@[simp] theorem updGroup_cycle (s : State) (g : Nat) (f : Group → Group) : (updGroup s g f).cycle = s.cycle := by unfold updGroup; split <;> rfl
@[simp] theorem updGroup_heldN (s : State) (g : Nat) (f : Group → Group) : (updGroup s g f).heldN = s.heldN := by unfold updGroup; split <;> rfl
@[simp] theorem updGroup_warps (s : State) (g : Nat) (f : Group → Group) : (updGroup s g f).warps = s.warps := by unfold updGroup; split <;> rfl
@[simp] theorem updGroup_lastSlot (s : State) (g : Nat) (f : Group → Group) : (updGroup s g f).lastSlot = s.lastSlot := by unfold updGroup; split <;> rfl
@[simp] theorem updGroup_issue (s : State) (g : Nat) (f : Group → Group) : (updGroup s g f).issue = s.issue := by unfold updGroup; split <;> rfl
@[simp] theorem updGroup_nextId (s : State) (g : Nat) (f : Group → Group) : (updGroup s g f).nextId = s.nextId := by unfold updGroup; split <;> rfl
@[simp] theorem updGroup_sched (s : State) (g : Nat) (f : Group → Group) : (updGroup s g f).sched = s.sched := by unfold updGroup; split <;> rfl
@[simp] theorem updGroup_hq (s : State) (g : Nat) (f : Group → Group) : (updGroup s g f).hq = s.hq := by unfold updGroup; split <;> rfl
@[simp] theorem updGroup_grow (s : State) (g : Nat) (f : Group → Group) : (updGroup s g f).grow = s.grow := by unfold updGroup; split <;> rfl
@[simp] theorem updGroup_ssets (s : State) (g : Nat) (f : Group → Group) : (updGroup s g f).ssets = s.ssets := by unfold updGroup; split <;> rfl
@[simp] theorem updGroup_ctxs (s : State) (g : Nat) (f : Group → Group) : (updGroup s g f).ctxs = s.ctxs := by unfold updGroup; split <;> rfl
@[simp] theorem updGroup_ms (s : State) (g : Nat) (f : Group → Group) : (updGroup s g f).ms = s.ms := by unfold updGroup; split <;> rfl
@[simp] theorem updGroup_fq (s : State) (g : Nat) (f : Group → Group) : (updGroup s g f).fq = s.fq := by unfold updGroup; split <;> rfl
@[simp] theorem updGroup_saved (s : State) (g : Nat) (f : Group → Group) : (updGroup s g f).saved = s.saved := by unfold updGroup; split <;> rfl
@[simp] theorem updGroup_ten (s : State) (g : Nat) (f : Group → Group) : (updGroup s g f).ten = s.ten := by unfold updGroup; split <;> rfl
@[simp] theorem updGroup_engines (s : State) (g : Nat) (f : Group → Group) : (updGroup s g f).engines = s.engines := by unfold updGroup; split <;> rfl
@[simp] theorem updGroup_tasks (s : State) (g : Nat) (f : Group → Group) : (updGroup s g f).tasks = s.tasks := by unfold updGroup; split <;> rfl
@[simp] theorem updGroup_coal (s : State) (g : Nat) (f : Group → Group) : (updGroup s g f).coal = s.coal := by unfold updGroup; split <;> rfl
@[simp] theorem updGroup_ctab (s : State) (g : Nat) (f : Group → Group) : (updGroup s g f).ctab = s.ctab := by unfold updGroup; split <;> rfl
@[simp] theorem updGroup_coll (s : State) (g : Nat) (f : Group → Group) : (updGroup s g f).coll = s.coll := by unfold updGroup; split <;> rfl
@[simp] theorem updGroup_sends (s : State) (g : Nat) (f : Group → Group) : (updGroup s g f).sends = s.sends := by unfold updGroup; split <;> rfl
@[simp] theorem updGroup_gates (s : State) (g : Nat) (f : Group → Group) : (updGroup s g f).gates = s.gates := by unfold updGroup; split <;> rfl
@[simp] theorem updGroup_trace (s : State) (g : Nat) (f : Group → Group) : (updGroup s g f).trace = s.trace := by unfold updGroup; split <;> rfl
@[simp] theorem updGroup_tide (s : State) (g : Nat) (f : Group → Group) : (updGroup s g f).tide = s.tide := by unfold updGroup; split <;> rfl
@[simp] theorem updGroup_branched (s : State) (g : Nat) (f : Group → Group) : (updGroup s g f).branched = s.branched := by unfold updGroup; split <;> rfl
@[simp] theorem updGroup_timed (s : State) (g : Nat) (f : Group → Group) : (updGroup s g f).timed = s.timed := by unfold updGroup; split <;> rfl
@[simp] theorem updGroup_agenda (s : State) (g : Nat) (f : Group → Group) : (updGroup s g f).agenda = s.agenda := by unfold updGroup; split <;> rfl
@[simp] theorem updGroup_freeCtr (s : State) (g : Nat) (f : Group → Group) : (updGroup s g f).freeCtr = s.freeCtr := by unfold updGroup; split <;> rfl
@[simp] theorem updGroup_cur (s : State) (g : Nat) (f : Group → Group) : (updGroup s g f).cur = s.cur := by unfold updGroup; split <;> rfl
@[simp] theorem updGroup_mem (s : State) (g : Nat) (f : Group → Group) : (updGroup s g f).mem = s.mem := by unfold updGroup; split <;> rfl
@[simp] theorem updGroup_stop (s : State) (g : Nat) (f : Group → Group) : (updGroup s g f).stop = s.stop := by unfold updGroup; split <;> rfl
@[simp] theorem updGroup_link (s : State) (g : Nat) (f : Group → Group) : (updGroup s g f).link = s.link := by unfold updGroup; split <;> rfl
@[simp] theorem updGroup_fabOut (s : State) (g : Nat) (f : Group → Group) : (updGroup s g f).fabOut = s.fabOut := by unfold updGroup; split <;> rfl
@[simp] theorem updGroup_hostReqs (s : State) (g : Nat) (f : Group → Group) : (updGroup s g f).hostReqs = s.hostReqs := by unfold updGroup; split <;> rfl
@[simp] theorem updGroup_hostLog (s : State) (g : Nat) (f : Group → Group) : (updGroup s g f).hostLog = s.hostLog := by unfold updGroup; split <;> rfl
@[simp] theorem updGroup_hostOut (s : State) (g : Nat) (f : Group → Group) : (updGroup s g f).hostOut = s.hostOut := by unfold updGroup; split <;> rfl
@[simp] theorem updGroup_replay (s : State) (g : Nat) (f : Group → Group) : (updGroup s g f).replay = s.replay := by unfold updGroup; split <;> rfl
@[simp] theorem updGroup_crun (s : State) (g : Nat) (f : Group → Group) : (updGroup s g f).crun = s.crun := by unfold updGroup; split <;> rfl
@[simp] theorem updGroup_logWait (s : State) (g : Nat) (f : Group → Group) : (updGroup s g f).logWait = s.logWait := by unfold updGroup; split <;> rfl

/-! ### updCtx -/
@[simp] theorem updCtx_cycle (s : State) (c : Nat) (f : Ctx → Ctx) : (updCtx s c f).cycle = s.cycle := by unfold updCtx; split <;> rfl
@[simp] theorem updCtx_heldN (s : State) (c : Nat) (f : Ctx → Ctx) : (updCtx s c f).heldN = s.heldN := by unfold updCtx; split <;> rfl
@[simp] theorem updCtx_warps (s : State) (c : Nat) (f : Ctx → Ctx) : (updCtx s c f).warps = s.warps := by unfold updCtx; split <;> rfl
@[simp] theorem updCtx_groups (s : State) (c : Nat) (f : Ctx → Ctx) : (updCtx s c f).groups = s.groups := by unfold updCtx; split <;> rfl
@[simp] theorem updCtx_lastSlot (s : State) (c : Nat) (f : Ctx → Ctx) : (updCtx s c f).lastSlot = s.lastSlot := by unfold updCtx; split <;> rfl
@[simp] theorem updCtx_issue (s : State) (c : Nat) (f : Ctx → Ctx) : (updCtx s c f).issue = s.issue := by unfold updCtx; split <;> rfl
@[simp] theorem updCtx_nextId (s : State) (c : Nat) (f : Ctx → Ctx) : (updCtx s c f).nextId = s.nextId := by unfold updCtx; split <;> rfl
@[simp] theorem updCtx_sched (s : State) (c : Nat) (f : Ctx → Ctx) : (updCtx s c f).sched = s.sched := by unfold updCtx; split <;> rfl
@[simp] theorem updCtx_hq (s : State) (c : Nat) (f : Ctx → Ctx) : (updCtx s c f).hq = s.hq := by unfold updCtx; split <;> rfl
@[simp] theorem updCtx_grow (s : State) (c : Nat) (f : Ctx → Ctx) : (updCtx s c f).grow = s.grow := by unfold updCtx; split <;> rfl
@[simp] theorem updCtx_ssets (s : State) (c : Nat) (f : Ctx → Ctx) : (updCtx s c f).ssets = s.ssets := by unfold updCtx; split <;> rfl
@[simp] theorem updCtx_ms (s : State) (c : Nat) (f : Ctx → Ctx) : (updCtx s c f).ms = s.ms := by unfold updCtx; split <;> rfl
@[simp] theorem updCtx_fq (s : State) (c : Nat) (f : Ctx → Ctx) : (updCtx s c f).fq = s.fq := by unfold updCtx; split <;> rfl
@[simp] theorem updCtx_saved (s : State) (c : Nat) (f : Ctx → Ctx) : (updCtx s c f).saved = s.saved := by unfold updCtx; split <;> rfl
@[simp] theorem updCtx_ten (s : State) (c : Nat) (f : Ctx → Ctx) : (updCtx s c f).ten = s.ten := by unfold updCtx; split <;> rfl
@[simp] theorem updCtx_engines (s : State) (c : Nat) (f : Ctx → Ctx) : (updCtx s c f).engines = s.engines := by unfold updCtx; split <;> rfl
@[simp] theorem updCtx_tasks (s : State) (c : Nat) (f : Ctx → Ctx) : (updCtx s c f).tasks = s.tasks := by unfold updCtx; split <;> rfl
@[simp] theorem updCtx_coal (s : State) (c : Nat) (f : Ctx → Ctx) : (updCtx s c f).coal = s.coal := by unfold updCtx; split <;> rfl
@[simp] theorem updCtx_ctab (s : State) (c : Nat) (f : Ctx → Ctx) : (updCtx s c f).ctab = s.ctab := by unfold updCtx; split <;> rfl
@[simp] theorem updCtx_coll (s : State) (c : Nat) (f : Ctx → Ctx) : (updCtx s c f).coll = s.coll := by unfold updCtx; split <;> rfl
@[simp] theorem updCtx_sends (s : State) (c : Nat) (f : Ctx → Ctx) : (updCtx s c f).sends = s.sends := by unfold updCtx; split <;> rfl
@[simp] theorem updCtx_gates (s : State) (c : Nat) (f : Ctx → Ctx) : (updCtx s c f).gates = s.gates := by unfold updCtx; split <;> rfl
@[simp] theorem updCtx_trace (s : State) (c : Nat) (f : Ctx → Ctx) : (updCtx s c f).trace = s.trace := by unfold updCtx; split <;> rfl
@[simp] theorem updCtx_tide (s : State) (c : Nat) (f : Ctx → Ctx) : (updCtx s c f).tide = s.tide := by unfold updCtx; split <;> rfl
@[simp] theorem updCtx_branched (s : State) (c : Nat) (f : Ctx → Ctx) : (updCtx s c f).branched = s.branched := by unfold updCtx; split <;> rfl
@[simp] theorem updCtx_timed (s : State) (c : Nat) (f : Ctx → Ctx) : (updCtx s c f).timed = s.timed := by unfold updCtx; split <;> rfl
@[simp] theorem updCtx_agenda (s : State) (c : Nat) (f : Ctx → Ctx) : (updCtx s c f).agenda = s.agenda := by unfold updCtx; split <;> rfl
@[simp] theorem updCtx_freeCtr (s : State) (c : Nat) (f : Ctx → Ctx) : (updCtx s c f).freeCtr = s.freeCtr := by unfold updCtx; split <;> rfl
@[simp] theorem updCtx_cur (s : State) (c : Nat) (f : Ctx → Ctx) : (updCtx s c f).cur = s.cur := by unfold updCtx; split <;> rfl
@[simp] theorem updCtx_mem (s : State) (c : Nat) (f : Ctx → Ctx) : (updCtx s c f).mem = s.mem := by unfold updCtx; split <;> rfl
@[simp] theorem updCtx_stop (s : State) (c : Nat) (f : Ctx → Ctx) : (updCtx s c f).stop = s.stop := by unfold updCtx; split <;> rfl
@[simp] theorem updCtx_link (s : State) (c : Nat) (f : Ctx → Ctx) : (updCtx s c f).link = s.link := by unfold updCtx; split <;> rfl
@[simp] theorem updCtx_fabOut (s : State) (c : Nat) (f : Ctx → Ctx) : (updCtx s c f).fabOut = s.fabOut := by unfold updCtx; split <;> rfl
@[simp] theorem updCtx_hostReqs (s : State) (c : Nat) (f : Ctx → Ctx) : (updCtx s c f).hostReqs = s.hostReqs := by unfold updCtx; split <;> rfl
@[simp] theorem updCtx_hostLog (s : State) (c : Nat) (f : Ctx → Ctx) : (updCtx s c f).hostLog = s.hostLog := by unfold updCtx; split <;> rfl
@[simp] theorem updCtx_hostOut (s : State) (c : Nat) (f : Ctx → Ctx) : (updCtx s c f).hostOut = s.hostOut := by unfold updCtx; split <;> rfl
@[simp] theorem updCtx_replay (s : State) (c : Nat) (f : Ctx → Ctx) : (updCtx s c f).replay = s.replay := by unfold updCtx; split <;> rfl
@[simp] theorem updCtx_crun (s : State) (c : Nat) (f : Ctx → Ctx) : (updCtx s c f).crun = s.crun := by unfold updCtx; split <;> rfl
@[simp] theorem updCtx_logWait (s : State) (c : Nat) (f : Ctx → Ctx) : (updCtx s c f).logWait = s.logWait := by unfold updCtx; split <;> rfl

/-! ### updSched -/
@[simp] theorem updSched_cycle (s : State) (d : Nat) (f : DieSched → DieSched) : (updSched s d f).cycle = s.cycle := rfl
@[simp] theorem updSched_heldN (s : State) (d : Nat) (f : DieSched → DieSched) : (updSched s d f).heldN = s.heldN := rfl
@[simp] theorem updSched_warps (s : State) (d : Nat) (f : DieSched → DieSched) : (updSched s d f).warps = s.warps := rfl
@[simp] theorem updSched_groups (s : State) (d : Nat) (f : DieSched → DieSched) : (updSched s d f).groups = s.groups := rfl
@[simp] theorem updSched_lastSlot (s : State) (d : Nat) (f : DieSched → DieSched) : (updSched s d f).lastSlot = s.lastSlot := rfl
@[simp] theorem updSched_issue (s : State) (d : Nat) (f : DieSched → DieSched) : (updSched s d f).issue = s.issue := rfl
@[simp] theorem updSched_nextId (s : State) (d : Nat) (f : DieSched → DieSched) : (updSched s d f).nextId = s.nextId := rfl
@[simp] theorem updSched_hq (s : State) (d : Nat) (f : DieSched → DieSched) : (updSched s d f).hq = s.hq := rfl
@[simp] theorem updSched_grow (s : State) (d : Nat) (f : DieSched → DieSched) : (updSched s d f).grow = s.grow := rfl
@[simp] theorem updSched_ssets (s : State) (d : Nat) (f : DieSched → DieSched) : (updSched s d f).ssets = s.ssets := rfl
@[simp] theorem updSched_ctxs (s : State) (d : Nat) (f : DieSched → DieSched) : (updSched s d f).ctxs = s.ctxs := rfl
@[simp] theorem updSched_ms (s : State) (d : Nat) (f : DieSched → DieSched) : (updSched s d f).ms = s.ms := rfl
@[simp] theorem updSched_fq (s : State) (d : Nat) (f : DieSched → DieSched) : (updSched s d f).fq = s.fq := rfl
@[simp] theorem updSched_saved (s : State) (d : Nat) (f : DieSched → DieSched) : (updSched s d f).saved = s.saved := rfl
@[simp] theorem updSched_ten (s : State) (d : Nat) (f : DieSched → DieSched) : (updSched s d f).ten = s.ten := rfl
@[simp] theorem updSched_engines (s : State) (d : Nat) (f : DieSched → DieSched) : (updSched s d f).engines = s.engines := rfl
@[simp] theorem updSched_tasks (s : State) (d : Nat) (f : DieSched → DieSched) : (updSched s d f).tasks = s.tasks := rfl
@[simp] theorem updSched_coal (s : State) (d : Nat) (f : DieSched → DieSched) : (updSched s d f).coal = s.coal := rfl
@[simp] theorem updSched_ctab (s : State) (d : Nat) (f : DieSched → DieSched) : (updSched s d f).ctab = s.ctab := rfl
@[simp] theorem updSched_coll (s : State) (d : Nat) (f : DieSched → DieSched) : (updSched s d f).coll = s.coll := rfl
@[simp] theorem updSched_sends (s : State) (d : Nat) (f : DieSched → DieSched) : (updSched s d f).sends = s.sends := rfl
@[simp] theorem updSched_gates (s : State) (d : Nat) (f : DieSched → DieSched) : (updSched s d f).gates = s.gates := rfl
@[simp] theorem updSched_trace (s : State) (d : Nat) (f : DieSched → DieSched) : (updSched s d f).trace = s.trace := rfl
@[simp] theorem updSched_tide (s : State) (d : Nat) (f : DieSched → DieSched) : (updSched s d f).tide = s.tide := rfl
@[simp] theorem updSched_branched (s : State) (d : Nat) (f : DieSched → DieSched) : (updSched s d f).branched = s.branched := rfl
@[simp] theorem updSched_timed (s : State) (d : Nat) (f : DieSched → DieSched) : (updSched s d f).timed = s.timed := rfl
@[simp] theorem updSched_agenda (s : State) (d : Nat) (f : DieSched → DieSched) : (updSched s d f).agenda = s.agenda := rfl
@[simp] theorem updSched_freeCtr (s : State) (d : Nat) (f : DieSched → DieSched) : (updSched s d f).freeCtr = s.freeCtr := rfl
@[simp] theorem updSched_cur (s : State) (d : Nat) (f : DieSched → DieSched) : (updSched s d f).cur = s.cur := rfl
@[simp] theorem updSched_mem (s : State) (d : Nat) (f : DieSched → DieSched) : (updSched s d f).mem = s.mem := rfl
@[simp] theorem updSched_stop (s : State) (d : Nat) (f : DieSched → DieSched) : (updSched s d f).stop = s.stop := rfl
@[simp] theorem updSched_link (s : State) (d : Nat) (f : DieSched → DieSched) : (updSched s d f).link = s.link := rfl
@[simp] theorem updSched_fabOut (s : State) (d : Nat) (f : DieSched → DieSched) : (updSched s d f).fabOut = s.fabOut := rfl
@[simp] theorem updSched_hostReqs (s : State) (d : Nat) (f : DieSched → DieSched) : (updSched s d f).hostReqs = s.hostReqs := rfl
@[simp] theorem updSched_hostLog (s : State) (d : Nat) (f : DieSched → DieSched) : (updSched s d f).hostLog = s.hostLog := rfl
@[simp] theorem updSched_hostOut (s : State) (d : Nat) (f : DieSched → DieSched) : (updSched s d f).hostOut = s.hostOut := rfl
@[simp] theorem updSched_replay (s : State) (d : Nat) (f : DieSched → DieSched) : (updSched s d f).replay = s.replay := rfl
@[simp] theorem updSched_crun (s : State) (d : Nat) (f : DieSched → DieSched) : (updSched s d f).crun = s.crun := rfl
@[simp] theorem updSched_logWait (s : State) (d : Nat) (f : DieSched → DieSched) : (updSched s d f).logWait = s.logWait := rfl

/-! ### updLaunch -/
@[simp] theorem updLaunch_cycle (s : State) (n : Nat) (f : Launch → Launch) : (updLaunch s n f).cycle = s.cycle := by unfold updLaunch; split <;> rfl
@[simp] theorem updLaunch_heldN (s : State) (n : Nat) (f : Launch → Launch) : (updLaunch s n f).heldN = s.heldN := by unfold updLaunch; split <;> rfl
@[simp] theorem updLaunch_warps (s : State) (n : Nat) (f : Launch → Launch) : (updLaunch s n f).warps = s.warps := by unfold updLaunch; split <;> rfl
@[simp] theorem updLaunch_groups (s : State) (n : Nat) (f : Launch → Launch) : (updLaunch s n f).groups = s.groups := by unfold updLaunch; split <;> rfl
@[simp] theorem updLaunch_lastSlot (s : State) (n : Nat) (f : Launch → Launch) : (updLaunch s n f).lastSlot = s.lastSlot := by unfold updLaunch; split <;> rfl
@[simp] theorem updLaunch_issue (s : State) (n : Nat) (f : Launch → Launch) : (updLaunch s n f).issue = s.issue := by unfold updLaunch; split <;> rfl
@[simp] theorem updLaunch_nextId (s : State) (n : Nat) (f : Launch → Launch) : (updLaunch s n f).nextId = s.nextId := by unfold updLaunch; split <;> rfl
@[simp] theorem updLaunch_hq (s : State) (n : Nat) (f : Launch → Launch) : (updLaunch s n f).hq = s.hq := by unfold updLaunch; split <;> rfl
@[simp] theorem updLaunch_grow (s : State) (n : Nat) (f : Launch → Launch) : (updLaunch s n f).grow = s.grow := by unfold updLaunch; split <;> rfl
@[simp] theorem updLaunch_ssets (s : State) (n : Nat) (f : Launch → Launch) : (updLaunch s n f).ssets = s.ssets := by unfold updLaunch; split <;> rfl
@[simp] theorem updLaunch_ctxs (s : State) (n : Nat) (f : Launch → Launch) : (updLaunch s n f).ctxs = s.ctxs := by unfold updLaunch; split <;> rfl
@[simp] theorem updLaunch_ms (s : State) (n : Nat) (f : Launch → Launch) : (updLaunch s n f).ms = s.ms := by unfold updLaunch; split <;> rfl
@[simp] theorem updLaunch_fq (s : State) (n : Nat) (f : Launch → Launch) : (updLaunch s n f).fq = s.fq := by unfold updLaunch; split <;> rfl
@[simp] theorem updLaunch_saved (s : State) (n : Nat) (f : Launch → Launch) : (updLaunch s n f).saved = s.saved := by unfold updLaunch; split <;> rfl
@[simp] theorem updLaunch_ten (s : State) (n : Nat) (f : Launch → Launch) : (updLaunch s n f).ten = s.ten := by unfold updLaunch; split <;> rfl
@[simp] theorem updLaunch_engines (s : State) (n : Nat) (f : Launch → Launch) : (updLaunch s n f).engines = s.engines := by unfold updLaunch; split <;> rfl
@[simp] theorem updLaunch_tasks (s : State) (n : Nat) (f : Launch → Launch) : (updLaunch s n f).tasks = s.tasks := by unfold updLaunch; split <;> rfl
@[simp] theorem updLaunch_coal (s : State) (n : Nat) (f : Launch → Launch) : (updLaunch s n f).coal = s.coal := by unfold updLaunch; split <;> rfl
@[simp] theorem updLaunch_ctab (s : State) (n : Nat) (f : Launch → Launch) : (updLaunch s n f).ctab = s.ctab := by unfold updLaunch; split <;> rfl
@[simp] theorem updLaunch_coll (s : State) (n : Nat) (f : Launch → Launch) : (updLaunch s n f).coll = s.coll := by unfold updLaunch; split <;> rfl
@[simp] theorem updLaunch_sends (s : State) (n : Nat) (f : Launch → Launch) : (updLaunch s n f).sends = s.sends := by unfold updLaunch; split <;> rfl
@[simp] theorem updLaunch_gates (s : State) (n : Nat) (f : Launch → Launch) : (updLaunch s n f).gates = s.gates := by unfold updLaunch; split <;> rfl
@[simp] theorem updLaunch_trace (s : State) (n : Nat) (f : Launch → Launch) : (updLaunch s n f).trace = s.trace := by unfold updLaunch; split <;> rfl
@[simp] theorem updLaunch_tide (s : State) (n : Nat) (f : Launch → Launch) : (updLaunch s n f).tide = s.tide := by unfold updLaunch; split <;> rfl
@[simp] theorem updLaunch_branched (s : State) (n : Nat) (f : Launch → Launch) : (updLaunch s n f).branched = s.branched := by unfold updLaunch; split <;> rfl
@[simp] theorem updLaunch_timed (s : State) (n : Nat) (f : Launch → Launch) : (updLaunch s n f).timed = s.timed := by unfold updLaunch; split <;> rfl
@[simp] theorem updLaunch_agenda (s : State) (n : Nat) (f : Launch → Launch) : (updLaunch s n f).agenda = s.agenda := by unfold updLaunch; split <;> rfl
@[simp] theorem updLaunch_freeCtr (s : State) (n : Nat) (f : Launch → Launch) : (updLaunch s n f).freeCtr = s.freeCtr := by unfold updLaunch; split <;> rfl
@[simp] theorem updLaunch_cur (s : State) (n : Nat) (f : Launch → Launch) : (updLaunch s n f).cur = s.cur := by unfold updLaunch; split <;> rfl
@[simp] theorem updLaunch_mem (s : State) (n : Nat) (f : Launch → Launch) : (updLaunch s n f).mem = s.mem := by unfold updLaunch; split <;> rfl
@[simp] theorem updLaunch_stop (s : State) (n : Nat) (f : Launch → Launch) : (updLaunch s n f).stop = s.stop := by unfold updLaunch; split <;> rfl
@[simp] theorem updLaunch_link (s : State) (n : Nat) (f : Launch → Launch) : (updLaunch s n f).link = s.link := by unfold updLaunch; split <;> rfl
@[simp] theorem updLaunch_fabOut (s : State) (n : Nat) (f : Launch → Launch) : (updLaunch s n f).fabOut = s.fabOut := by unfold updLaunch; split <;> rfl
@[simp] theorem updLaunch_hostReqs (s : State) (n : Nat) (f : Launch → Launch) : (updLaunch s n f).hostReqs = s.hostReqs := by unfold updLaunch; split <;> rfl
@[simp] theorem updLaunch_hostLog (s : State) (n : Nat) (f : Launch → Launch) : (updLaunch s n f).hostLog = s.hostLog := by unfold updLaunch; split <;> rfl
@[simp] theorem updLaunch_hostOut (s : State) (n : Nat) (f : Launch → Launch) : (updLaunch s n f).hostOut = s.hostOut := by unfold updLaunch; split <;> rfl
@[simp] theorem updLaunch_replay (s : State) (n : Nat) (f : Launch → Launch) : (updLaunch s n f).replay = s.replay := by unfold updLaunch; split <;> rfl
@[simp] theorem updLaunch_crun (s : State) (n : Nat) (f : Launch → Launch) : (updLaunch s n f).crun = s.crun := by unfold updLaunch; split <;> rfl
@[simp] theorem updLaunch_logWait (s : State) (n : Nat) (f : Launch → Launch) : (updLaunch s n f).logWait = s.logWait := by unfold updLaunch; split <;> rfl

/-! ### updFq -/
@[simp] theorem updFq_cycle (s : State) (d : Nat) (f : FaultQ → FaultQ) : (updFq s d f).cycle = s.cycle := rfl
@[simp] theorem updFq_heldN (s : State) (d : Nat) (f : FaultQ → FaultQ) : (updFq s d f).heldN = s.heldN := rfl
@[simp] theorem updFq_warps (s : State) (d : Nat) (f : FaultQ → FaultQ) : (updFq s d f).warps = s.warps := rfl
@[simp] theorem updFq_groups (s : State) (d : Nat) (f : FaultQ → FaultQ) : (updFq s d f).groups = s.groups := rfl
@[simp] theorem updFq_lastSlot (s : State) (d : Nat) (f : FaultQ → FaultQ) : (updFq s d f).lastSlot = s.lastSlot := rfl
@[simp] theorem updFq_issue (s : State) (d : Nat) (f : FaultQ → FaultQ) : (updFq s d f).issue = s.issue := rfl
@[simp] theorem updFq_nextId (s : State) (d : Nat) (f : FaultQ → FaultQ) : (updFq s d f).nextId = s.nextId := rfl
@[simp] theorem updFq_sched (s : State) (d : Nat) (f : FaultQ → FaultQ) : (updFq s d f).sched = s.sched := rfl
@[simp] theorem updFq_hq (s : State) (d : Nat) (f : FaultQ → FaultQ) : (updFq s d f).hq = s.hq := rfl
@[simp] theorem updFq_grow (s : State) (d : Nat) (f : FaultQ → FaultQ) : (updFq s d f).grow = s.grow := rfl
@[simp] theorem updFq_ssets (s : State) (d : Nat) (f : FaultQ → FaultQ) : (updFq s d f).ssets = s.ssets := rfl
@[simp] theorem updFq_ctxs (s : State) (d : Nat) (f : FaultQ → FaultQ) : (updFq s d f).ctxs = s.ctxs := rfl
@[simp] theorem updFq_ms (s : State) (d : Nat) (f : FaultQ → FaultQ) : (updFq s d f).ms = s.ms := rfl
@[simp] theorem updFq_saved (s : State) (d : Nat) (f : FaultQ → FaultQ) : (updFq s d f).saved = s.saved := rfl
@[simp] theorem updFq_ten (s : State) (d : Nat) (f : FaultQ → FaultQ) : (updFq s d f).ten = s.ten := rfl
@[simp] theorem updFq_engines (s : State) (d : Nat) (f : FaultQ → FaultQ) : (updFq s d f).engines = s.engines := rfl
@[simp] theorem updFq_tasks (s : State) (d : Nat) (f : FaultQ → FaultQ) : (updFq s d f).tasks = s.tasks := rfl
@[simp] theorem updFq_coal (s : State) (d : Nat) (f : FaultQ → FaultQ) : (updFq s d f).coal = s.coal := rfl
@[simp] theorem updFq_ctab (s : State) (d : Nat) (f : FaultQ → FaultQ) : (updFq s d f).ctab = s.ctab := rfl
@[simp] theorem updFq_coll (s : State) (d : Nat) (f : FaultQ → FaultQ) : (updFq s d f).coll = s.coll := rfl
@[simp] theorem updFq_sends (s : State) (d : Nat) (f : FaultQ → FaultQ) : (updFq s d f).sends = s.sends := rfl
@[simp] theorem updFq_gates (s : State) (d : Nat) (f : FaultQ → FaultQ) : (updFq s d f).gates = s.gates := rfl
@[simp] theorem updFq_trace (s : State) (d : Nat) (f : FaultQ → FaultQ) : (updFq s d f).trace = s.trace := rfl
@[simp] theorem updFq_tide (s : State) (d : Nat) (f : FaultQ → FaultQ) : (updFq s d f).tide = s.tide := rfl
@[simp] theorem updFq_branched (s : State) (d : Nat) (f : FaultQ → FaultQ) : (updFq s d f).branched = s.branched := rfl
@[simp] theorem updFq_timed (s : State) (d : Nat) (f : FaultQ → FaultQ) : (updFq s d f).timed = s.timed := rfl
@[simp] theorem updFq_agenda (s : State) (d : Nat) (f : FaultQ → FaultQ) : (updFq s d f).agenda = s.agenda := rfl
@[simp] theorem updFq_freeCtr (s : State) (d : Nat) (f : FaultQ → FaultQ) : (updFq s d f).freeCtr = s.freeCtr := rfl
@[simp] theorem updFq_cur (s : State) (d : Nat) (f : FaultQ → FaultQ) : (updFq s d f).cur = s.cur := rfl
@[simp] theorem updFq_mem (s : State) (d : Nat) (f : FaultQ → FaultQ) : (updFq s d f).mem = s.mem := rfl
@[simp] theorem updFq_stop (s : State) (d : Nat) (f : FaultQ → FaultQ) : (updFq s d f).stop = s.stop := rfl
@[simp] theorem updFq_link (s : State) (d : Nat) (f : FaultQ → FaultQ) : (updFq s d f).link = s.link := rfl
@[simp] theorem updFq_fabOut (s : State) (d : Nat) (f : FaultQ → FaultQ) : (updFq s d f).fabOut = s.fabOut := rfl
@[simp] theorem updFq_hostReqs (s : State) (d : Nat) (f : FaultQ → FaultQ) : (updFq s d f).hostReqs = s.hostReqs := rfl
@[simp] theorem updFq_hostLog (s : State) (d : Nat) (f : FaultQ → FaultQ) : (updFq s d f).hostLog = s.hostLog := rfl
@[simp] theorem updFq_hostOut (s : State) (d : Nat) (f : FaultQ → FaultQ) : (updFq s d f).hostOut = s.hostOut := rfl
@[simp] theorem updFq_replay (s : State) (d : Nat) (f : FaultQ → FaultQ) : (updFq s d f).replay = s.replay := rfl
@[simp] theorem updFq_crun (s : State) (d : Nat) (f : FaultQ → FaultQ) : (updFq s d f).crun = s.crun := rfl
@[simp] theorem updFq_logWait (s : State) (d : Nat) (f : FaultQ → FaultQ) : (updFq s d f).logWait = s.logWait := rfl

/-! ### updTrace -/
@[simp] theorem updTrace_cycle (s : State) (d : Nat) (f : Trace → Trace) : (updTrace s d f).cycle = s.cycle := rfl
@[simp] theorem updTrace_heldN (s : State) (d : Nat) (f : Trace → Trace) : (updTrace s d f).heldN = s.heldN := rfl
@[simp] theorem updTrace_warps (s : State) (d : Nat) (f : Trace → Trace) : (updTrace s d f).warps = s.warps := rfl
@[simp] theorem updTrace_groups (s : State) (d : Nat) (f : Trace → Trace) : (updTrace s d f).groups = s.groups := rfl
@[simp] theorem updTrace_lastSlot (s : State) (d : Nat) (f : Trace → Trace) : (updTrace s d f).lastSlot = s.lastSlot := rfl
@[simp] theorem updTrace_issue (s : State) (d : Nat) (f : Trace → Trace) : (updTrace s d f).issue = s.issue := rfl
@[simp] theorem updTrace_nextId (s : State) (d : Nat) (f : Trace → Trace) : (updTrace s d f).nextId = s.nextId := rfl
@[simp] theorem updTrace_sched (s : State) (d : Nat) (f : Trace → Trace) : (updTrace s d f).sched = s.sched := rfl
@[simp] theorem updTrace_hq (s : State) (d : Nat) (f : Trace → Trace) : (updTrace s d f).hq = s.hq := rfl
@[simp] theorem updTrace_grow (s : State) (d : Nat) (f : Trace → Trace) : (updTrace s d f).grow = s.grow := rfl
@[simp] theorem updTrace_ssets (s : State) (d : Nat) (f : Trace → Trace) : (updTrace s d f).ssets = s.ssets := rfl
@[simp] theorem updTrace_ctxs (s : State) (d : Nat) (f : Trace → Trace) : (updTrace s d f).ctxs = s.ctxs := rfl
@[simp] theorem updTrace_ms (s : State) (d : Nat) (f : Trace → Trace) : (updTrace s d f).ms = s.ms := rfl
@[simp] theorem updTrace_fq (s : State) (d : Nat) (f : Trace → Trace) : (updTrace s d f).fq = s.fq := rfl
@[simp] theorem updTrace_saved (s : State) (d : Nat) (f : Trace → Trace) : (updTrace s d f).saved = s.saved := rfl
@[simp] theorem updTrace_ten (s : State) (d : Nat) (f : Trace → Trace) : (updTrace s d f).ten = s.ten := rfl
@[simp] theorem updTrace_engines (s : State) (d : Nat) (f : Trace → Trace) : (updTrace s d f).engines = s.engines := rfl
@[simp] theorem updTrace_tasks (s : State) (d : Nat) (f : Trace → Trace) : (updTrace s d f).tasks = s.tasks := rfl
@[simp] theorem updTrace_coal (s : State) (d : Nat) (f : Trace → Trace) : (updTrace s d f).coal = s.coal := rfl
@[simp] theorem updTrace_ctab (s : State) (d : Nat) (f : Trace → Trace) : (updTrace s d f).ctab = s.ctab := rfl
@[simp] theorem updTrace_coll (s : State) (d : Nat) (f : Trace → Trace) : (updTrace s d f).coll = s.coll := rfl
@[simp] theorem updTrace_sends (s : State) (d : Nat) (f : Trace → Trace) : (updTrace s d f).sends = s.sends := rfl
@[simp] theorem updTrace_gates (s : State) (d : Nat) (f : Trace → Trace) : (updTrace s d f).gates = s.gates := rfl
@[simp] theorem updTrace_tide (s : State) (d : Nat) (f : Trace → Trace) : (updTrace s d f).tide = s.tide := rfl
@[simp] theorem updTrace_branched (s : State) (d : Nat) (f : Trace → Trace) : (updTrace s d f).branched = s.branched := rfl
@[simp] theorem updTrace_timed (s : State) (d : Nat) (f : Trace → Trace) : (updTrace s d f).timed = s.timed := rfl
@[simp] theorem updTrace_agenda (s : State) (d : Nat) (f : Trace → Trace) : (updTrace s d f).agenda = s.agenda := rfl
@[simp] theorem updTrace_freeCtr (s : State) (d : Nat) (f : Trace → Trace) : (updTrace s d f).freeCtr = s.freeCtr := rfl
@[simp] theorem updTrace_cur (s : State) (d : Nat) (f : Trace → Trace) : (updTrace s d f).cur = s.cur := rfl
@[simp] theorem updTrace_mem (s : State) (d : Nat) (f : Trace → Trace) : (updTrace s d f).mem = s.mem := rfl
@[simp] theorem updTrace_stop (s : State) (d : Nat) (f : Trace → Trace) : (updTrace s d f).stop = s.stop := rfl
@[simp] theorem updTrace_link (s : State) (d : Nat) (f : Trace → Trace) : (updTrace s d f).link = s.link := rfl
@[simp] theorem updTrace_fabOut (s : State) (d : Nat) (f : Trace → Trace) : (updTrace s d f).fabOut = s.fabOut := rfl
@[simp] theorem updTrace_hostReqs (s : State) (d : Nat) (f : Trace → Trace) : (updTrace s d f).hostReqs = s.hostReqs := rfl
@[simp] theorem updTrace_hostLog (s : State) (d : Nat) (f : Trace → Trace) : (updTrace s d f).hostLog = s.hostLog := rfl
@[simp] theorem updTrace_hostOut (s : State) (d : Nat) (f : Trace → Trace) : (updTrace s d f).hostOut = s.hostOut := rfl
@[simp] theorem updTrace_replay (s : State) (d : Nat) (f : Trace → Trace) : (updTrace s d f).replay = s.replay := rfl
@[simp] theorem updTrace_crun (s : State) (d : Nat) (f : Trace → Trace) : (updTrace s d f).crun = s.crun := rfl
@[simp] theorem updTrace_logWait (s : State) (d : Nat) (f : Trace → Trace) : (updTrace s d f).logWait = s.logWait := rfl

/-! ### due -/
@[simp] theorem due_cycle (s : State) (i : Instr) : (due s i).cycle = s.cycle := rfl
@[simp] theorem due_heldN (s : State) (i : Instr) : (due s i).heldN = s.heldN := rfl
@[simp] theorem due_warps (s : State) (i : Instr) : (due s i).warps = s.warps := rfl
@[simp] theorem due_groups (s : State) (i : Instr) : (due s i).groups = s.groups := rfl
@[simp] theorem due_lastSlot (s : State) (i : Instr) : (due s i).lastSlot = s.lastSlot := rfl
@[simp] theorem due_issue (s : State) (i : Instr) : (due s i).issue = s.issue := rfl
@[simp] theorem due_nextId (s : State) (i : Instr) : (due s i).nextId = s.nextId := rfl
@[simp] theorem due_sched (s : State) (i : Instr) : (due s i).sched = s.sched := rfl
@[simp] theorem due_hq (s : State) (i : Instr) : (due s i).hq = s.hq := rfl
@[simp] theorem due_grow (s : State) (i : Instr) : (due s i).grow = s.grow := rfl
@[simp] theorem due_ssets (s : State) (i : Instr) : (due s i).ssets = s.ssets := rfl
@[simp] theorem due_ctxs (s : State) (i : Instr) : (due s i).ctxs = s.ctxs := rfl
@[simp] theorem due_ms (s : State) (i : Instr) : (due s i).ms = s.ms := rfl
@[simp] theorem due_fq (s : State) (i : Instr) : (due s i).fq = s.fq := rfl
@[simp] theorem due_saved (s : State) (i : Instr) : (due s i).saved = s.saved := rfl
@[simp] theorem due_ten (s : State) (i : Instr) : (due s i).ten = s.ten := rfl
@[simp] theorem due_engines (s : State) (i : Instr) : (due s i).engines = s.engines := rfl
@[simp] theorem due_tasks (s : State) (i : Instr) : (due s i).tasks = s.tasks := rfl
@[simp] theorem due_coal (s : State) (i : Instr) : (due s i).coal = s.coal := rfl
@[simp] theorem due_ctab (s : State) (i : Instr) : (due s i).ctab = s.ctab := rfl
@[simp] theorem due_coll (s : State) (i : Instr) : (due s i).coll = s.coll := rfl
@[simp] theorem due_sends (s : State) (i : Instr) : (due s i).sends = s.sends := rfl
@[simp] theorem due_gates (s : State) (i : Instr) : (due s i).gates = s.gates := rfl
@[simp] theorem due_trace (s : State) (i : Instr) : (due s i).trace = s.trace := rfl
@[simp] theorem due_tide (s : State) (i : Instr) : (due s i).tide = s.tide := rfl
@[simp] theorem due_branched (s : State) (i : Instr) : (due s i).branched = s.branched := rfl
@[simp] theorem due_timed (s : State) (i : Instr) : (due s i).timed = s.timed := rfl
@[simp] theorem due_freeCtr (s : State) (i : Instr) : (due s i).freeCtr = s.freeCtr := rfl
@[simp] theorem due_cur (s : State) (i : Instr) : (due s i).cur = s.cur := rfl
@[simp] theorem due_mem (s : State) (i : Instr) : (due s i).mem = s.mem := rfl
@[simp] theorem due_stop (s : State) (i : Instr) : (due s i).stop = s.stop := rfl
@[simp] theorem due_link (s : State) (i : Instr) : (due s i).link = s.link := rfl
@[simp] theorem due_fabOut (s : State) (i : Instr) : (due s i).fabOut = s.fabOut := rfl
@[simp] theorem due_hostReqs (s : State) (i : Instr) : (due s i).hostReqs = s.hostReqs := rfl
@[simp] theorem due_hostLog (s : State) (i : Instr) : (due s i).hostLog = s.hostLog := rfl
@[simp] theorem due_hostOut (s : State) (i : Instr) : (due s i).hostOut = s.hostOut := rfl
@[simp] theorem due_replay (s : State) (i : Instr) : (due s i).replay = s.replay := rfl
@[simp] theorem due_crun (s : State) (i : Instr) : (due s i).crun = s.crun := rfl
@[simp] theorem due_logWait (s : State) (i : Instr) : (due s i).logWait = s.logWait := rfl

end Sys2Proof.Machine
end

