-- ==== Sys2Proof/Laws/Memory.lean ====
section
/-! SUPPORT. Memory: what a byte reads after a write, and that every operation on it keeps the canonical form. -/
namespace Sys2Proof.Machine

/-! ### Tables -/

theorem Tab.get?_put {α : Type} (t : Tab α) (k j : Nat) (x : α) :
    (t.put k x).get? j = if j = k then some x else t.get? j := by
  induction t with
  | nil => simp only [Tab.put, Tab.get?, eq_comm]
  | cons e t ih =>
    obtain ⟨i, y⟩ := e
    simp only [Tab.put]
    split
    · simp only [Tab.get?, ih]; grind
    · split
      · simp only [Tab.get?]; grind
      · simp only [Tab.get?]; grind

@[simp] theorem Tab.get?_put_self {α : Type} (t : Tab α) (k : Nat) (x : α) : (t.put k x).get? k = some x := by
  simp [Tab.get?_put]

theorem Tab.get?_put_ne {α : Type} (t : Tab α) {k j : Nat} (x : α) (h : j ≠ k) : (t.put k x).get? j = t.get? j := by
  simp [Tab.get?_put, h]

/-- A vector's entry after one has been set. -/
theorem getD_setIfInBounds {α : Type} {n : Nat} (v : Vector α n) (l j : Nat) (t d : α) :
    (v.setIfInBounds l t).getD j d = if j = l ∧ l < n then t else v.getD j d := by
  have := v.size_toArray
  simp only [Vector.getD, Vector.toArray_setIfInBounds, Array.getD_eq_getD_getElem?, Array.getElem?_setIfInBounds,
    Vector.size_toArray]
  split <;> split <;> grind

/-! ### Canonical form -/

theorem Memory.wfFrom_mono {m : Memory} {a b : Nat} (h : m.wfFrom b = true) (hab : a ≤ b) : m.wfFrom a = true := by
  cases m with
  | nil => rfl
  | cons c m =>
    simp only [Memory.wfFrom, Bool.and_eq_true, decide_eq_true_eq] at h ⊢
    exact ⟨⟨by omega, h.1.2⟩, h.2⟩

theorem Memory.get_of_lt {m : Memory} {lo k : Nat} (h : m.wfFrom lo = true) (hk : k < lo) : m.get k = 0 := by
  induction m generalizing lo with
  | nil => rfl
  | cons c m ih =>
    simp only [Memory.wfFrom, Bool.and_eq_true, decide_eq_true_eq] at h
    simp only [Memory.get]
    rw [if_neg (by omega)]
    exact ih h.2 (by omega)

theorem Memory.put_wfFrom {m : Memory} {lo k : Nat} (x : Byte) (h : m.wfFrom lo = true) (hk : lo ≤ k) :
    (m.put k x).wfFrom lo = true := by
  induction m generalizing lo with
  | nil => simp only [Memory.put]; split <;> simp_all [Memory.wfFrom]
  | cons c m ih =>
    obtain ⟨j, y⟩ := c
    simp only [Memory.wfFrom, Bool.and_eq_true, decide_eq_true_eq, bne_iff_ne, ne_eq] at h
    simp only [Memory.put]
    split
    · simp only [Memory.wfFrom, Bool.and_eq_true, decide_eq_true_eq, bne_iff_ne, ne_eq]
      exact ⟨h.1, ih h.2 (by omega)⟩
    · split
      · split
        · exact Memory.wfFrom_mono h.2 (by omega)
        · simp_all [Memory.wfFrom]
      · split
        · simp_all [Memory.wfFrom]
        · simp_all [Memory.wfFrom]; omega

theorem Memory.put_wf {m : Memory} (k : Nat) (x : Byte) (h : m.wf = true) : (m.put k x).wf = true :=
  Memory.put_wfFrom x h (Nat.zero_le k)

theorem Memory.putAll_wf (cs : List Host.Cell) {m : Memory} (h : m.wf = true) : (m.putAll cs).wf = true := by
  induction cs generalizing m with
  | nil => exact h
  | cons c cs ih => exact ih (Memory.put_wf c.1 c.2 h)

theorem Memory.filter_wfFrom (p : Host.Cell → Bool) {m : Memory} {lo : Nat} (h : m.wfFrom lo = true) :
    Memory.wfFrom lo (m.filter p) = true := by
  induction m generalizing lo with
  | nil => rfl
  | cons c m ih =>
    simp only [Memory.wfFrom, Bool.and_eq_true, decide_eq_true_eq] at h
    simp only [List.filter]
    split
    · simp only [Memory.wfFrom, Bool.and_eq_true, decide_eq_true_eq]; exact ⟨h.1, ih h.2⟩
    · exact Memory.wfFrom_mono (ih h.2) (by omega)

theorem Memory.filter_wf (p : Host.Cell → Bool) {m : Memory} (h : m.wf = true) : Memory.wf (m.filter p) = true :=
  Memory.filter_wfFrom p h

@[simp] theorem Memory.nil_wf : Memory.wf [] = true := rfl

/-! ### Read after write -/

theorem Memory.get_put {m : Memory} (k j : Nat) (x : Byte) (h : m.wf = true) :
    (m.put k x).get j = if j = k then x else m.get j := by
  suffices ∀ lo, m.wfFrom lo = true → (m.put k x).get j = if j = k then x else m.get j from this 0 h
  clear h
  induction m with
  | nil =>
    intro _ _
    simp only [Memory.put]
    split <;> simp only [Memory.get] <;> grind
  | cons c m ih =>
    intro lo h
    obtain ⟨i, y⟩ := c
    have h' := h
    simp only [Memory.wfFrom, Bool.and_eq_true, decide_eq_true_eq] at h
    have lo0 := fun (hk : k < i + 1) => Memory.get_of_lt h.2 hk
    simp only [Memory.put]
    split
    · simp only [Memory.get, ih _ h.2]; grind
    · split
      · split <;> simp only [Memory.get] <;> grind
      · split <;> simp only [Memory.get] <;> grind

theorem Memory.get_put_self {m : Memory} (k : Nat) (x : Byte) (h : m.wf = true) : (m.put k x).get k = x := by
  simp [Memory.get_put k k x h]

theorem Memory.get_put_ne {m : Memory} {k j : Nat} (x : Byte) (h : m.wf = true) (hj : j ≠ k) :
    (m.put k x).get j = m.get j := by
  simp [Memory.get_put k j x h, hj]

/-- A write of some cells leaves every other address alone. -/
theorem Memory.get_putAll_of_notMem (cs : List Host.Cell) {m : Memory} {j : Nat} (h : m.wf = true)
    (hj : j ∉ cs.map Prod.fst) : (m.putAll cs).get j = m.get j := by
  induction cs generalizing m with
  | nil => rfl
  | cons c cs ih =>
    simp only [List.map_cons, List.mem_cons, not_or] at hj
    exact (ih (Memory.put_wf c.1 c.2 h) hj.2).trans (Memory.get_put_ne c.2 h hj.1)

/-! ### Home writes keep the form (05_consistency.md R110, R111) -/

/-- Steps that each keep memory keep it together. -/
theorem foldl_wf {α : Type} (f : State → α → State) (hf : ∀ s a, s.mem.wf = true → (f s a).mem.wf = true) (as : List α) {s : State}
    (h : s.mem.wf = true) : (as.foldl f s).mem.wf = true := by
  induction as generalizing s with
  | nil => exact h
  | cons a as ih => exact ih (hf s a h)

/-- Steps that each leave memory alone leave it alone together. -/
theorem foldl_mem {α : Type} (f : State → α → State) (hf : ∀ s a, (f s a).mem = s.mem) (as : List α) (s : State) : (as.foldl f s).mem = s.mem := by
  induction as generalizing s with
  | nil => rfl
  | cons a as ih => exact (ih _).trans (hf s a)

@[simp] theorem dropCopies_mem (s : State) (line : Nat) : (dropCopies s line).mem = s.mem :=
  foldl_mem (fun s d => dropCopy s d line) (fun _ _ => rfl) _ s

@[simp] theorem hostForget_mem (s : State) (line : Nat) : (hostForget s line).mem = s.mem := dropCopies_mem s line

theorem hostSend_wf {s : State} (k : HostKind) (a : Nat) (cs : List Host.Cell) (h : s.mem.wf = true) : (hostSend s k a cs).mem.wf = true := by
  unfold hostSend
  dsimp only
  split
  · exact h
  · dsimp only; split
    · exact h
    · exact Memory.putAll_wf _ h

/-- A request that brings data writes nothing. -/
theorem hostSend_mem {s : State} {k : HostKind} (a : Nat) (cs : List Host.Cell) (hk : k.reads = true) : (hostSend s k a cs).mem = s.mem := by
  unfold hostSend
  dsimp only
  split
  · rfl
  · rfl

theorem hostPut_wf {s : State} (k : HostKind) (line : Nat) (cs : List Host.Cell) (h : s.mem.wf = true) : (hostPut s k line cs).mem.wf = true :=
  foldl_wf _ (fun s a h => by
    dsimp only
    split
    · exact h
    · exact hostSend_wf _ _ _ h) _ h

theorem hostWriteBack_wf {s : State} (line : Nat) (h : s.mem.wf = true) : (hostWriteBack s line).mem.wf = true := by
  unfold hostWriteBack
  split
  · exact h
  · dsimp only; split
    · exact h
    · split
      · exact hostPut_wf _ _ _ h
      · rw [hostForget_mem]; exact foldl_wf _ (fun s a h => hostSend_wf _ _ _ h) _ (hostPut_wf _ _ _ h)

theorem hostDrop_wf {s : State} (line : Nat) (h : s.mem.wf = true) : (hostDrop s line).mem.wf = true := by
  unfold hostDrop
  dsimp only
  rw [hostForget_mem]
  split
  · exact foldl_wf _ (fun s a h => hostSend_wf _ _ _ h) _ (hostWriteBack_wf _ h)
  · exact hostWriteBack_wf _ h

theorem hostAsks_wf {s : State} (ks : List Nat) (h : s.mem.wf = true) : (hostAsks s ks).mem.wf = true :=
  foldl_wf _ (fun _ _ h => hostSend_wf _ _ _ h) _ h

theorem hostFill_mem (s : State) (line cxl : Nat) : (hostFill s line cxl).mem = s.mem := by
  have ask := fun (s : State) (k : HostKind) (hk : k.reads = true) =>
    foldl_mem (fun s a => hostSend s k a []) (fun _ _ => hostSend_mem _ _ hk) (hostHalves line) s
  unfold hostFill
  extract_lets ask' s0
  split
  · extract_lets s1 h' s2
    have h1 : s1.mem = s.mem := by
      simp only [s1]
      split
      · split
        · exact hostSend_mem _ _ rfl
        · rfl
      · rfl
    split
    · have h2 : s2.mem = s1.mem := by
        simp only [s2]
        split
        · exact ask _ _ rfl
        · rfl
      exact h2.trans h1
    · exact h1
  · show s0.mem = s.mem
    simp only [s0]
    split
    · exact ask _ _ rfl
    · split <;> exact ask _ _ rfl

@[simp] theorem unretain_mem (s : State) (line : Nat) : (unretain s line).mem = s.mem := by
  unfold unretain
  split
  · split <;> rfl
  · rfl

theorem homeLine_wf {s : State} (at_ : Nat) (vc : List Nat) (cs : List Host.Cell) (line : Nat) (h : s.mem.wf = true) :
    (homeLine at_ vc cs s line).mem.wf = true := by
  unfold homeLine
  dsimp only
  repeat' split
  all_goals first
    | simpa only [hostFill_mem, unretain_mem] using h
    | exact hostPut_wf _ _ _ (by simpa only [hostFill_mem, unretain_mem] using h)
    | exact Memory.putAll_wf _ (by simpa only [hostFill_mem, unretain_mem] using h)

theorem homeWrite_wf {s : State} (vc : List Nat) (cs : List Host.Cell) (h : s.mem.wf = true) : (homeWrite s vc cs).mem.wf = true :=
  foldl_wf _ (fun _ l h => homeLine_wf _ _ _ l h) _ h

theorem devWrite_wf {s : State} (a : Nat) (bs : List Byte) (h : s.mem.wf = true) : (devWrite s a bs).mem.wf = true := by
  unfold devWrite
  split
  · exact homeWrite_wf _ _ h
  · exact h

/-- The reset memory is canonical. -/
theorem reset_mem_wf : State.reset.mem.wf = true := rfl

end Sys2Proof.Machine
end

