-- ==== Sys2Proof/Laws/Frame.lean ====
section
/-! SUPPORT. What the shared frame of an instruction does (15_instruction_formats.md R290 to R292): one lemma for each shared
operation, up to `result_writes`, which says what an instruction with a register result does, `perLane_executes`, which says it for
one that changes its threads alone, and `perLane_one`, which reduces an instruction with one executing thread to its body. -/
namespace Sys2Proof.Machine

/-! ### Lanes -/

theorem mem_lanesOf {m : W32} {l : Nat} : l ∈ lanesOf m ↔ l < 32 ∧ hasLane m l = true := by
  simp [lanesOf]

theorem lanesOf_nodup (m : W32) : (lanesOf m).Nodup := List.Pairwise.filter _ List.nodup_range

theorem activeLanes_sub {s : State} {c : Cursor} {h : Hdr} {l : Nat} (hl : l ∈ activeLanes s c h) : l ∈ lanesOf c.lanes :=
  (List.mem_filter.mp hl).1

theorem activeLanes_nodup (s : State) (c : Cursor) (h : Hdr) : (activeLanes s c h).Nodup :=
  List.Pairwise.filter _ (lanesOf_nodup _)

/-! ### One warp of a state -/

theorem Tab.put_put {α : Type} (t : Tab α) (k : Nat) (x y : α) : (t.put k x).put k y = t.put k y := by
  induction t with
  | nil => simp [Tab.put]
  | cons e t ih =>
    obtain ⟨j, z⟩ := e
    by_cases h1 : j < k
    · simp [Tab.put, h1, ih]
    · by_cases h2 : j = k <;> simp [Tab.put, h1, h2]

@[simp] theorem warpAt_setWarp (s : State) (w : WKey) (x : Warp) : warpAt (setWarp s w x) w = some x := by
  simp [warpAt, setWarp]

theorem Warp.thr_set (x : Warp) (l j : Nat) (t : Thread) (hl : l < 32) :
    ({ x with th := x.th.setIfInBounds l t } : Warp).thr j = if j = l then t else x.thr j := by
  simp [Warp.thr, getD_setIfInBounds, hl]

/-- `s'` is `s` but for the warp at `w`, which is `x`, and the cursor. -/
structure Only (s : State) (w : WKey) (x : Warp) (s' : State) : Prop where
  warp : warpAt s' w = some x
  rest : s' = { s with warps := s'.warps, cur := s'.cur }
  other : ∀ k, k ≠ wIdx w → s'.warps.get? k = s.warps.get? k

theorem Only.self {s : State} {w : WKey} {x : Warp} (h : warpAt s w = some x) : Only s w x s := ⟨h, rfl, fun _ _ => rfl⟩

theorem Only.updWarp {s s' : State} {w : WKey} {x : Warp} (h : Only s w x s') (f : Warp → Warp) :
    Only s w (f x) (updWarp s' w f) := by
  have e : Machine.updWarp s' w f = setWarp s' w (f x) := by simp [Machine.updWarp, h.warp]
  rw [e]
  refine ⟨warpAt_setWarp .., ?_, fun k hk => ?_⟩
  · rw [h.rest]; rfl
  · rw [← h.other k hk]; exact Tab.get?_put_ne _ _ hk

theorem Only.updThr {s s' : State} {w : WKey} {x : Warp} (h : Only s w x s') (l : Nat) (f : Thread → Thread) :
    Only s w { x with th := x.th.setIfInBounds l (f (x.thr l)) } (updThr s' w l f) :=
  h.updWarp fun x => { x with th := x.th.setIfInBounds l (f (x.thr l)) }

theorem Only.thrAt {s s' : State} {w : WKey} {x : Warp} (h : Only s w x s') (l : Nat) : thrAt s' w l = x.thr l := by
  simp [Machine.thrAt, h.warp]

theorem Only.setCur {s s' : State} {w : WKey} {x : Warp} (h : Only s w x s') (c : Option Cursor) :
    Only s w x { s' with cur := c } := by
  refine ⟨h.warp, ?_, h.other⟩
  have := h.rest
  generalize s'.warps = ws at *
  generalize s'.cur = c' at *
  subst this; rfl

/-- Threads changed one after another. -/
theorem Only.foldThr {s s' : State} {w : WKey} {x : Warp} (h : Only s w x s') (f : Nat → Thread → Thread) (ls : List Nat)
    (nd : ls.Nodup) (lt : ∀ l ∈ ls, l < 32) :
    ∃ x', Only s w x' (ls.foldl (fun s l => Machine.updThr s w l (f l)) s') ∧ { x' with th := x.th } = x ∧
      ∀ l, x'.thr l = if l ∈ ls then f l (x.thr l) else x.thr l := by
  induction ls generalizing s' x with
  | nil => exact ⟨x, h, rfl, by simp⟩
  | cons a ls ih =>
    obtain ⟨na, nd⟩ := List.nodup_cons.mp nd
    obtain ⟨x', h', e, t⟩ := ih (h.updThr a (f a)) nd fun l hl => lt l (List.mem_cons_of_mem _ hl)
    refine ⟨x', h', ?_, fun l => ?_⟩
    · cases x; cases x'; simp_all
    · rw [t l, Warp.thr_set _ _ _ _ (lt a List.mem_cons_self)]
      by_cases hl : l = a
      · subst hl; simp [na]
      · simp [hl]

/-- What issuing does to the path's warp (R46, R379). -/
theorem issuePath_only {s : State} {c : Cursor} {x : Warp} (h : Hdr) (hw : warpAt s c.w = some x) :
    ∃ x', Only s c.w x' (issuePath s c h) ∧ { x' with th := x.th } = x ∧
      ∀ l, x'.thr l = if l ∈ lanesOf c.lanes then (x.thr l).issue c h.yh else x.thr l :=
  (Only.self hw).foldThr _ _ (lanesOf_nodup _) fun _ hl => (mem_lanesOf.mp hl).1

/-! ### The end of an instruction -/

theorem flushBranches_none {s : State} (w : WKey) (h : s.branched = []) : flushBranches s w = s := by
  simp [flushBranches, h]

theorem takeTraps_nil (s : State) (w : WKey) (pc : W64) : takeTraps s w pc [] = s := rfl

theorem singleStep_none {s : State} {c : Cursor} (h : ∀ l ∈ lanesOf c.lanes, (thrAt s c.w l).sstep = false) :
    singleStep s c = s := by
  have e : ((lanesOf c.lanes).filter fun l => (thrAt s c.w l).stepped) = [] := by
    rw [List.filter_eq_nil_iff]; intro l hl; simp [Thread.stepped, h l hl]
  unfold singleStep
  rw [e]
  rfl

/-- With no trap, no pending branch record and no single step, nothing is left to do. -/
theorem endTraps_none {s : State} {c : Cursor} (hb : s.branched = []) (h : ∀ l ∈ lanesOf c.lanes, (thrAt s c.w l).sstep = false) :
    endTraps s c [] = s := by
  simp only [endTraps, flushBranches_none _ hb, List.isEmpty_nil, if_true]
  exact singleStep_none h

theorem damaged_none {s : State} (c : Cursor) (h : Hdr) (us : List Use) (act : List Nat) (hd : s.ms.damage = []) :
    damaged s c h us act = [] := by
  simp [damaged, hd]

theorem done_next {s : State} (h : s.stop = none) : done s = .next s := by simp [done, h]

/-- The issued state of a ready path. -/
theorem issuedState_only {s : State} {i : Instr} {c : Cursor} {x : Warp} (h : Hdr) (hr : Ready s i c x) :
    ∃ x', Only { s with freeCtr := s.freeCtr + 1 } c.w x' (issuedState s c h) ∧ { x' with th := x.th } = x ∧
      ∀ l, x'.thr l = if l ∈ lanesOf c.lanes then (x.thr l).issue c h.yh else x.thr l := by
  obtain ⟨x', o, e, t⟩ := issuePath_only h hr.warp
  refine ⟨x', ⟨o.warp, ?_, o.other⟩, e, t⟩
  have := o.rest
  unfold issuedState
  generalize issuePath s c h = s1 at *
  rw [this]

/-- An instruction other than an access to scratch takes no cycle of its banks. -/
theorem bankCycles_none {i : Instr} (hs : scrAddr i = none) (s : State) (c : Cursor) (act : List Nat) : bankCycles s c act i = 1 := by
  simp [bankCycles, hs]

/-- It completes in a free number of cycles. -/
theorem latency_none {i : Instr} (hs : scrAddr i = none) (s : State) (h : Hdr) : latency s i h = Config.freeNat s.freeCtr := by
  unfold latency; split <;> simp [hs]

/-- One thread alone waits for no other at the banks. -/
theorem bankCycles_one (s : State) (c : Cursor) (l : Nat) (i : Instr) : bankCycles s c [l] i = 1 := by
  unfold bankCycles; split <;> simp

/-- `perLane` for a ready path whose access meets no conflict at the banks of scratch: the executing threads one after another from the issued
state. -/
theorem perLane_of {s : State} {i : Instr} {h : Hdr} {c : Cursor} {x : Warp} (hr : Ready s i c x)
    (hb : bankCycles (issuePath s c h) (actAs s c (activeLanes s c h)) (activeLanes s c h) i = 1)
    (body : Cursor → State → Nat → LRes) :
    perLane i h s body =
      let r := runLanes i h c (latency s i h)
        (body (actAs s c (activeLanes s c h))) (activeLanes s c h) (issuedState s c h) []
      done (endTraps r.1 c r.2) := by
  have hf : ∀ as : List Nat, as.filter (fun l => !([] : List TrapOf).any (·.lane == l)) = as := by
    intro as; simp
  unfold perLane
  simp only [hr.cur, hr.warp, Option.getD_some, hr.regs, damaged_none _ _ _ _ hr.sound, hf, hb]
  rfl

/-- `perLane` for a ready path and an instruction other than an access to scratch. -/
theorem perLane_ready {s : State} {i : Instr} {h : Hdr} {c : Cursor} {x : Warp} (hr : Ready s i c x) (hs : scrAddr i = none)
    (body : Cursor → State → Nat → LRes) :
    perLane i h s body =
      let r := runLanes i h c (Config.freeNat s.freeCtr)
        (body (actAs s c (activeLanes s c h))) (activeLanes s c h) (issuedState s c h) []
      done (endTraps r.1 c r.2) := by
  rw [perLane_of hr (bankCycles_none hs ..), latency_none hs]

/-! ### Results -/

/-- What the source operands of a lane depend on is the same in two warps. -/
structure SameFor (x y : Warp) (l : Nat) : Prop where
  thr : y.thr l = x.thr l
  k : y.k = x.k
  rest : { y with th := x.th, k := x.k } = x
  st : ∀ j, (y.thr j).st = (x.thr j).st

theorem SameFor.liveMask {x y : Warp} {l : Nat} (h : SameFor x y l) : liveMask y = liveMask x := by
  simp only [Machine.liveMask, h.st]

/-- Sources read the same where the warp shows the lane the same. -/
theorem srcAt_same {s s' : State} {c : Cursor} {x y : Warp} {l : Nat} (o : Only s c.w y s') (hx : warpAt s c.w = some x)
    (e : SameFor x y l) (a : Opd) (i : Nat) : srcAt s' c l a i = srcAt s c l a i := by
  have hw : warpAt s' c.w = some y := o.warp
  have hr : s' = { s with warps := s'.warps, cur := s'.cur } := o.rest
  have r := e.rest
  have ex : y.num = x.num ∧ y.hwm = x.hwm ∧ y.gid = x.gid := by
    rw [← r]; exact ⟨rfl, rfl, rfl⟩
  have fs : s'.groups = s.groups ∧ s'.cycle = s.cycle ∧ s'.engines = s.engines ∧ s'.ssets = s.ssets ∧ s'.sched = s.sched ∧
      s'.pwrCur = s.pwrCur := by rw [hr]; exact ⟨rfl, rfl, rfl, rfl, rfl, rfl⟩
  obtain ⟨f1, f2, f3, f4, f5, f6⟩ := fs
  cases a with
  | s r => cases r <;> simp [srcAt, sreg, hw, hx, e.thr, e.liveMask, ex, f1, f2, f3, f4, f5, f6, rprog, sstep, lrec, launchOf, schedOf]
  | _ => simp [srcAt, thrAt, hw, hx, e.thr, e.k]

theorem src_same {s s' : State} {c : Cursor} {x y : Warp} {l : Nat} (o : Only s c.w y s') (hx : warpAt s c.w = some x)
    (e : SameFor x y l) (a : Opd) (wide : Bool) : src s' c l a wide = src s c l a wide := by
  simp only [src, srcAt_same o hx e]

theorem srcP_same {s s' : State} {c : Cursor} {x y : Warp} {l : Nat} (o : Only s c.w y s') (hx : warpAt s c.w = some x)
    (e : SameFor x y l) (a : Opd) : srcP s' c l a = srcP s c l a := by
  cases a <;> simp [srcP, thrAt, o.warp, hx, e.thr]

@[simp] theorem Thread.issue_st (t : Thread) (c : Cursor) (yh : Bool) : (t.issue c yh).st = t.st := rfl
@[simp] theorem Thread.issue_sstep (t : Thread) (c : Cursor) (yh : Bool) : (t.issue c yh).sstep = t.sstep := rfl

theorem late_st (i : Instr) (h : Hdr) (now n : Nat) (t : Thread) : (late i h now n t).st = t.st := by
  unfold late; dsimp only; split <;> split <;> rfl
theorem late_sstep (i : Instr) (h : Hdr) (now n : Nat) (t : Thread) : (late i h now n t).sstep = t.sstep := by
  unfold late; dsimp only; split <;> split <;> rfl

/-- What one lane's completion does to the state, in an instruction that ends no region. -/
theorem completeLane_only {s s' : State} {i : Instr} {h : Hdr} {c : Cursor} {x : Warp} {l : Nat} (o : Only s c.w x s')
    (hi : i.endsRegion = false) (hl : l < 32) (hst : (x.thr l).st = .running) (n : Nat) :
    ∃ x', Only s c.w x' (completeLane i h c n l s') ∧ { x' with th := x.th } = x ∧
      (∀ j, x'.thr j = if j = l then late i h s.cycle n (x.thr l) else x.thr j) ∧
      (completeLane i h c n l s').cur = s'.cur.map fun c => { c with kfree := false } := by
  have hc : s'.cycle = s.cycle := by rw [o.rest]
  have kept : ∃ x1, Only s c.w x1 (keepCycle i s' c.w l) ∧ { x1 with th := x.th } = x ∧ (keepCycle i s' c.w l).cur = s'.cur ∧
      (keepCycle i s' c.w l).cycle = s.cycle ∧
      ∀ j, x1.thr j = if j = l then (if readsS (Instr.uses i) .cycle
        then { x.thr l with cych := some (w32 ((x.thr l).issued.getD s.cycle / 2 ^ 32)) } else x.thr l) else x.thr j := by
    unfold keepCycle
    split
    · next hr =>
      refine ⟨_, o.updThr l _, rfl, by simp, by simp [hc], fun j => ?_⟩
      rw [Warp.thr_set _ _ _ _ hl, hc]
    · exact ⟨x, o, rfl, rfl, hc, fun j => by by_cases hj : j = l <;> simp [hj]⟩
  obtain ⟨x1, o1, e1, c1, y1, t1⟩ := kept
  have tl := t1 l
  rw [if_pos rfl] at tl
  unfold completeLane late
  simp only [hi, Bool.false_and, Bool.false_eq_true, if_false]
  by_cases hp : i.portB
  · simp only [hp, if_true]
    refine ⟨x1, o1.setCur _, e1, fun j => ?_, by rw [c1]⟩
    rw [t1 j]
  · simp only [hp, Bool.false_eq_true, if_false]
    have o2 := o1.updThr l fun t =>
      if t.st == .running then
        { t with pend := t.pend ++ [{ regs := Instr.dests i, left := h.la.toNat, due := (keepCycle i s' c.w l).cycle + n }] }
      else t
    refine ⟨_, o2.setCur _, e1, fun j => ?_, by simp [c1]⟩
    have st1 : (x1.thr l).st = .running := by rw [tl]; split <;> exact hst
    rw [Warp.thr_set _ _ _ _ hl, y1]
    by_cases hj : j = l
    · simp only [hj, if_true]; rw [if_pos (by simp [st1]), tl]
    · simp only [hj, if_false]; rw [t1 j, if_neg hj]

/-- The warp but for its threads and k registers. -/
def Warp.shell (x : Warp) : Warp := { x with th := Vector.replicate 32 {}, k := Vector.replicate 64 0 }

/-- A body that, in the thread `l`, changes that thread by `eff`, and the k registers by `kf` while no thread has yet written them, which
holds only in the first of the threads, `hd`. -/
def ActsOn (c : Cursor) (body : State → Nat → LRes) (s1 : State) (x1 : Warp) (hd l : Nat) (eff : Thread → Thread)
    (kf : Vector W32 64 → Vector W32 64) : Prop :=
  ∀ s' y b, Only s1 c.w y s' → s'.cur.map (·.kfree) = some b → (b = true → l = hd) → y.thr l = x1.thr l → y.shell = x1.shell →
    (∀ j, (y.thr j).st = (x1.thr j).st) → (y.k = if b then x1.k else kf x1.k) →
    ∃ s'', body s' l = .ok s'' ∧ s''.cur = s'.cur ∧ ∃ z, Only s1 c.w z s'' ∧ z.shell = x1.shell ∧
      (∀ j, z.thr j = if j = l then eff (x1.thr l) else y.thr j) ∧ z.k = kf x1.k

/-- The executing threads one after another, when each one's body acts on its own thread. -/
theorem runLanes_acts {s1 : State} {i : Instr} {h : Hdr} {c : Cursor} {x1 : Warp} {hd : Nat} {body : State → Nat → LRes}
    {eff : Nat → Thread → Thread} {kf : Vector W32 64 → Vector W32 64} (hi : i.endsRegion = false) (n : Nat)
    (run : ∀ l t, (eff l t).st = t.st) (ts : List TrapOf) (ls : List Nat) (nd : ls.Nodup)
    (lt : ∀ l ∈ ls, l < 32 ∧ (x1.thr l).st = .running) (acts : ∀ l ∈ ls, ActsOn c body s1 x1 hd l (eff l) kf)
    {s' : State} {y : Warp} {b : Bool} (o : Only s1 c.w y s') (hb : s'.cur.map (·.kfree) = some b)
    (hh : b = true → ls.head?.all (· == hd) = true)
    (hy : ∀ l ∈ ls, y.thr l = x1.thr l) (he : y.shell = x1.shell)
    (hst : ∀ j, (y.thr j).st = (x1.thr j).st) (hk : y.k = if b then x1.k else kf x1.k) :
    ∃ s'' z, runLanes i h c n body ls s' ts = (s'', ts) ∧ Only s1 c.w z s'' ∧ z.shell = x1.shell ∧
      (z.k = if ls = [] then y.k else kf x1.k) ∧
      ∀ j, z.thr j = if j ∈ ls then late i h s1.cycle n (eff j (x1.thr j)) else y.thr j := by
  induction ls generalizing s' y b with
  | nil => exact ⟨s', y, rfl, o, he, by simp, by simp⟩
  | cons a ls ih =>
    obtain ⟨na, nd⟩ := List.nodup_cons.mp nd
    obtain ⟨s2, hbody, hc, z, oz, ez, tz, kz⟩ := acts a List.mem_cons_self s' y b o hb (fun e => by simpa using hh e) (hy a List.mem_cons_self) he hst hk
    have ha := lt a List.mem_cons_self
    have za : z.thr a = eff a (x1.thr a) := by rw [tz a, if_pos rfl]
    have zst : (z.thr a).st = .running := by rw [za, run]; exact ha.2
    obtain ⟨z', oz', ez', tz', cz'⟩ := completeLane_only oz hi ha.1 zst (h := h) n
    have kz' : z'.k = kf x1.k := by
      rw [← kz]; have := congrArg Warp.k ez'; exact this
    have sz' : z'.shell = x1.shell := by
      rw [← ez]; have := congrArg Warp.shell ez'; exact this
    have tz'' : ∀ j, z'.thr j = if j = a then late i h s1.cycle n (eff a (x1.thr a)) else y.thr j := by
      intro j
      rw [tz' j]
      by_cases hj : j = a
      · simp only [hj, if_true, za]
      · simp only [hj, if_false]; rw [tz j, if_neg hj]
    obtain ⟨s3, w, e3, o3, sh3, k3, t3⟩ := ih (b := false) nd (fun l hl => lt l (List.mem_cons_of_mem _ hl))
      (fun l hl => acts l (List.mem_cons_of_mem _ hl)) oz'
      (by rw [cz', hc]; cases hs : s'.cur <;> simp_all)
      (by simp)
      (fun l hl => by
        have : l ≠ a := fun e => na (e ▸ hl)
        rw [tz'' l, if_neg this]; exact hy l (List.mem_cons_of_mem _ hl))
      sz'
      (fun j => by
        rw [tz'' j]
        by_cases hj : j = a
        · subst hj; simp only [if_true]; rw [late_st, run]
        · rw [if_neg hj]; exact hst j)
      (by simp [kz'])
    refine ⟨s3, w, ?_, o3, sh3, ?_, fun j => ?_⟩
    · simp only [runLanes, hbody]; exact e3
    · rw [k3]; split <;> simp [kz']
    · rw [t3 j, tz'' j]
      by_cases hj : j = a
      · subst hj; simp [na]
      · simp [hj]

/-- An instruction that ends no region and whose body acts on its own thread: its completion and everything it leaves. -/
theorem perLane_executes {s : State} {i : Instr} {h : Hdr} {c : Cursor} {x : Warp} (hr : Ready s i c x)
    (hi : i.endsRegion = false) (hs : scrAddr i = none) {body : Cursor → State → Nat → LRes} {eff : Nat → Thread → Thread}
    {kf : Vector W32 64 → Vector W32 64} (run : ∀ l t, (eff l t).st = t.st) (quiet : ∀ l t, (eff l t).sstep = t.sstep)
    (acts : ∀ x1 l, Only { s with freeCtr := s.freeCtr + 1 } c.w x1 (issuedState s c h) → { x1 with th := x.th } = x →
      x1.thr l = (x.thr l).issue c h.yh → l ∈ activeLanes s c h → l < 32 →
      ActsOn c (body (actAs s c (activeLanes s c h))) (issuedState s c h) x1 ((activeLanes s c h).headD 0) l (eff l) kf) :
    ∃ t, perLane i h s body = .next t ∧
      Executes s h c x (if activeLanes s c h = [] then x.k else kf x.k) (fun l th => executed s h i (eff l th)) t := by
  obtain ⟨x1, o1, e1, t1⟩ := issuedState_only h hr
  have lanes : ∀ l ∈ activeLanes s c h, l < 32 ∧ x1.thr l = (x.thr l).issue c h.yh := fun l hl => by
    have hm := activeLanes_sub hl
    exact ⟨(mem_lanesOf.mp hm).1, by rw [t1 l, if_pos hm]⟩
  have x1st : ∀ l ∈ activeLanes s c h, (x1.thr l).st = .running := fun l hl => by
    rw [(lanes l hl).2, Thread.issue_st]; exact hr.running l (activeLanes_sub hl)
  have k1 : x1.k = x.k := by rw [← e1]
  obtain ⟨s2, z, e2, o2, sh, kz, tz⟩ := runLanes_acts (h := h) hi (latency s i h) run []
    (activeLanes s c h) (activeLanes_nodup s c h) (fun l hl => ⟨(lanes l hl).1, x1st l hl⟩)
    (fun l hl => acts x1 l o1 e1 (lanes l hl).2 hl (lanes l hl).1) (Only.self o1.warp) (b := true) rfl
    (fun _ => by cases activeLanes s c h <;> simp)
    (fun _ _ => rfl) rfl (fun _ => rfl) (by simp)
  have cyc : (issuedState s c h).cycle = s.cycle := by rw [o1.rest]
  have rest : s2 = { s with warps := s2.warps, cur := s2.cur, freeCtr := s.freeCtr + 1 } := by
    have r2 := o2.rest
    have r1 := o1.rest
    generalize s2.warps = ws at *
    generalize s2.cur = cu at *
    rw [r2, r1]
  have tz' : ∀ l, z.thr l = if l ∈ lanesOf c.lanes then
      (if l ∈ activeLanes s c h then executed s h i (eff l ((x.thr l).issue c h.yh)) else (x.thr l).issue c h.yh) else x.thr l := by
    intro l
    rw [tz l, cyc]
    by_cases ha : l ∈ activeLanes s c h
    · rw [if_pos ha, if_pos (activeLanes_sub ha), if_pos ha, (lanes l ha).2]; rfl
    · rw [if_neg ha, t1 l]; simp [ha]
  have calm : ∀ l ∈ lanesOf c.lanes, (thrAt s2 c.w l).sstep = false := by
    intro l hl
    rw [o2.thrAt, tz' l, if_pos hl]
    split
    · rw [executed, late_sstep, quiet, Thread.issue_sstep]; exact hr.stepless l hl
    · rw [Thread.issue_sstep]; exact hr.stepless l hl
  refine ⟨s2, ?_, z, o2.warp, rest, fun k hk => (o2.other k hk).trans (o1.other k hk), ?_, fun l hl => ?_⟩
  · rw [perLane_of hr (bankCycles_none hs ..)]
    simp only [e2]
    rw [endTraps_none (by rw [rest]; exact hr.settled) calm]
    exact done_next (by rw [rest]; exact hr.goes)
  · have kk : z.k = if activeLanes s c h = [] then x.k else kf x.k := by rw [kz, k1]
    have ex : z.shell = x.shell := by
      rw [sh, ← e1]; rfl
    obtain ⟨⟩ := z
    obtain ⟨⟩ := x
    simp only [Warp.shell, Warp.mk.injEq] at ex
    dsimp only at kk
    simp only [kk, ex]
  · rw [tz' l]
    by_cases hm : hasLane c.lanes l
    · have : l ∈ lanesOf c.lanes := mem_lanesOf.mpr ⟨hl, hm⟩
      simp [this, hm]
    · have : l ∉ lanesOf c.lanes := fun q => hm (mem_lanesOf.mp q).2
      simp [this, hm]

theorem wrote_st (d : Opd) (wide : Bool) (v : Nat) (t : Thread) : (wrote d wide v t).st = t.st := by
  unfold wrote; split <;> first | rfl | (split <;> rfl)
theorem wrote_sstep (d : Opd) (wide : Bool) (v : Nat) (t : Thread) : (wrote d wide v t).sstep = t.sstep := by
  unfold wrote; split <;> first | rfl | (split <;> rfl)
theorem wroteP_st (d : Opd) (j : Nat) (v : Bool) (t : Thread) : (wroteP d j v t).st = t.st := by
  unfold wroteP Thread.setPred; split <;> first | rfl | (split <;> rfl)
theorem wroteP_sstep (d : Opd) (j : Nat) (v : Bool) (t : Thread) : (wroteP d j v t).sstep = t.sstep := by
  unfold wroteP Thread.setPred; split <;> first | rfl | (split <;> rfl)

/-- Writing a register destination (02_execution_model.md R37), where nothing is damaged. -/
theorem dst_only {s s' : State} {c : Cursor} {y : Warp} {l : Nat} {b : Bool} (o : Only s c.w y s') (hd : s.ms.damage = [])
    (hb : s'.cur.map (·.kfree) = some b) (hl : l < 32) (d : Opd) (wide : Bool) (v : Nat) :
    (dst s' c l d wide v).cur = s'.cur ∧ ∃ z, Only s c.w z (dst s' c l d wide v) ∧ z.shell = y.shell ∧
      (∀ j, z.thr j = if j = l then wrote d wide v (y.thr l) else y.thr j) ∧
      z.k = if b then wroteK d wide [v] y.k else y.k := by
  have dmg : s'.ms.damage = [] := by rw [o.rest]; exact hd
  cases d with
  | g n =>
    have o1 := o.updThr l fun h => h.setReg (n.val + 0) (w32 v)
    cases wide with
    | false =>
      have e : dst s' c l (.g n) false v = updThr s' c.w l fun h => h.setReg (n.val + 0) (w32 v) := by simp [dst, dstAt, dmg]
      rw [e]
      exact ⟨by simp, _, o1, rfl, fun j => by rw [Warp.thr_set _ _ _ _ hl]; simp [wrote], by simp [wroteK]⟩
    | true =>
      have o2 := o1.updThr l fun h => h.setReg (n.val + 1) (w32 (v / 2 ^ 32))
      have e : dst s' c l (.g n) true v =
          updThr (updThr s' c.w l fun h => h.setReg (n.val + 0) (w32 v)) c.w l fun h => h.setReg (n.val + 1) (w32 (v / 2 ^ 32)) := by
        simp [dst, dstAt, dmg]
      rw [e]
      refine ⟨by simp, _, o2, rfl, fun j => ?_, by simp [wroteK]⟩
      by_cases hj : j = l <;> simp [Warp.thr, getD_setIfInBounds, hl, hj, wrote]
  | k n =>
    have kf : (s'.cur.map (·.kfree)).getD true = b := by rw [hb]; rfl
    cases b with
    | false =>
      have e : dst s' c l (.k n) wide v = s' := by cases wide <;> simp [dst, dstAt, kf]
      rw [e]
      exact ⟨rfl, y, o, rfl, fun j => by by_cases hj : j = l <;> simp [hj, wrote], by simp⟩
    | true =>
      have o1 := o.updWarp fun x => { x with k := x.k.setIfInBounds (n.val + 0) (w32 v) }
      cases wide with
      | false =>
        have e : dst s' c l (.k n) false v = Machine.updWarp s' c.w fun x => { x with k := x.k.setIfInBounds (n.val + 0) (w32 v) } := by
          simp [dst, dstAt, kf, dmg]
        rw [e]
        exact ⟨by simp, _, o1, rfl, fun j => by by_cases hj : j = l <;> simp [hj, wrote, Warp.thr], by simp [wroteK]⟩
      | true =>
        have o2 := o1.updWarp fun x => { x with k := x.k.setIfInBounds (n.val + 1) (w32 (v / 2 ^ 32)) }
        have e : dst s' c l (.k n) true v =
            Machine.updWarp (Machine.updWarp s' c.w fun x => { x with k := x.k.setIfInBounds (n.val + 0) (w32 v) }) c.w
              fun x => { x with k := x.k.setIfInBounds (n.val + 1) (w32 (v / 2 ^ 32)) } := by
          simp [dst, dstAt, kf, dmg]
        rw [e]
        exact ⟨by simp, _, o2, rfl, fun j => by by_cases hj : j = l <;> simp [hj, wrote, Warp.thr], by simp [wroteK]⟩
  | _ =>
    refine ⟨by simp [dst, dstAt], y, by simpa [dst, dstAt] using o, rfl, fun j => ?_, by simp [wroteK]⟩
    by_cases hj : j = l <;> simp [hj, wrote]

/-- A value read by the executing threads: in a thread that has not executed it is the same as in the issued state. -/
def Reads (s : State) (c : Cursor) (h : Hdr) (i : Instr) (val : Cursor → State → Nat → Nat) : Prop :=
  ∀ x1 s' y l, l < 32 → warpAt (issuedState s c h) c.w = some x1 → Only (issuedState s c h) c.w y s' → SameFor x1 y l →
    val (actAs s c (activeLanes s c h)) s' l =
      val (actAs s c (activeLanes s c h)) (issuedState s c h) l

theorem reads_src (s : State) (c : Cursor) (h : Hdr) (i : Instr) (a : Opd) (wide : Bool) :
    Reads s c h i fun c s l => src s c l a wide := fun _ _ _ _ _ hx o e =>
  src_same (c := (actAs s c (activeLanes s c h))) o hx e a wide

theorem SameFor.mk' {x y : Warp} {l : Nat} (ht : y.thr l = x.thr l) (hk : y.k = x.k) (hs : y.shell = x.shell)
    (st : ∀ j, (y.thr j).st = (x.thr j).st) : SameFor x y l := by
  refine ⟨ht, hk, ?_, st⟩
  obtain ⟨⟩ := x
  obtain ⟨⟩ := y
  simp only [Warp.shell, Warp.mk.injEq] at hs
  simp [hs]

/-- The destination is a k register. -/
def Opd.isKReg : Opd → Bool
  | .k _ => true
  | _ => false

theorem wroteK_of_not {d : Opd} (hd : Opd.isKReg d = false) (wide : Bool) (vs : List Nat) (k : Vector W32 64) :
    wroteK d wide vs k = k := by cases d <;> simp_all [wroteK, Opd.isKReg]

/-- An instruction with a register result (R309, R334): it completes, the destination of each executing thread takes the value, a k
destination that of the lowest, and nothing else changes. -/
theorem result_writes {s : State} {i : Instr} {h : Hdr} {c : Cursor} {x : Warp} (hr : Ready s i c x) (hi : i.endsRegion = false)
    (hs : scrAddr i = none)
    {val : Cursor → State → Nat → Nat} (hv : Reads s c h i val) (d : Opd) (wide : Bool) :
    ∃ t, result i h s true d wide val = .next t ∧
      Executes s h c x
        (wroteK d wide ((activeLanes s c h).map fun l =>
          val (actAs s c (activeLanes s c h)) (issuedState s c h) l) x.k)
        (fun l th => executed s h i (wrote d wide
          (val (actAs s c (activeLanes s c h)) (issuedState s c h) l) th)) t := by
  let c' : Cursor := (actAs s c (activeLanes s c h))
  let v := fun l => val c' (issuedState s c h) l
  have := perLane_executes (h := h) hr hi hs (body := fun c s l => .ok (dst s c l d wide (val c s l)))
    (eff := fun l => wrote d wide (v l)) (kf := wroteK d wide ((activeLanes s c h).map v))
    (fun l t => wrote_st ..) (fun l t => wrote_sstep ..) ?_
  · obtain ⟨t, e, ex⟩ := this
    refine ⟨t, by simpa [result] using e, ?_⟩
    have hk : (if activeLanes s c h = [] then x.k else wroteK d wide ((activeLanes s c h).map v) x.k) =
        wroteK d wide ((activeLanes s c h).map v) x.k := by
      split
      · next he => rw [he]; cases d <;> rfl
      · rfl
    rw [hk] at ex; exact ex
  · intro x1 l o1 e1 hx1 hl hl32 s' y b o hb hh hy hs hst hk
    have dmg : (issuedState s c h).ms.damage = [] := by rw [o1.rest]; exact hr.sound
    obtain ⟨hc, z, oz, sz, tz, kz⟩ := dst_only (c := c') o dmg hb hl32 d wide (val c' s' l)
    have use : (b = true ∨ Opd.isKReg d = false) → val c' s' l = v l := by
      intro hcase
      have hyk : y.k = x1.k := by
        rw [hk]
        rcases hcase with hb' | hd'
        · simp [hb']
        · split
          · rfl
          · exact wroteK_of_not hd' ..
      exact hv x1 s' y l hl32 o1.warp o (SameFor.mk' hy hyk hs hst)
    refine ⟨_, rfl, hc, z, oz, sz.trans hs, fun j => ?_, ?_⟩
    · rw [tz j, hy]
      split
      · cases hd : Opd.isKReg d
        · rw [use (Or.inr hd)]
        · cases d <;> simp_all [Opd.isKReg, wrote]
      · rfl
    · rw [kz, hk]
      cases b
      · simp
      · simp only [if_true]
        have hh' := hh rfl
        rw [use (Or.inl rfl)]
        have hm : ∃ rest, activeLanes s c h = l :: rest := by
          cases ha : activeLanes s c h with
          | nil => rw [ha] at hl; cases hl
          | cons a as => rw [ha] at hh'; exact ⟨as, by simp [hh']⟩
        obtain ⟨rest, hm⟩ := hm
        rw [hm]
        cases d <;> rfl

/-- From a meaning that is a `result` to what the instruction writes. -/
theorem writesReg_of {s : State} {i : Instr} {h : Hdr} {c : Cursor} {x : Warp} (hr : Ready s i c x) (hi : i.endsRegion = false)
    (hs : scrAddr i = none)
    {val : Cursor → State → Nat → Nat} (hv : Reads s c h i val) {d : Opd} {wide ok : Bool} (hok : ok = true)
    (he : exec i s = result i h s ok d wide val) {v : Nat → Nat}
    (e : ∀ l, val (actAs s c (activeLanes s c h)) (issuedState s c h) l = v l) :
    WritesReg s i h c x d wide v := by
  subst hok
  obtain ⟨t, et, ex⟩ := result_writes (h := h) hr hi hs hv d wide
  have hv : v = fun l => val (actAs s c (activeLanes s c h)) (issuedState s c h) l := by
    funext l; exact (e l).symm
  subst hv
  exact ⟨t, he.trans et, ex⟩

theorem reads_fun1 {s : State} {c : Cursor} {h : Hdr} {i : Instr} (f : Nat → Nat) (a : Opd) (wa : Bool) :
    Reads s c h i fun c s l => f (src s c l a wa) := fun x1 s' y l hl hx o e =>
  congrArg f (reads_src s c h i a wa x1 s' y l hl hx o e)

theorem reads_fun2 {s : State} {c : Cursor} {h : Hdr} {i : Instr} (f : Nat → Nat → Nat) (a b : Opd) (wa wb : Bool) :
    Reads s c h i fun c s l => f (src s c l a wa) (src s c l b wb) := fun x1 s' y l hl hx o e =>
  congr (congrArg f (reads_src s c h i a wa x1 s' y l hl hx o e)) (reads_src s c h i b wb x1 s' y l hl hx o e)

theorem reads_fun3 {s : State} {c : Cursor} {h : Hdr} {i : Instr} (f : Nat → Nat → Nat → Nat) (a b d : Opd) (wa wb wd : Bool) :
    Reads s c h i fun c s l => f (src s c l a wa) (src s c l b wb) (src s c l d wd) := fun x1 s' y l hl hx o e =>
  congr (congr (congrArg f (reads_src s c h i a wa x1 s' y l hl hx o e)) (reads_src s c h i b wb x1 s' y l hl hx o e))
    (reads_src s c h i d wd x1 s' y l hl hx o e)

@[simp] theorem keepCycle_stop (i : Instr) (s : State) (w : WKey) (l : Nat) : (keepCycle i s w l).stop = s.stop := by
  unfold keepCycle; split <;> simp

@[simp] theorem keepCycle_branched (i : Instr) (s : State) (w : WKey) (l : Nat) : (keepCycle i s w l).branched = s.branched := by
  unfold keepCycle; split <;> simp

/-- An instruction with one executing thread is its body, run on the issued state, and the completion of that thread. -/
theorem perLane_solo {s : State} {i : Instr} {h : Hdr} {c : Cursor} {x : Warp} {l : Nat} (hs : Solo s i h c x l)
    {body : Cursor → State → Nat → LRes} {s2 : State} (hb : body (acting s c h) (issuedState s c h) l = .ok s2)
    (stop : s2.stop = none) (br : s2.branched = [])
    (calm : ∀ j ∈ lanesOf c.lanes, (thrAt (completeLane i h c (latency s i h) l s2) c.w j).sstep = false) :
    perLane i h s body = .next (completeLane i h c (latency s i h) l s2) := by
  have fields : ∀ n, (completeLane i h c n l s2).stop = s2.stop ∧ (completeLane i h c n l s2).branched = s2.branched := by
    intro n
    unfold completeLane
    constructor
    all_goals (dsimp only; repeat' split) <;> simp
  rw [perLane_of hs.toReady (by rw [hs.alone]; exact bankCycles_one ..)]
  simp only [hs.alone] at hb ⊢
  have e : runLanes i h c (latency s i h) (body (actAs s c [l])) [l]
      (issuedState s c h) [] = (completeLane i h c (latency s i h) l s2, []) := by
    simp only [acting, hs.alone] at hb
    simp [runLanes, hb]
  simp only [e]
  rw [endTraps_none ((fields _).2.trans br) calm]
  exact done_next ((fields _).1.trans stop)

end Sys2Proof.Machine
end

