-- ==== Sys2Proof/Laws/Access.lean ====
section
/-! SUPPORT. Accesses change memory, the memory system and what waits on them, and no register: one lemma for each shared operation
(04_memory_hierarchy.md R93, R103; 05_consistency.md R117 to R123; 17_reference_d_l.md R352, 18_reference_m_s.md R384). -/
namespace Sys2Proof.Machine

/-- Between two states only memory, the memory system, tenure and requests differ. -/
def MemSys.Only (s t : State) : Prop :=
  t = { s with
    mem := t.mem, ms := t.ms, ten := t.ten, ssets := t.ssets, spillFull := t.spillFull, hostReqs := t.hostReqs, hostLog := t.hostLog
    hostOut := t.hostOut, link := t.link, nextId := t.nextId, freeCtr := t.freeCtr }

theorem MemSys.Only.rfl' (s : State) : MemSys.Only s s := rfl

theorem MemSys.Only.trans {s t u : State} (h : MemSys.Only s t) (k : MemSys.Only t u) : MemSys.Only s u := by
  unfold MemSys.Only at *
  rw [k, h]

theorem MemSys.Only.foldl {α : Type} {f : State → α → State} (hf : ∀ s a, MemSys.Only s (f s a)) (as : List α) (s : State) :
    MemSys.Only s (as.foldl f s) := by
  induction as generalizing s with
  | nil => exact rfl
  | cons a as ih => exact (hf s a).trans (ih _)

theorem MemSys.Only.memOnly {s t : State} (h : MemSys.Only s t) : MemOnly s t := by
  unfold MemSys.Only at h
  refine ⟨?_, ?_, ?_, ?_⟩
  · rw [h]
  all_goals (intro k; rw [h])

theorem MemOnly.rfl' (s : State) : MemOnly s s := ⟨rfl, fun _ => rfl, fun _ => rfl, fun _ => rfl⟩

theorem MemOnly.trans {s t u : State} (h : MemOnly s t) (k : MemOnly t u) : MemOnly s u :=
  ⟨by rw [k.1, h.1], fun g => (k.2.1 g).trans (h.2.1 g), fun g => (k.2.2.1 g).trans (h.2.2.1 g), fun g => (k.2.2.2 g).trans (h.2.2.2 g)⟩

theorem MemOnly.foldl {α : Type} {f : State → α → State} (hf : ∀ s a, MemOnly s (f s a)) (as : List α) (s : State) :
    MemOnly s (as.foldl f s) := by
  induction as generalizing s with
  | nil => exact MemOnly.rfl' s
  | cons a as ih => exact (hf s a).trans (ih _)

/-- What an access keeps of a thread. -/
theorem MemOnly.thr {s t : State} (h : MemOnly s t) (w : WKey) (l : Nat) : (thrAt t w l).seen = (thrAt s w l).seen := by
  have e := h.2.2.2 (wIdx w)
  unfold thrAt warpAt
  cases hs : s.warps.get? (wIdx w) with
  | none =>
    cases ht : t.warps.get? (wIdx w) with
    | none => rfl
    | some y => rw [hs, ht] at e; simp at e
  | some x =>
    cases ht : t.warps.get? (wIdx w) with
    | none => rw [hs, ht] at e; simp at e
    | some y =>
      rw [hs, ht] at e
      have e' := congrArg (fun x : Option Warp => ((x.map (·.th)).getD (Vector.replicate 32 {})).getD l (Thread.seen {})) e
      have map : ∀ v : Vector Thread 32, (v.map Thread.seen).getD l (Thread.seen {}) = (v.getD l {}).seen := by
        intro v
        simp only [Vector.getD, Vector.toArray_map, Array.getD_eq_getD_getElem?, Array.getElem?_map]
        cases v.toArray[l]? <;> rfl
      show (y.th.getD l {}).seen = (x.th.getD l {}).seen
      rw [← map, ← map]
      exact e'

theorem MemOnly.stop {s t : State} (h : MemOnly s t) : t.stop = s.stop := by rw [h.1]
theorem MemOnly.branched {s t : State} (h : MemOnly s t) : t.branched = s.branched := by rw [h.1]
theorem MemOnly.cycle {s t : State} (h : MemOnly s t) : t.cycle = s.cycle := by rw [h.1]
theorem MemOnly.cur {s t : State} (h : MemOnly s t) : t.cur = s.cur := by rw [h.1]
theorem MemOnly.sstep {s t : State} (h : MemOnly s t) (w : WKey) (l : Nat) : (thrAt t w l).sstep = (thrAt s w l).sstep := by
  have := congrArg Thread.sstep (h.thr w l); exact this
theorem MemOnly.st {s t : State} (h : MemOnly s t) (w : WKey) (l : Nat) : (thrAt t w l).st = (thrAt s w l).st := by
  have := congrArg Thread.st (h.thr w l); exact this
theorem MemOnly.reg {s t : State} (h : MemOnly s t) (w : WKey) (l n : Nat) : (thrAt t w l).reg n = (thrAt s w l).reg n := by
  have := congrArg Thread.g (h.thr w l); unfold Thread.reg; rw [show (thrAt t w l).g = (thrAt s w l).g from this]

/-! ### The home -/

theorem dropCopies_only (s : State) (line : Nat) : MemSys.Only s (dropCopies s line) :=
  MemSys.Only.foldl (f := fun s d => dropCopy s d line) (fun _ _ => rfl) _ s
theorem hostForget_only (s : State) (line : Nat) : MemSys.Only s (hostForget s line) := (dropCopies_only s line).trans rfl
theorem hostSend_only (s : State) (k : HostKind) (a : Nat) (cs : List Host.Cell) : MemSys.Only s (hostSend s k a cs) := by
  unfold hostSend free; dsimp only; split <;> rfl
theorem hostAsks_only (s : State) (ks : List Nat) : MemSys.Only s (hostAsks s ks) := MemSys.Only.foldl (fun s a => hostSend_only s _ a _) _ s
theorem hostPut_only (s : State) (k : HostKind) (line : Nat) (cs : List Host.Cell) : MemSys.Only s (hostPut s k line cs) :=
  MemSys.Only.foldl (fun s a => by
    dsimp only
    split
    · rfl
    · exact hostSend_only ..) _ s
theorem hostFill_only (s : State) (line cxl : Nat) : MemSys.Only s (hostFill s line cxl) := by
  have ask : ∀ (s : State) (k : HostKind), MemSys.Only s ((hostHalves line).foldl (fun s a => hostSend s k a []) s) :=
    fun s k => MemSys.Only.foldl (fun s a => hostSend_only s k a []) _ s
  unfold hostFill
  extract_lets ask' s0
  split
  · next h _ =>
    extract_lets s1 h' s2
    have h1 : MemSys.Only s s1 := by
      simp only [s1]
      split
      · split
        · exact hostSend_only ..
        · rfl
      · rfl
    split
    · have h2 : MemSys.Only s1 s2 := by
        simp only [s2]
        split
        · exact ask _ _
        · rfl
      exact (h1.trans h2).trans rfl
    · exact h1.trans rfl
  · exact (ask _ _).trans rfl
theorem hostWriteBack_only (s : State) (line : Nat) : MemSys.Only s (hostWriteBack s line) := by
  unfold hostWriteBack; split
  · rfl
  · dsimp only; split
    · rfl
    · split
      · exact (hostPut_only ..).trans rfl
      · exact ((hostPut_only ..).trans (MemSys.Only.foldl (fun s a => hostSend_only s _ a []) _ _)).trans (hostForget_only ..)
theorem hostDrop_only (s : State) (line : Nat) : MemSys.Only s (hostDrop s line) := by
  unfold hostDrop
  extract_lets s1 s2
  have h2 : MemSys.Only s1 s2 := by
    simp only [s2]
    split
    · exact MemSys.Only.foldl (fun s a => hostSend_only s _ a []) _ _
    · rfl
  exact ((hostWriteBack_only s line).trans h2).trans (hostForget_only ..)
theorem l2Drop_only (s : State) (key : Nat) : MemSys.Only s (l2Drop s key) := by
  unfold l2Drop; split
  · exact (hostDrop_only ..).trans rfl
  · rfl
theorem l2Way_only (s : State) (key slice n : Nat) : MemSys.Only s (l2Way s key slice n).1 := by
  induction n generalizing s with
  | zero => rfl
  | succ n ih =>
    unfold l2Way
    dsimp only
    split
    · rfl
    · split
      · rfl
      · refine MemSys.Only.trans (t := ite _ _ _) ?_ (ih _)
        split
        · rfl
        · exact l2Drop_only ..
theorem l2Alloc_only (s : State) (key slice : Nat) (x : L2Line) : MemSys.Only s (l2Alloc s key slice x) := by
  have h := l2Way_only s key slice 18
  unfold l2Alloc
  split
  · next e => rw [e] at h; exact h.trans rfl
  · next e => rw [e] at h; exact h
theorem countSlice_only (s : State) (die slice : Nat) (f : SliceCounts → SliceCounts) : MemSys.Only s (countSlice s die slice f) := by
  unfold countSlice; split <;> rfl
theorem l2Access_only (s : State) (key slice : Nat) (hint : BitVec 2) : MemSys.Only s (l2Access s key slice hint) := by
  unfold l2Access
  extract_lets hit s1
  have h1 : MemSys.Only s s1 := countSlice_only ..
  split
  · exact h1.trans rfl
  · split
    · exact h1
    · exact h1.trans (l2Alloc_only ..)
theorem unretain_only (s : State) (line : Nat) : MemSys.Only s (unretain s line) := by
  unfold unretain; split
  · split <;> rfl
  · rfl
theorem homeLine_only (at_ : Nat) (vc : List Nat) (cs : List Host.Cell) (s : State) (line : Nat) : MemSys.Only s (homeLine at_ vc cs s line) := by
  unfold homeLine
  extract_lets mine tag m1 s1 m2 s2 s3 m4 s4 fw
  have h1 : MemSys.Only s s1 := rfl
  have h2 : MemSys.Only s1 s2 := by
    simp only [s2]
    split
    · rfl
    · exact MemSys.Only.trans (t := { s1 with ms.damage := healHome s1.ms.damage (mine.map Prod.fst) }) rfl (unretain_only ..)
  have h3 : MemSys.Only s2 s3 := by
    simp only [s3]
    split
    · exact hostFill_only ..
    · rfl
  have h4 : MemSys.Only s3 s4 := by
    simp only [s4]
    split
    · rfl
    · split
      · exact hostPut_only ..
      · rfl
  exact (((h1.trans h2).trans h3).trans h4).trans rfl
theorem homeWriteAt_only (s : State) (at_ : Nat) (vc : List Nat) (cs : List Host.Cell) : MemSys.Only s (homeWriteAt s at_ vc cs) :=
  MemSys.Only.foldl (homeLine_only at_ vc cs) _ s
theorem homeWrite_only (s : State) (vc : List Nat) (cs : List Host.Cell) : MemSys.Only s (homeWrite s vc cs) := homeWriteAt_only ..
theorem homeTouch_only (s : State) (p : Page) (k : Nat) (hint : BitVec 2) (wr : Bool) : MemSys.Only s (homeTouch s p k hint wr) := by
  unfold homeTouch
  split
  · split
    · exact hostDrop_only ..
    · rfl
  · extract_lets s1
    have h1 : MemSys.Only s s1 := l2Access_only ..
    split
    · exact h1
    · exact h1.trans (hostFill_only ..)
theorem viewTouch_only (s : State) (die : Nat) (p : Page) (k : Nat) (hint : BitVec 2) : MemSys.Only s (viewTouch s die p k hint) := by
  unfold viewTouch
  extract_lets ln s1
  have h1 : MemSys.Only s s1 := (homeTouch_only ..).trans (l2Access_only ..)
  split
  · exact homeTouch_only ..
  · split
    · exact l2Access_only ..
    · split
      · exact h1.trans rfl
      · exact h1

/-! ### Translation -/

theorem tlbPut_only (s : State) (core : Nat) (p : Page) : MemSys.Only s (tlbPut s core p) := rfl
theorem tcachePut_only (s : State) (die : Nat) (p : Page) : MemSys.Only s (tcachePut s die p) := rfl

/-- A walk that finds a page changes the L2's lines alone. -/
theorem walk_only {s t : State} {ctx va : Nat} {p : Page} (h : walk s ctx va = (t, .ok p)) : MemSys.Only s t := by
  have key : ∀ ls : List Nat, MemSys.Only s (ls.foldl (fun s ln => l2Access s ln (sliceOf (ln * 128) false 0) 1) s) :=
    fun ls => MemSys.Only.foldl (fun s ln => l2Access_only ..) ls s
  unfold walk at h
  dsimp only at h
  split at h
  · cases h
  · split at h
    · cases h; exact key _
    · cases h
    · cases h

theorem takeWalker_only (s : State) (core : Option Nat) (die ctx va size : Nat) : MemSys.Only s (takeWalker s core die ctx va size) := by
  unfold takeWalker; dsimp only; split <;> rfl

/-- A translation that succeeds changes the translations kept, and the L2's lines. -/
theorem translate_only {s t : State} {core : Option Nat} {die ctx va : Nat} {p : Page}
    (h : translate s core die ctx va = (t, .ok p)) : MemSys.Only s t := by
  unfold translate at h
  dsimp only at h
  split at h
  · obtain ⟨rfl, -⟩ := Prod.mk.inj h; rfl
  · split at h
    · split at h
      · cases h
      · obtain ⟨rfl, -⟩ := Prod.mk.inj h; cases core <;> rfl
    · split at h
      · cases h
      · next s' q e =>
        have hw : MemSys.Only s s' := walk_only e
        cases core <;> · cases h; exact (hw.trans (takeWalker_only ..)).trans rfl

/-! ### Tags, copies and watches -/

theorem setL1_only (s : State) (core : Nat) (x : Tab L1Tag) : MemSys.Only s (setL1 s core x) := rfl
theorem updTag_only (s : State) (core blk : Nat) (f : L1Tag → L1Tag) : MemSys.Only s (updTag s core blk f) := by
  unfold updTag; split <;> rfl
theorem recallFrom_only (s : State) (core k : Nat) : MemSys.Only s (recallFrom s core k) := rfl
theorem post_only (s : State) (w : WKey) (l : Nat) (cs : List Host.Cell) (v : Bool) (n : Option Nat) (wait : Bool) :
    MemSys.Only s (post s w l cs v n wait) := by
  unfold post; cases n <;> rfl
theorem applyForward_only (s : State) (d i : Nat) : MemSys.Only s (applyForward s d i) := by
  unfold applyForward; dsimp only; split <;> rfl
theorem catchUp_only (n : Nat) (s : State) (d : Nat) (vc : List Nat) : MemSys.Only s (catchUp s d vc n) := by
  induction n generalizing s with
  | zero => rfl
  | succ n ih =>
    unfold catchUp; dsimp only; split
    · exact (applyForward_only ..).trans (ih _)
    · rfl
theorem ownSees_only (s : State) (core : Nat) (ks : List Nat) : MemSys.Only s (ownSees s core ks) :=
  MemSys.Only.foldl (fun s _ => MemSys.Only.foldl (fun s _ => catchUp_only _ s _ _) _ s) _ s
theorem shadowPlace_only {s t : State} {x : Tenure} {line : Nat} (h : shadowPlace s x line = some t) : MemSys.Only s t := by
  unfold shadowPlace at h
  split at h
  · cases h; rfl
  · dsimp only at h
    split at h
    · cases h; exact l2Alloc_only ..
    · cases h
theorem shadowLine_only (id : Nat) (vc : List Nat) (cs : List Host.Cell) (s : State) (line : Nat) : MemSys.Only s (shadowLine id vc cs s line) := by
  unfold shadowLine
  dsimp only
  split
  · rfl
  · split
    · next t ht s' e =>
      split at e
      · cases e
      · exact (shadowPlace_only e).trans rfl
    · rfl
theorem homeOrShadow_only (s : State) (gid : Nat) (cmd : Option Nat) (at_ : Nat) (vc : List Nat) (cs : List Host.Cell) :
    MemSys.Only s (homeOrShadow s gid cmd at_ vc cs) :=
  (MemSys.Only.foldl (fun s _ => MemSys.Only.foldl (shadowLine_only _ vc _) _ s) _ s).trans (homeWriteAt_only ..)
theorem l1Found_only (s : State) (core : Nat) (ks : List Nat) : MemSys.Only s (l1Found s core ks) := by
  unfold l1Found; dsimp only; split <;> rfl
theorem countVault_only (s : State) (core k : Nat) : MemSys.Only s (countVault s core k) := by
  unfold countVault; dsimp only; split <;> rfl
theorem applyPosted_only (s : State) (sel : Posted → Bool) : MemSys.Only s (applyPosted s sel) :=
  MemSys.Only.foldl (fun s i => by
    dsimp only
    split
    · rfl
    · split
      · exact (homeWrite_only ..).trans rfl
      · rfl) _ s
theorem vaultOwn_only (s : State) (core : Nat) (ks : List Nat) : MemSys.Only s (vaultOwn s core ks) := by
  unfold vaultOwn; split
  · exact applyPosted_only ..
  · rfl

theorem watchHit_only (s : State) (core : Nat) (hit : Watch → Bool) : MemOnly s (watchHit s core hit) := by
  refine ⟨rfl, fun _ => rfl, fun _ => rfl, fun k => ?_⟩
  unfold watchHit
  dsimp only
  have one : ∀ f : Nat × Warp → Bool,
      (Tab.get? (s.warps.map fun e => if f e then (e.1, { e.2 with th := e.2.th.map fun t =>
          match t.watch with
          | some w => if w.event.isNone && hit w then { t with watch := some { w with event := some s.cycle } } else t
          | none => t }) else e) k).map (fun x : Warp => { x with th := x.th.map Thread.seen }) =
        (s.warps.get? k).map (fun x : Warp => { x with th := x.th.map Thread.seen }) := by
    intro f
    induction s.warps with
    | nil => rfl
    | cons e es ih =>
      obtain ⟨j, x⟩ := e
      simp only [List.map_cons]
      by_cases hf : f (j, x)
      · simp only [hf, if_true, Tab.get?]
        by_cases hj : j = k
        · simp only [hj, if_true, Option.map_some, Option.some.injEq, Vector.map_map]
          congr 1
          apply Vector.map_congr_left
          intro t _
          simp only [Function.comp]
          split
          · split <;> rfl
          · rfl
        · simp only [hj, if_false]; exact ih
      · simp only [hf, Tab.get?]
        by_cases hj : j = k
        · simp [hj]
        · simpa [hj] using ih
  exact one _

theorem dropSectors_only (s : State) (core : Nat) (gone : Nat → Bool) : MemOnly s (dropSectors s core gone) := by
  unfold dropSectors
  extract_lets seen fresh hit keep s'
  have h : MemOnly s s' := (setL1_only ..).memOnly
  split
  · exact h
  · exact h.trans (watchHit_only ..)
theorem dropClean_only (s : State) (core : Nat) (ks : List Nat) : MemOnly s (dropClean s core ks) := by
  unfold dropClean; exact dropSectors_only ..
theorem seeHome_only (s : State) (core : Nat) (ks : List Nat) : MemOnly s (seeHome s core ks) := by
  unfold seeHome; exact (ownSees_only ..).memOnly.trans (dropClean_only ..)

/-! ### The L1 -/

theorem standFor_only (s : State) (line : Nat) (olds : List (List Nat)) : MemSys.Only s (standFor s line olds) := by
  unfold standFor; split <;> rfl
theorem drainPart_only (core : Nat) (slice : Nat → Nat) (s : State) (g : List (Nat × Dirty)) : MemSys.Only s (drainPart core slice s g) := by
  unfold drainPart
  split
  · rfl
  · extract_lets s1 at_
    refine MemSys.Only.trans (t := s1) ?_ ((homeOrShadow_only ..).trans ((standFor_only ..).trans (ownSees_only ..)))
    simp only [s1]
    split
    · rfl
    · exact (countSlice_only ..).trans (l2Access_only ..)
theorem drainTag_only (s : State) (core blk : Nat) (sel : Nat → Dirty → Bool) : MemSys.Only s (drainTag s core blk sel) := by
  unfold drainTag
  split
  · rfl
  · extract_lets all s1 gone clean left s2
    have h1 : MemSys.Only s s1 := by
      simp only [s1]
      split
      · rfl
      · exact l1Found_only ..
    split
    · exact h1
    · exact h1.trans ((setL1_only ..).trans (MemSys.Only.foldl (drainPart_only core _) _ _))
theorem drainCore_only (s : State) (core : Nat) (sel : Nat → Dirty → Bool) : MemSys.Only s (drainCore s core sel) :=
  MemSys.Only.foldl (fun s (e : Nat × L1Tag) => drainTag_only s core e.1 sel) _ s
theorem drainKeys_only (s : State) (core : Nat) (ks : List Nat) : MemSys.Only s (drainKeys s core ks) := by
  unfold drainKeys; split
  · exact drainCore_only ..
  · rfl
theorem evictTag_only (s : State) (core blk : Nat) : MemOnly s (evictTag s core blk) :=
  ((drainTag_only ..).trans (setL1_only ..)).memOnly.trans (watchHit_only ..)
theorem l1Alloc_only (s : State) (core blk : Nat) (p : Page) : MemOnly s (l1Alloc s core blk p) := by
  unfold l1Alloc
  split
  · exact (setL1_only ..).memOnly
  · dsimp only
    refine MemOnly.trans (t := ite _ _ _) ?_ (setL1_only ..).memOnly
    split
    · exact MemOnly.rfl' s
    · have found : MemSys.Only s (if s.ms.damage.isEmpty then s else l1Found s core
          ((((l1Of s core).getD (l1Victim ((l1Of s core).filter fun e => e.1 % 32 == blk % 32)) {}).dirty).map fun d =>
            l1Victim ((l1Of s core).filter fun e => e.1 % 32 == blk % 32) * 512 + d.1)) := by
        split
        · rfl
        · exact l1Found_only ..
      split
      · exact found.memOnly
      · exact found.memOnly.trans (evictTag_only ..)
theorem l1Fill_only (s : State) (core gid : Nat) (p : Page) (k : Nat) (hint : BitVec 2) : MemOnly s (l1Fill s core gid p k hint) := by
  unfold l1Fill
  extract_lets u s1 s2 s3 old secs changed s4
  have h4 : MemOnly s s4 :=
    ((((recallFrom_only s core k).trans (MemSys.Only.foldl (fun s i => viewTouch_only ..) _ _)).memOnly.trans (l1Alloc_only ..)).trans
      (updTag_only ..).memOnly)
  split
  · exact h4.trans (watchHit_only ..)
  · exact h4
theorem ownAsks_only (s : State) (n : Nat) (w : WKey) (l : Nat) : MemSys.Only s (ownAsks s n w l) := by
  unfold ownAsks markAsks; split <;> rfl
theorem holdStore_only (s : State) (w : WKey) (l gid : Nat) (cs : List Host.Cell)
    (a : Option (Option RedOp × Fmt × Nat × Nat × Opd)) (ord : Order) (sc : Scope) (strict : Bool) :
    MemSys.Only s (holdStore s w l gid cs a ord sc strict) := by
  unfold holdStore; split
  · rfl
  · split <;> rfl

/-- A store in the L1. -/
theorem l1Store_only (s : State) (w : WKey) (p : Page) (hint : BitVec 2) (cs : List Host.Cell) : MemOnly s (l1Store s w p hint cs) := by
  unfold l1Store
  extract_lets s1 s2
  have h1 : MemOnly s s1 := MemOnly.foldl (fun s c => (recallFrom_only ..).memOnly.trans ((l1Alloc_only ..).trans (updTag_only ..).memOnly)) cs s
  have h2 : MemOnly s1 s2 := by
    simp only [s2]
    split
    · exact MemOnly.rfl' _
    · exact MemSys.Only.memOnly rfl
  exact (h1.trans h2).trans (watchHit_only ..)

/-- A group's scratch written. -/
theorem scrStore_only (s : State) (gid : Nat) (thr : Option Nat) (cs : List Host.Cell) : MemOnly s (scrStore s gid thr cs) := by
  have h : ∀ s : State, MemOnly s (updGroup s gid fun g => g.scrPut s.cycle (s.cycle + (s.cur.map (·.lat)).getD 0) thr cs) := by
    intro s
    unfold updGroup
    split
    · next g hg =>
      refine ⟨rfl, fun j => ?_, fun j => ?_, fun _ => rfl⟩
      · simp only [Tab.getD, Tab.get?_put]
        split
        · next e => subst e; simp [hg, Group.scrPut, Group.butScratch]
        · rfl
      · simp only [Tab.get?_put]
        split
        · next e => subst e; simp [hg]
        · rfl
    · exact MemOnly.rfl' s
  unfold scrStore
  dsimp only
  refine MemOnly.trans (t := ite _ _ _) ?_ (h _)
  split
  · exact MemOnly.rfl' s
  · exact MemSys.Only.memOnly rfl

/-- Storing bytes, in every space and by every path to memory. -/
theorem storeBytes_only (s : State) (w : WKey) (l : Nat) (a : Acc) (hint : BitVec 2) (home : Bool) (bs : List Byte) :
    MemOnly s (storeBytes s w l a hint home bs) := by
  have far : ∀ s : State, MemSys.Only s (countVault (vaultOwn s w.core a.keys) w.core (a.keys.headD 0)) :=
    fun s => (vaultOwn_only ..).trans (countVault_only ..)
  unfold storeBytes
  split
  · exact scrStore_only ..
  · extract_lets gid cs s1
    split
    · exact ((far s).trans (post_only ..)).memOnly
    · exact ((far s).trans ((homeWrite_only ..).trans (post_only ..))).memOnly
  · exact MemOnly.rfl' s
  · extract_lets gid cs fr own s1 ks s2 s3 s4 s5 s6 s7
    have h1 : MemOnly s s1 := by
      simp only [s1]
      split
      · exact MemOnly.rfl' s
      · exact ((drainKeys_only ..).trans (holdStore_only ..)).memOnly
    split
    · exact h1
    · split
      · have h2 : MemSys.Only s1 s2 := by
          simp only [s2]
          split
          · exact drainKeys_only ..
          · exact MemSys.Only.rfl' _
        have h3 : MemSys.Only s2 s3 := MemSys.Only.foldl (fun s c => (recallFrom_only ..).trans (homeTouch_only ..)) _ _
        have h6 : MemOnly s3 s6 :=
          ((homeOrShadow_only ..).trans (MemSys.Only.foldl (fun s c => updTag_only ..) _ _)).memOnly.trans (seeHome_only ..)
        have h7 : MemSys.Only s6 s7 := by
          simp only [s7]
          split
          · exact MemSys.Only.rfl' _
          · exact post_only ..
        exact h1.trans ((((h2.trans h3).memOnly.trans h6).trans h7.memOnly).trans (watchHit_only ..))
      · exact h1.trans (l1Store_only ..)

/-- A load prepares one byte. -/
theorem touchByte_only (s : State) (w : WKey) (gid : Nat) (p : Page) (hint : BitVec 2) (home : Bool) (k : Nat) :
    MemOnly s (touchByte s w gid p hint home k) := by
  unfold touchByte
  split
  · exact MemOnly.rfl' s
  · exact ((recallFrom_only ..).trans (homeTouch_only ..)).memOnly
  · exact (updTag_only ..).memOnly
  · split
    · exact ((recallFrom_only ..).trans (viewTouch_only ..)).memOnly
    · exact l1Fill_only ..

/-- Loading bytes, from every space and by every path. -/
theorem loadBytes_only (s : State) (w : WKey) (l : Nat) (a : Acc) (hint : BitVec 2) (home : Bool) :
    MemOnly s (loadBytes s w l a hint home).1 := by
  unfold loadBytes
  split
  · exact MemOnly.rfl' s
  · exact ((vaultOwn_only ..).trans (countVault_only ..)).memOnly
  · exact MemOnly.rfl' s
  · extract_lets gid asked ask far s1 s2 bs s3
    have h1 : MemOnly s s1 := MemOnly.foldl (fun s k => touchByte_only ..) _ s
    have h2 : MemSys.Only s1 s2 := by
      simp only [s2]
      split
      · rfl
      · exact hostAsks_only ..
    have h3 : MemOnly s2 s3 := by
      simp only [s3]
      split
      · exact MemOnly.rfl' _
      · exact seeHome_only ..
    exact (h1.trans h2.memOnly).trans (h3.trans (ownAsks_only ..).memOnly)

/-! ### Addresses -/

theorem virtAcc_only {s t : State} {w : WKey} {va size : Nat} {a : Acc} (h : virtAcc s w va size = (t, .ok a)) : MemSys.Only s t := by
  unfold virtAcc at h
  split at h
  · cases h
  · split at h
    · cases h
    · next e => cases h; exact translate_only e
theorem privAcc_only {s t : State} {w : WKey} {l o size : Nat} {a : Acc} (h : privAcc s w l o size = (t, .ok a)) :
    MemSys.Only s t := by
  unfold privAcc at h
  dsimp only at h
  split at h
  · cases h
  · split at h
    · cases h
    · split at h
      · cases h
      · split at h
        · cases h
        · next e => cases h; exact translate_only e
theorem resolve_only {s t : State} {c : Cursor} {l : Nat} {o : AddrOps} {size : Nat} {a : Acc}
    (h : resolve s c l o size = (t, .ok a)) : MemSys.Only s t := by
  unfold resolve at h
  dsimp only at h
  split at h
  · split at h
    · cases h
    · exact virtAcc_only h
  · split at h
    · cases h
    · have e : s = t := congrArg Prod.fst h
      subst e; rfl
  · split at h
    · cases h
    · have e : s = t := congrArg Prod.fst h
      subst e; rfl
  · split at h
    · cases h
    · split at h
      · cases h
      · exact privAcc_only h

end Sys2Proof.Machine
end

