-- ==== Sys2Proof/Laws/Image.lean ====
section
/-! SUPPORT. An image as it lies in memory: no two of its bytes share an address, so one just written is the one a restore finds
(14_determinism_and_debug.md R280, R282). -/
namespace Sys2Proof.Machine

/-- The keys rise strictly and lie from lo up to hi. -/
def Rising (lo hi : Nat) (cs : List Host.Cell) : Prop := cs.Pairwise (fun a b => a.1 < b.1) ∧ ∀ c ∈ cs, lo ≤ c.1 ∧ c.1 < hi

theorem Rising.append {a b c d : Nat} {xs ys : List Host.Cell} (hx : Rising a b xs) (hy : Rising c d ys) (h : b ≤ c) (hab : a ≤ c) (hbd : b ≤ d) :
    Rising a d (xs ++ ys) := by
  refine ⟨List.pairwise_append.2 ⟨hx.1, hy.1, fun x hxm y hym => ?_⟩, fun z hz => ?_⟩
  · have := (hx.2 x hxm).2; have := (hy.2 y hym).1; omega
  · rcases List.mem_append.1 hz with h' | h'
    · have := hx.2 z h'; omega
    · have := hy.2 z h'; omega

theorem rising_cells (a : Nat) (bs : List Byte) : Rising a (a + bs.length) (Memory.cells a bs) := by
  constructor
  · simp only [Memory.cells, List.pairwise_map]
    have h : ((List.range bs.length).zip bs).Pairwise (fun p q => p.1 < q.1) := by
      rw [← List.pairwise_map (f := Prod.fst) (R := (· < ·)), List.map_fst_zip (by simp)]
      exact List.pairwise_lt_range
    exact h.imp fun h => by omega
  · intro c hc
    simp only [Memory.cells, List.mem_map] at hc
    obtain ⟨p, hp, rfl⟩ := hc
    have := List.mem_range.1 (List.of_mem_zip hp).1
    exact ⟨by simp, by simp; omega⟩

theorem toBytes_length (n v : Nat) : (toBytes n v).length = n := by
  induction n generalizing v with
  | zero => rfl
  | succ n ih => simp [toBytes, ih]

theorem imageHeader_length (img : Image) (crc : Nat) : (imageHeader img crc).length = 256 := by
  simp only [imageHeader, List.length_append, toBytes_length, List.length_flatMap, List.length_map, List.length_range, List.length_replicate,
    List.length_cons, List.length_nil, List.map_const', List.sum_replicate_nat, Vector.length_toList]

theorem sectionTable_length (img : Image) : (sectionTable img).length = 2336 := by
  simp only [sectionTable, List.length_flatMap, List.length_append, toBytes_length, List.map_const', List.sum_replicate_nat, List.length_range]
  rfl

theorem sectionPlace_fits (i : Nat) : 1 ≤ (sectionPlace i).1 ∧ (sectionPlace i).1 ≤ imgLen ∧
    (sectionPlace i).2 ≤ 65536 * (imgLen - (sectionPlace i).1) := by
  induction i with
  | zero => simp only [sectionPlace, imgLen]; omega
  | succ i ih =>
    simp only [sectionPlace]
    omega

theorem rising_sections (img : Image) (base n : Nat) :
    Rising (base + 65536) (base + 65536 * (sectionPlace n).1)
      ((List.range n).flatMap fun i => Memory.cells (base + 65536 * (sectionPlace i).1) (sectionBytes img i)) := by
  induction n with
  | zero => exact ⟨.nil, by simp⟩
  | succ n ih =>
    rw [List.range_succ, List.flatMap_append]
    have hf := sectionPlace_fits n
    have hl : (sectionBytes img n).length = (sectionPlace n).2 := by simp [sectionBytes]
    have h2 := rising_cells (base + 65536 * (sectionPlace n).1) (sectionBytes img n)
    rw [hl] at h2
    have hs : (sectionPlace (n + 1)).1 = (sectionPlace n).1 + ((sectionPlace n).2 + 65535) / 65536 := rfl
    simp only [List.flatMap_cons, List.flatMap_nil, List.append_nil]
    have h3 := Rising.append ih h2 (by omega) (by omega) (by omega)
    exact ⟨h3.1, fun c hc => by have := h3.2 c hc; omega⟩

/-- The keys of an image rise. -/
theorem rising_image (img : Image) (base : Nat) : (imageCells img base).Pairwise (fun a b => a.1 < b.1) := by
  have h1 := rising_cells base (imageHeader img (crc32 (imageHeader img 0 ++ sectionTable img)) ++ sectionTable img)
  rw [List.length_append, imageHeader_length, sectionTable_length] at h1
  have hf := sectionPlace_fits sections.length
  exact (Rising.append h1 (rising_sections img base _) (by omega) (by omega) (by omega)).1

/-- A byte of a list of cells with rising keys reads as it was written. -/
theorem Memory.get_putAll_rising (cs : List Host.Cell) {m : Memory} (h : m.wf = true) (hp : cs.Pairwise (fun a b => a.1 < b.1)) :
    ∀ c ∈ cs, (m.putAll cs).get c.1 = c.2 := by
  induction cs generalizing m with
  | nil => simp
  | cons d cs ih =>
    intro c hc
    rw [List.pairwise_cons] at hp
    have hm : (m.putAll (d :: cs)) = (m.put d.1 d.2).putAll cs := rfl
    have hw := Memory.put_wf d.1 d.2 h
    rw [hm]
    rcases List.mem_cons.1 hc with rfl | hc
    · rw [Memory.get_putAll_of_notMem cs hw, Memory.get_put_self _ _ h]
      intro hmem
      obtain ⟨e, he, hk⟩ := List.mem_map.1 hmem
      have := hp.1 e he
      omega
    · exact ih hw hp.2 c hc

/-- The image just written is the one a restore finds. -/
theorem imageAt_written (s : State) (img : Image) (rest : List Image) (h : s.mem.wf = true) (hi : s.images = img :: rest) :
    imageAt { s with mem := s.mem.putAll (imageCells img s.imgBase.toNat) } = some img := by
  simp only [imageAt, hi]
  rw [List.find?_cons_of_pos]
  exact List.all_eq_true.2 fun c hc => by simp [Memory.get_putAll_rising _ h (rising_image img _) c hc]

/-- Bytes 4 and 5 of an image just written hold VERSION. -/
theorem image_version (m : Memory) (img : Image) (base : Nat) (h : m.wf = true) :
    ofBytes ((m.putAll (imageCells img base)).read (base + 4) 2) = 1 := by
  have hc : ∀ k < 2, (base + (4 + k), [1#8, 0#8].getD k 0) ∈ imageCells img base := by
    intro k hk
    refine List.mem_append_left _ ?_
    simp only [Memory.cells, List.mem_map]
    refine ⟨(4 + k, [1#8, 0#8].getD k 0), ?_, rfl⟩
    rw [List.mem_iff_getElem]
    refine ⟨4 + k, by simp [imageHeader_length, sectionTable_length]; omega, ?_⟩
    match k, hk with
    | 0, _ => simp [imageHeader, toBytes]
    | 1, _ => simp [imageHeader, toBytes]
  have hg := fun k hk => Memory.get_putAll_rising _ h (rising_image img base) _ (hc k hk)
  have h0 := hg 0 (by omega); have h1 := hg 1 (by omega)
  simp only [Nat.add_zero, ← Nat.add_assoc] at h0 h1
  simp [Memory.read, List.range_succ, h0, h1, ofBytes]

/-- A restore of the image just written passes its VERSION. -/
theorem image_version_written (s : State) (img : Image) (h : s.mem.wf = true) :
    let t := { s with mem := s.mem.putAll (imageCells img s.imgBase.toNat) }
    ofBytes (t.mem.read (t.imgBase.toNat + 4) 2) = 1 := by
  dsimp only
  exact image_version s.mem img s.imgBase.toNat h

end Sys2Proof.Machine
end

