-- ==== Sys2Proof/Tests/Slice0.lean ====
section
/-! SUPPORT. Tests: ill-formed terms that the checks refuse, words that the decoder reads, small steps with results worked from the spec's
tables and examples, and for each statement a concrete state and operands that meet its hypotheses. -/
namespace Sys2Proof.Tests
open Sys2Proof Sys2Proof.Machine
set_option Elab.async false

/-! ### A small state -/

/-- Fields that every instruction shares: no guard, no hints. -/
def hd : Hdr := { grd := { neg := false, p := 7 }, la := 0, yh := false, rh := 0 }
/-- The guard !p7, which is reserved. -/
def hdBad : Hdr := { hd with grd := { neg := true, p := 7 } }
/-- The guard p0, false in the small state. -/
def hdOff : Hdr := { hd with grd := { neg := false, p := 0 } }
/-- Core 0, quadrant 0, slot 0. -/
def w0 : WKey := { core := 0, quad := 0, slot := 0 }
/-- A running thread at 1000h with g2 = 5, g4 = FFFF_FFFFh, g6:g7 = 1_0000_0002h, g8 = 32, g12 = 1000, and p1 true. -/
def thr : Thread :=
  ((((((({ pc := 0x1000 } : Thread).setReg 2 5).setReg 4 0xFFFFFFFF).setReg 6 2).setReg 7 1).setReg 8 32).setReg 12 1000).setPred 1 true
/-- A thread that has exited. -/
def gone : Thread := { st := .exited }
/-- A warp of group 5 with 64 registers, k8 = 3 and k10 = 1; lanes 0 to n - 1 are `t`, the others have exited. -/
def warp (n : Nat) (t : Thread) : Warp :=
  { gid := 5, alloc := 64, k := ((Vector.replicate 64 0).setIfInBounds 8 3).setIfInBounds 10 1
    th := Vector.ofFn fun l => if l.val < n then t else gone }
/-- The path of lanes 0 to n - 1. -/
def path (n : Nat) : Cursor := { w := w0, lanes := BitVec.ofNat 32 (2 ^ n - 1), pc := 0x1000, user := false }
/-- A group of one warp in context 1, of launch 3, with 1 KiB of scratch. -/
def group : Group := { warps := [w0], ctx := 1, lti := 3, scr := 4 }
/-- The small state: one group of one warp, its path latched in the cursor, and its launch record. -/
def demo (x : Warp) (c : Cursor) (g : Group) (rcd : BitVec 1024) : State :=
  { State.reset with
    warps := [(0, x)], groups := [(5, g)], cur := some c, ctxs := [(1, { trapentry := 0x4000 })], nextId := 20
    sched := (Vector.replicate 8 {}).setIfInBounds 0 { launches := [(3, { rcd := rcd, ctx := 1, id := 9, emitted := 1, live := 1 })] } }
/-- With n threads as `thr`. -/
def demoN (n : Nat) : State := demo (warp n thr) (path n) group 0

/-- A general register of a lane of the small warp after a step. -/
def regAfter (o : Host.Outcome State Fault Refusal) (l n : Nat) : Option W32 :=
  match o with
  | .next t => (warpAt t w0).map fun x => (x.thr l).reg n
  | _ => none
/-- The warp's k register after a step. -/
def kAfter (o : Host.Outcome State Fault Refusal) (n : Nat) : Option W32 :=
  match o with
  | .next t => (warpAt t w0).map fun x => x.kreg n
  | _ => none
/-- A thread of the small warp after a step. -/
def thrAfter (o : Host.Outcome State Fault Refusal) (l : Nat) : Option Thread :=
  match o with
  | .next t => (warpAt t w0).map fun x => x.thr l
  | _ => none
/-- The state after a step. -/
def after (o : Host.Outcome State Fault Refusal) : State :=
  match o with
  | .next t => t
  | _ => {}

/-- What makes a path ready, as it is found in a concrete state. -/
theorem ready (s : State) (i : Instr) (c : Cursor) (x : Warp) (h1 : s.stop = none) (h2 : s.cur = some c) (h3 : warpAt s c.w = some x)
    (h4 : s.ms.damage = []) (h5 : s.branched = []) (h6 : operandTrap (Instr.uses i) x.alloc = none)
    (h7 : ((lanesOf c.lanes).all fun l => decide ((x.thr l).st = .running) && !(x.thr l).sstep) = true) : Ready s i c x := by
  simp only [List.all_eq_true, Bool.and_eq_true, decide_eq_true_eq, Bool.not_eq_true'] at h7
  exact ⟨h1, h2, h3, fun l hl => (h7 l hl).1, h6, h4, fun l hl => (h7 l hl).2, h5⟩

/-- A path of `n` such threads is ready. -/
theorem readyN (i : Instr) (h : operandTrap (Instr.uses i) 64 = none) : Ready (demoN 2) i (path 2) (warp 2 thr) :=
  ready _ _ _ _ rfl rfl rfl rfl rfl h (by decide +kernel)
/-- One thread is ready. -/
theorem ready1 (i : Instr) (h : operandTrap (Instr.uses i) 64 = none) : Ready (demoN 1) i (path 1) (warp 1 thr) :=
  ready _ _ _ _ rfl rfl rfl rfl rfl h (by decide +kernel)
/-- The thread executes alone. -/
theorem solo1 (i : Instr) (h : operandTrap (Instr.uses i) 64 = none) : Solo (demoN 1) i hd (path 1) (warp 1 thr) 0 :=
  { ready1 i h with alone := by decide +kernel }
/-- What makes a trap one that the handler takes, as it is found in a concrete state. -/
theorem handled {s : State} {h : Hdr} {c : Cursor} {x : Warp} {code : Nat}
    (e : (∀ l ∈ activeLanes s c h, (x.thr l).inh = false) ∧ bits (ctxOf s (grp s c.w).ctx).trapentry 56 2 ≠ 0 ∧ alwaysParks code = false ∧
      isSoft code = false ∧ code ≠ noTableCode ∧ ∀ t ∈ s.trace.toList, t.live = false) : Handled s h c x code :=
  ⟨e.1, e.2.1, e.2.2.1, e.2.2.2.1, e.2.2.2.2.1, e.2.2.2.2.2⟩
/-- Its traps are taken by the handler. -/
theorem handled1 (code : Nat) (h1 : alwaysParks code = false) (h2 : isSoft code = false) (h3 : code ≠ noTableCode) :
    Handled (demoN 1) hd (path 1) (warp 1 thr) code :=
  ⟨by decide +kernel, by decide +kernel, h1, h2, h3, by decide +kernel⟩

/-! ### Ill-formed terms that WellFormed refuses (15_instruction_formats.md R290) -/

/-- Step 2: the guard !p7. -/
theorem smoke_guard : ¬WellFormed (.nop hdBad) := by decide
/-- Step 6: SIZE must be the format's width (R353). -/
theorem smoke_size : ¬WellFormed (.ld hd { addr := { sp := .virt, off := 0, a := .g 2 }, size := .b2, fmt := .n32, sc := .grp, d := .g 4 }) := by
  decide
/-- Step 6: RED has no exchange (R369). -/
theorem smoke_red_op : ¬WellFormed (.red hd
    { op := .exch, size := .b4, fmt := .n32, addr := { sp := .virt, off := 0, a := .g 2 }, ord := .none, sc := .grp, d := .zero, b := .g 4 }) := by
  decide
/-- Step 6: a FENCE names an order (R340). -/
theorem smoke_fence : ¬WellFormed (.fence hd .none .die) := by decide
/-- Step 6: ACOPY copies 4, 8 or 16 bytes (R194). -/
theorem smoke_acopy_size : ¬WellFormed (.acopy hd
    { sz := .b2, dsp := .scr, ssp := .virt, bit := 0, sc := .grp, acq := false, rel := false, d := .g 4, a := .g 6, b := .k 0 }) := by decide
/-- Step 6: N of the .bar space is a multiple of 4 (R380). -/
theorem smoke_bar_offset : ¬WellFormed (.srd hd { sp := .bar, n := 0x2001, r := .g 4, b := .zero }) := by decide
/-- Fields the instruction does not use: SAT of TMMA (R389). -/
theorem smoke_unused : ¬WellFormed (.tmma hd
    { tx := 20, fl := { sc := .pkg, acq := true, rel := false, it := false }, fmt := .i8, sat := true, d := .acc 0, a := .k 8, b := .k 12 }) := by
  decide
/-- Step 8: a reserved operand code (R297). -/
theorem smoke_reserved : ¬WellFormed (.iadd hd { ty := .i32, d := .g 4, a := .bad 0x300, b := .g 2 }) := by decide
/-- Step 9: a pair is named by its even register (R309). -/
theorem smoke_odd_pair : ¬WellFormed (.iadd hd { ty := .n64, d := .g 5, a := .g 2, b := .g 6 }) := by decide
/-- Step 9: TMMA reads k8 to k11, which must lie inside the bank (R390). -/
theorem smoke_k_range : ¬WellFormed (.tmma hd
    { tx := 20, fl := { sc := .pkg, acq := true, rel := false, it := false }, fmt := .i8, sat := false, d := .acc 0, a := .k 61, b := .k 12 }) := by
  decide
/-- Step 9: BAR's sibling NBAR names a named barrier (R361). -/
theorem smoke_kind : ¬WellFormed (.nbar hd { a := .g 3, b := .zero, cnt := 4 }) := by decide
/-- An event of a die that does not exist. -/
theorem smoke_event : ¬WellFormed (.queueAging 8) := by decide

/-! ### Words written out from the spec's encodings -/

/-- The decoder reads this instruction. -/
def reads (w : IWord) (i : Instr) : Bool :=
  match decode w with
  | .ok j => j == i
  | .error _ => false
/-- The words are OPC 95:86, GRD 85:82, LA 81:78, YH 77, RH 76:75, 0, D 73:64, A 63:54, B 53:44, X 43:0 (R289). -/
def word (opc grd la yh rh d a b x : Nat) : IWord :=
  BitVec.ofNat 96 (opc * 2 ^ 86 + grd * 2 ^ 82 + la * 2 ^ 78 + yh * 2 ^ 77 + rh * 2 ^ 75 + d * 2 ^ 64 + a * 2 ^ 54 + b * 2 ^ 44 + x)

/-- RGROW g4, 16 (R84): OPC 1C0h, A and B 3FFh. -/
theorem decode_rgrow : reads (word 0x1C0 7 0 0 0 4 0x3FF 0x3FF 16) (.rgrow hd (.g 4) 16) = true := by decide +kernel
/-- SPAWN g4, [g6-8] (R84): OPC 1C4h, OFF 23:0. -/
theorem decode_spawn : reads (word 0x1C4 7 0 0 0 4 6 0x3FF 0xFFFFF8) (.spawn hd (.g 4) (.g 6) 0xFFFFF8) = true := by decide +kernel
/-- FENCE.ar.pkg (R340): OPC 0E0h, SCOPE 011b in 38:36, ORDER 11b in 35:34. -/
theorem decode_fence : reads (word 0x0E0 7 0 0 0 0x3FF 0x3FF 0x3FF (3 * 2 ^ 36 + 3 * 2 ^ 34)) (.fence hd .ar .pkg) = true := by decide +kernel
/-- ATOM.add.n32.scr.ar.die g4, [g2+4], g6 (R316): SIZE 010b, SPACE 01b, SCOPE 010b, ORDER 11b, OP 0, TYPE 6. -/
theorem decode_atom : reads (word 0x0D0 7 0 0 1 4 2 6 (2 * 2 ^ 41 + 1 * 2 ^ 39 + 2 * 2 ^ 36 + 3 * 2 ^ 34 + 6 * 2 ^ 24 + 4))
    (.atom { hd with rh := 1 }
      { op := .add, size := .b4, fmt := .n32, addr := { sp := .scr, off := 4, a := .g 2 }, ord := .ar, sc := .die, d := .g 4, b := .g 6 }) = true := by
  decide +kernel
/-- VOTE.ballot g5, p1, k10 (R402): OPC 0A0h, MODE 10b. -/
theorem decode_vote : reads (word 0x0A0 7 0 0 0 5 0x149 0x3FF (0x08A * 2 ^ 34 + 2 * 2 ^ 32))
    (.vote hd { mode := .ballot, d := .g 5, a := .p 1, c := .k 10 }) = true := by decide +kernel
/-- CSEND g4, ch3, k8 (R201): OPC 1D8h. -/
theorem decode_csend : reads (word 0x1D8 7 0 0 0 4 0x153 0x088 (0x3FF * 2 ^ 34)) (.csend hd (.g 4) (.ch 3) (.k 8)) = true := by decide +kernel
/-- HLWAIT g4, k9 (R207): OPC 1E3h. -/
theorem decode_hlwait : reads (word 0x1E3 7 0 0 0 4 0x089 0x3FF 0) (.hlwait hd (.g 4) (.k 9)) = true := by decide +kernel
/-- PNSEND.wake g4, g6, g8, 33 (R253): OPC 1E8h, n in 33:28, WAKE 27. -/
theorem decode_pnsend : reads (word 0x1E8 7 0 0 0 4 6 8 (0x3FF * 2 ^ 34 + 33 * 2 ^ 28 + 2 ^ 27)) (.pnsend hd 33 true (.g 4) (.g 6) (.g 8)) = true := by
  decide +kernel
/-- SRD.bar g4, 2048h (R380): OPC 1F0h, SP 01b in 33:32. -/
theorem decode_srd : reads (word 0x1F0 7 0 0 0 4 0x3FF 0x3FF (0x3FF * 2 ^ 34 + 2 ^ 32 + 0x2048)) (.srd hd { sp := .bar, n := 0x2048, r := .g 4, b := .zero }) = true := by
  decide +kernel
/-- An opcode that Table 15.4 leaves out is refused, and so is a word of ones (R302, R290 step 2). -/
theorem decode_unassigned : (decode (word 0x200 7 0 0 0 0x3FF 0x3FF 0x3FF (0x3FF * 2 ^ 34))).toOption = none ∧ (decode (-1)).toOption = none := by
  decide +kernel
/-- A res0 bit set in NOP is refused (R290 step 5). -/
theorem decode_res0 : (decode (word 0x088 7 0 0 0 0x3FF 0x3FF 0x3FF (0x3FF * 2 ^ 34 + 1))).toOption = none := by decide +kernel

/-! ### Steps of one instruction, with results worked from the spec -/

/-- An addition wraps (R346): FFFF_FFFFh + 5 = 4. -/
theorem step_iadd_wraps : regAfter (exec (.iadd hd { ty := .i32, d := .g 5, a := .g 4, b := .g 2 }) (demoN 2)) 1 5 = some 4 := by decide +kernel
/-- A pair: 1_0000_0002h + (-1 as .i64 immediate) = 1_0000_0001h; the high half is 1 (R309). -/
theorem step_iadd_pair : regAfter (exec (.iaddImm hd { ty := .i64, d := .g 20, a := .g 6, imm := 0xFFFFFFFF }) (demoN 1)) 0 20 = some 1 ∧
    regAfter (exec (.iaddImm hd { ty := .i64, d := .g 20, a := .g 6, imm := 0xFFFFFFFF }) (demoN 1)) 0 21 = some 1 := by decide +kernel
/-- A destination that is also a source: g6:g7 := g6:g7 - g6:g7. -/
theorem step_isub_same : regAfter (exec (.isub hd { ty := .n64, d := .g 6, a := .g 6, b := .g 6 }) (demoN 1)) 0 7 = some 0 := by decide +kernel
/-- BFX.n32 with g3 = 0000_ABCDh, pos 4, len 8 gives 0BCh, and as .i32 FFFF_FFBCh (R318). -/
theorem step_bfx :
    let s := demo (warp 1 (thr.setReg 3 0xABCD)) (path 1) group 0
    regAfter (exec (.bfxImm hd { ty := .n32, d := .g 10, a := .g 3, imm := 0x804 }) s) 0 10 = some 0xBC ∧
    regAfter (exec (.bfxImm hd { ty := .i32, d := .g 10, a := .g 3, imm := 0x804 }) s) 0 10 = some 0xFFFFFFBC := by decide +kernel
/-- LEA with g4:g5 = 1_2000_0000h, g8 = FFFF_FFFDh, shift 7: .i64 gives 1_1FFF_FE80h, .n64 gives 81_1FFF_FE80h (R356). -/
theorem step_lea :
    let s := demo (warp 1 (((thr.setReg 4 0x20000000).setReg 5 1).setReg 8 0xFFFFFFFD)) (path 1) group 0
    regAfter (exec (.leaImm hd { ty := .i64, d := .g 10, a := .g 4, b := .g 8, imm := 7 }) s) 0 11 = some 1 ∧
    regAfter (exec (.leaImm hd { ty := .n64, d := .g 10, a := .g 4, b := .g 8, imm := 7 }) s) 0 11 = some 0x81 := by decide +kernel
/-- An arithmetic shift by the width leaves copies of the sign, a logical one zeros (R377). -/
theorem step_shr : regAfter (exec (.shr hd { ty := .i32, d := .g 5, a := .g 4, b := .g 8 }) (demoN 1)) 0 5 = some 0xFFFFFFFF ∧
    regAfter (exec (.shr hd { ty := .n32, d := .g 5, a := .g 4, b := .g 8 }) (demoN 1)) 0 5 = some 0 := by decide +kernel
/-- IABS of the most negative value is that value (R345). -/
theorem step_iabs : regAfter (exec (.iabs hd { ty := .i32, d := .g 5, a := .g 9 }) (demo (warp 1 (thr.setReg 9 0x80000000)) (path 1) group 0)) 0 5 =
    some 0x80000000 := by decide +kernel
/-- CLZ of 5 is 29 and of 0 is 32 (R326). -/
theorem step_clz : regAfter (exec (.clz hd { ty := .n32, d := .g 5, a := .g 2 }) (demoN 1)) 0 5 = some 29 ∧
    regAfter (exec (.clz hd { ty := .n32, d := .g 5, a := .g 0 }) (demoN 1)) 0 5 = some 32 := by decide +kernel
/-- 1.5 + 2.25 = 3.75, and 1.5 - infinity is -infinity (R336, R160). -/
theorem step_fadd :
    let s := demo (warp 1 ((thr.setReg 9 0x3FC00000).setReg 10 0x40100000)) (path 1) group 0
    regAfter (exec (.fadd hd { ty := .f32, d := .g 5, a := .g 9, b := .g 10 }) s) 0 5 = some 0x40700000 ∧
    regAfter (exec (.fsubImm hd { ty := .f32, d := .g 5, a := .g 9, imm := 0x7F800000 }) s) 0 5 = some 0xFF800000 := by decide +kernel
/-- FCMP of 1.0 and NaN: unordered alone is true, so p2 and p3 of `FCMP.f32 p0` are false and true (R338, R365's example). -/
theorem step_fcmp :
    let s := demo (warp 1 ((thr.setReg 9 0x3F800000).setReg 10 0x7FC00000)) (path 1) group 0
    (thrAfter (exec (.fcmp hd { ty := .f32, d := .p 0, a := .g 9, b := .g 10 }) s) 0).map (fun t => (t.pred 0, t.pred 1, t.pred 2, t.pred 3)) =
      some (false, false, false, true) := by decide +kernel
/-- CVT.sat of 1000 to .i8 gives 127 (R329, R153). -/
theorem step_cvt : regAfter (exec (.cvt hd { ty := .i8, sty := .i32, sat := true, d := .g 5, a := .g 12 }) (demoN 1)) 0 5 = some 127 := by
  decide +kernel
/-- A false guard: the counter advances and nothing is written (R291). -/
theorem step_guard : regAfter (exec (.iadd hdOff { ty := .i32, d := .g 2, a := .g 4, b := .g 2 }) (demoN 1)) 0 2 = some 5 ∧
    (thrAfter (exec (.iadd hdOff { ty := .i32, d := .g 2, a := .g 4, b := .g 2 }) (demoN 1)) 0).map (·.pc) = some 0x100C := by decide +kernel
/-- BRA with OFF = -2 goes back 24 bytes (R295). -/
theorem step_bra : (thrAfter (exec (.bra hd 0xFFFFFFFE) (demoN 2)) 1).map (·.pc) = some 0xFE8 := by decide +kernel
/-- BRK enters the handler at TRAPENTRY with code 160h and INH set (R221, R322). -/
theorem step_brk : (thrAfter (exec (.brk hd 7) (demoN 1)) 0).map (fun t => (t.pc, t.cause, t.inh, t.tepc)) = some (0x4000, 0x160, true, 0x1000) := by
  decide +kernel
/-- A special register as a destination traps with 023h (R290 step 11). -/
theorem step_special_dest : (thrAfter (exec (.mov hd { ty := .n32, d := .s .lane, a := .g 2 }) (demoN 1)) 0).map (·.cause) = some 0x023 := by
  decide +kernel
/-- Two threads write k9: the lower lane's value stays (R37). -/
theorem step_k_dest : kAfter (exec (.mov hd { ty := .n32, d := .k 9, a := .s .lane }) (demoN 2)) 9 = some 0 := by decide +kernel
/-- A store to scratch and what a load there reads (R99, R384). -/
theorem step_scratch :
    let s := demoN 1
    let t := after (exec (.st hd { addr := { sp := .scr, off := 0, a := .g 8 }, size := .b4, fmt := .n32, sc := .grp, b := .g 4 }) s)
    (grp t w0).scratch = [(32, 0xFF), (33, 0xFF), (34, 0xFF), (35, 0xFF)] := by decide +kernel
/-- An access past SCR x 256 traps with 0AAh (R99). -/
theorem step_scratch_bound : (thrAfter (exec (.ld hd
    { addr := { sp := .scr, off := 24, a := .g 12 }, size := .b4, fmt := .n32, sc := .grp, d := .g 5 }) (demoN 1)) 0).map (·.cause) = some 0x0AA := by
  decide +kernel
/-- An odd address traps with 0A0h before anything else (R87). -/
theorem step_misaligned : (thrAfter (exec (.ld hd
    { addr := { sp := .scr, off := 1, a := .g 8 }, size := .b4, fmt := .n32, sc := .grp, d := .g 5 }) (demoN 1)) 0).map (fun t => (t.cause, t.taddr)) =
      some (0x0A0, 33) := by decide +kernel
/-- BAR by the only warp completes its generation (R49). -/
theorem step_bar : (after (exec (.bar hd) (demoN 1))).groups.map (fun e => (e.2.barGen, e.2.barArrived)) = [(1, 0)] := by decide +kernel
/-- EXIT of the last thread frees the slot; the group ends (R47). -/
theorem step_exit : (thrAfter (exec (.exit hd) (demo (warp 2 thr) (path 1) group 0)) 0).map (·.st) = some .exited := by decide +kernel
/-- VOTE.ballot over lanes 0 and 1 with p1 true in both gives 3 (R402). -/
theorem step_vote : regAfter (exec (.vote hd { mode := .ballot, d := .g 5, a := .p 1, c := .k 8 }) (demoN 2)) 1 5 = some 3 := by decide +kernel
/-- MRSV reserves the free engine for the group (R359). -/
theorem step_mrsv : (engineOf (after (exec (.mrsv hd (.p 0)) (demoN 1))) 0).owner = some 5 := by decide +kernel
/-- TTEST of an unbound handle answers 0 (Table 6.2). -/
theorem step_ttest : regAfter (exec (.ttest hd (.g 5) (.h 3)) (demo (warp 1 (thr.setReg 5 7)) (path 1) group 0)) 0 5 = some 0 := by decide +kernel
/-- A group without pennant state traps with 124h at PNMASK (R253). -/
theorem step_pnmask : (thrAfter (exec (.pnmask hd .zero (.g 6)) (demoN 1)) 0).map (·.cause) = some 0x124 := by decide +kernel
/-- SRD.ctx 7 reads TRAPENTRY of the executing context (R380, Table 18.1). -/
theorem step_srd : regAfter (exec (.srd hd { sp := .ctx, n := 7, r := .g 20, b := .zero }) (demoN 1)) 0 20 = some 0x4000 := by decide +kernel
/-- A quadrant's first vote searches from slot 0 (R41). -/
theorem step_vote_event : (after (exec (.issueVote 0 0) { demoN 1 with cur := none })).issue.map (fun q => (q.w, q.pc)) = [(w0, 0x1000)] := by
  decide +kernel
/-- CTX_CREATE of a known context sets BADID (R98). -/
theorem step_ctx_create : (after (exec (.ctxCreate 1) (demoN 1))).ctxBadId = true ∧ ((after (exec (.ctxCreate 2) (demoN 1))).ctxs.get? 2).isSome = true := by
  decide +kernel
/-- A new machine with a word where it fetches runs it: NOP (log 6). -/
theorem step_placed : (match step (State.reset.withFetchWord 96 (word 0x088 7 0 0 0 0x3FF 0x3FF 0x3FF (0x3FF * 2 ^ 34)).toNat) with
    | .next t => t.cur.map (·.pc.toNat % 4)
    | _ => none) = some 0 := by decide +kernel
/-- No guard and no hints. -/
def w (opc d a b x : Nat) : IWord := word opc 7 0 0 0 d a b x
/-- FA: C and the modifier bits (R294). -/
def xfa (c m : Nat) : Nat := c * 2 ^ 34 + m
/-- FI of Table 16.1: TYPE 43:40 and IMM. -/
def xfi (ty imm : Nat) : Nat := ty * 2 ^ 40 + imm
/-- FM (Table 15.2): SIZE 43:41, SPACE 40:39, SCOPE 38:36, ORDER 35:34, MOD 33:24, OFF. -/
def xfm (size sp sc ord m off : Nat) : Nat := size * 2 ^ 41 + sp * 2 ^ 39 + sc * 2 ^ 36 + ord * 2 ^ 34 + m * 2 ^ 24 + off
/-- FT (Table 8.3): TX 43:34, SCOPE 33:31, ACQ 30, REL 29, IT 28, FMT 27:24, SAT 23. -/
def xft (tx sc fl fmt sat : Nat) : Nat := tx * 2 ^ 34 + sc * 2 ^ 31 + fl * 2 ^ 28 + fmt * 2 ^ 24 + sat * 2 ^ 23
/-- Every word of a list reads as its instruction. -/
def readAll (l : List (IWord × Instr)) : Bool := l.all fun p => reads p.1 p.2

/-- The shared fields: `(!p2)`, LA 3, YH 1, RH 10b (Table 15.1). -/
theorem word_header : reads (word 0x088 0xA 3 1 2 0x3FF 0x3FF 0x3FF (xfa 0x3FF 0))
    (.nop { grd := { neg := true, p := 2 }, la := 3, yh := true, rh := 2 }) = true := by decide +kernel
/-- Integer and logical opcodes 000h to 014h in FA: D g4, A g2, B k8, C g10, .i32 = 2h. -/
theorem words_integer : readAll [
    (w 0x000 4 2 0x088 (xfa 0x3FF 0x2000000), .iadd hd ⟨.i32, .g 4, .g 2, .k 8⟩), (w 0x001 4 2 0x088 (xfa 0x3FF 0x2000000), .isub hd ⟨.i32, .g 4, .g 2, .k 8⟩),
    (w 0x002 4 2 0x088 (xfa 0x3FF 0x2000000), .imul hd ⟨.i32, .g 4, .g 2, .k 8⟩), (w 0x003 4 2 0x088 (xfa 10 0x2000000), .imad hd ⟨.i32, .g 4, .g 2, .k 8, .g 10⟩),
    (w 0x004 4 2 0x088 (xfa 0x3FF 0x2000000), .imin hd ⟨.i32, .g 4, .g 2, .k 8⟩), (w 0x005 4 2 0x088 (xfa 0x3FF 0x2000000), .imax hd ⟨.i32, .g 4, .g 2, .k 8⟩),
    (w 0x006 4 2 0x3FF (xfa 0x3FF 0x2000000), .iabs hd ⟨.i32, .g 4, .g 2⟩), (w 0x008 4 2 0x088 (xfa 0x3FF 0x2000000), .and hd ⟨.i32, .g 4, .g 2, .k 8⟩),
    (w 0x009 4 2 0x088 (xfa 0x3FF 0x2000000), .or hd ⟨.i32, .g 4, .g 2, .k 8⟩), (w 0x00A 4 2 0x088 (xfa 0x3FF 0x2000000), .xor hd ⟨.i32, .g 4, .g 2, .k 8⟩),
    (w 0x00B 4 2 0x3FF (xfa 0x3FF 0x2000000), .not hd ⟨.i32, .g 4, .g 2⟩), (w 0x00C 4 2 0x088 (xfa 0x3FF 0x2000000), .shl hd ⟨.i32, .g 4, .g 2, .k 8⟩),
    (w 0x00D 4 2 0x088 (xfa 0x3FF 0x2000000), .shr hd ⟨.i32, .g 4, .g 2, .k 8⟩), (w 0x00E 4 2 0x088 (xfa 0x3FF 0x2000000), .rot hd ⟨.i32, .g 4, .g 2, .k 8⟩),
    (w 0x010 4 2 0x088 (xfa 0x3FF 0x2000000), .bfx hd ⟨.i32, .g 4, .g 2, .k 8⟩), (w 0x011 4 2 0x088 (xfa 10 0x2000000), .bfi hd ⟨.i32, .g 4, .g 2, .k 8, .g 10⟩),
    (w 0x012 4 2 0x3FF (xfa 0x3FF 0x2000000), .popc hd ⟨.i32, .g 4, .g 2⟩), (w 0x013 4 2 0x3FF (xfa 0x3FF 0x2000000), .clz hd ⟨.i32, .g 4, .g 2⟩),
    (w 0x014 4 2 0x3FF (xfa 0x3FF 0x2000000), .brev hd ⟨.i32, .g 4, .g 2⟩)] = true := by decide +kernel
/-- 018h to 01Eh: ICMP to p3 = 14Bh with .n64 = 7h over pairs, SEL by A p2 = 14Ah, LEA, MOV of s code 0C0h, CVT with STYPE in 31:28 and SAT in 23. -/
theorem words_integer2 : readAll [
    (w 0x018 0x14B 2 8 (xfa 0x3FF 0x7000000), .icmp hd ⟨.n64, .p 3, .g 2, .g 8⟩), (w 0x019 4 0x14A 8 (xfa 10 0x6000000), .sel hd ⟨.n32, .g 4, .p 2, .g 8, .g 10⟩),
    (w 0x01A 4 2 8 (xfa 11 0x6000000), .lea hd ⟨.n32, .g 4, .g 2, .g 8, .g 11⟩), (w 0x01C 0x0A1 0x3FF 0x3FF (xfa 0x3FF 0x6000000), .mov hd ⟨.n32, .k 33, .zero⟩),
    (w 0x01E 4 2 0x3FF (xfa 0x3FF 0x20800000), .cvt hd ⟨.i8, .i32, true, .g 4, .g 2⟩), (w 0x04A 4 2 0x3FF (xfa 0x3FF 0x2A000000), .cvtf hd ⟨.bf16, .i32, false, .g 4, .g 2⟩)] = true := by
  decide +kernel
/-- The immediate forms 020h to 03Ch: TYPE 43:40, IMM in 31:0; B is 3FFh where IMM stands for it. -/
theorem words_integer_imm : readAll [
    (w 0x020 4 2 0x3FF (xfi 2 0xFFFFFFFE), .iaddImm hd ⟨.i32, .g 4, .g 2, 0xFFFFFFFE⟩), (w 0x021 4 2 0x3FF (xfi 2 9), .isubImm hd ⟨.i32, .g 4, .g 2, 9⟩),
    (w 0x022 4 2 0x3FF (xfi 2 9), .imulImm hd ⟨.i32, .g 4, .g 2, 9⟩), (w 0x023 4 2 8 (xfi 2 9), .imadImm hd ⟨.i32, .g 4, .g 2, .g 8, 9⟩),
    (w 0x024 4 2 0x3FF (xfi 2 9), .iminImm hd ⟨.i32, .g 4, .g 2, 9⟩), (w 0x025 4 2 0x3FF (xfi 2 9), .imaxImm hd ⟨.i32, .g 4, .g 2, 9⟩),
    (w 0x028 4 2 0x3FF (xfi 6 9), .andImm hd ⟨.n32, .g 4, .g 2, 9⟩), (w 0x029 4 2 0x3FF (xfi 6 9), .orImm hd ⟨.n32, .g 4, .g 2, 9⟩),
    (w 0x02A 4 2 0x3FF (xfi 6 9), .xorImm hd ⟨.n32, .g 4, .g 2, 9⟩), (w 0x02C 4 2 0x3FF (xfi 6 9), .shlImm hd ⟨.n32, .g 4, .g 2, 9⟩),
    (w 0x02D 4 2 0x3FF (xfi 6 9), .shrImm hd ⟨.n32, .g 4, .g 2, 9⟩), (w 0x02E 4 2 0x3FF (xfi 6 9), .rotImm hd ⟨.n32, .g 4, .g 2, 9⟩),
    (w 0x030 4 2 0x3FF (xfi 6 9), .bfxImm hd ⟨.n32, .g 4, .g 2, 9⟩), (w 0x031 4 2 8 (xfi 6 9), .bfiImm hd ⟨.n32, .g 4, .g 2, .g 8, 9⟩),
    (w 0x038 0x148 2 0x3FF (xfi 6 9), .icmpImm hd ⟨.n32, .p 0, .g 2, 9⟩), (w 0x039 4 0x14A 8 (xfi 6 9), .selImm hd ⟨.n32, .g 4, .p 2, .g 8, 9⟩),
    (w 0x03A 4 2 8 (xfi 7 9), .leaImm hd ⟨.n64, .g 4, .g 2, .g 8, 9⟩), (w 0x03C 4 0x3FF 0x3FF (xfi 6 0x80000001), .movi hd ⟨.n32, .g 4, 0x80000001⟩)] = true := by
  decide +kernel
/-- The floating opcodes: .f32 = 8h, .bf16 = 0Ah. -/
theorem words_float : readAll [
    (w 0x040 4 2 8 (xfa 0x3FF 0x8000000), .fadd hd ⟨.f32, .g 4, .g 2, .g 8⟩), (w 0x041 4 2 8 (xfa 0x3FF 0x8000000), .fsub hd ⟨.f32, .g 4, .g 2, .g 8⟩),
    (w 0x042 4 2 8 (xfa 0x3FF 0x8000000), .fmul hd ⟨.f32, .g 4, .g 2, .g 8⟩), (w 0x043 4 2 8 (xfa 10 0x8000000), .ffma hd ⟨.f32, .g 4, .g 2, .g 8, .g 10⟩),
    (w 0x044 4 2 8 (xfa 0x3FF 0x8000000), .fmin hd ⟨.f32, .g 4, .g 2, .g 8⟩), (w 0x045 4 2 8 (xfa 0x3FF 0x8000000), .fmax hd ⟨.f32, .g 4, .g 2, .g 8⟩),
    (w 0x046 4 2 0x3FF (xfa 0x3FF 0x9000000), .fabs hd ⟨.f16, .g 4, .g 2⟩), (w 0x047 4 2 0x3FF (xfa 0x3FF 0x9000000), .fneg hd ⟨.f16, .g 4, .g 2⟩),
    (w 0x048 0x148 2 8 (xfa 0x3FF 0x8000000), .fcmp hd ⟨.f32, .p 0, .g 2, .g 8⟩), (w 0x049 4 2 0x3FF (xfa 0x3FF 0x8000000), .fclass hd ⟨.f32, .g 4, .g 2⟩),
    (w 0x050 4 2 0x3FF (xfa 0x3FF 0x8000000), .frcp hd ⟨.f32, .g 4, .g 2⟩), (w 0x051 4 2 0x3FF (xfa 0x3FF 0x8000000), .frsq hd ⟨.f32, .g 4, .g 2⟩),
    (w 0x052 4 2 0x3FF (xfa 0x3FF 0x8000000), .fsqrt hd ⟨.f32, .g 4, .g 2⟩), (w 0x053 4 2 0x3FF (xfa 0x3FF 0x8000000), .fexp2 hd ⟨.f32, .g 4, .g 2⟩),
    (w 0x054 4 2 0x3FF (xfa 0x3FF 0x8000000), .flog2 hd ⟨.f32, .g 4, .g 2⟩), (w 0x055 4 2 0x3FF (xfa 0x3FF 0x8000000), .fsin hd ⟨.f32, .g 4, .g 2⟩),
    (w 0x056 4 2 0x3FF (xfa 0x3FF 0x8000000), .fcos hd ⟨.f32, .g 4, .g 2⟩), (w 0x060 4 2 0x3FF (xfi 8 0x3F800000), .faddImm hd ⟨.f32, .g 4, .g 2, 0x3F800000⟩),
    (w 0x061 4 2 0x3FF (xfi 8 1), .fsubImm hd ⟨.f32, .g 4, .g 2, 1⟩), (w 0x062 4 2 0x3FF (xfi 8 1), .fmulImm hd ⟨.f32, .g 4, .g 2, 1⟩),
    (w 0x063 4 2 8 (xfi 8 1), .ffmaImm hd ⟨.f32, .g 4, .g 2, .g 8, 1⟩), (w 0x064 4 2 0x3FF (xfi 8 1), .fminImm hd ⟨.f32, .g 4, .g 2, 1⟩),
    (w 0x065 4 2 0x3FF (xfi 8 1), .fmaxImm hd ⟨.f32, .g 4, .g 2, 1⟩), (w 0x068 0x148 2 0x3FF (xfi 8 1), .fcmpImm hd ⟨.f32, .p 0, .g 2, 1⟩),
    (w 0x070 4 2 8 (xfa 0x3FF 0xA000000), .vadd2 hd ⟨.bf16, .g 4, .g 2, .g 8⟩), (w 0x071 4 2 8 (xfa 0x3FF 0xA000000), .vmul2 hd ⟨.bf16, .g 4, .g 2, .g 8⟩),
    (w 0x072 4 2 8 (xfa 10 0xA000000), .vfma2 hd ⟨.bf16, .g 4, .g 2, .g 8, .g 10⟩)] = true := by decide +kernel
/-- Predicates, control and warp-wide opcodes 078h to 0A3h (R298, R365, R387, R394, R402, R403). -/
theorem words_control : readAll [
    (w 0x078 0x14D 0x14A 0x14B (xfa 0x3FF 1), .plop hd ⟨1, .p 5, .p 2, .p 3⟩), (w 0x07F 0x149 0x3FF 0x3FF (2 * 2 ^ 41 + 5 * 2 ^ 33), .pblk hd ⟨2, 5, .p 1⟩),
    (w 0x080 0x3FF 0x3FF 0x3FF 0xFFFFFFFE, .bra hd 0xFFFFFFFE), (w 0x081 0x3FF 20 0x3FF (xfa 0x3FF 0), .jmpr hd (.g 20)),
    (w 0x082 0x3FF 0x3FF 0x3FF 7, .call hd 7), (w 0x083 0x3FF 20 0x3FF (xfa 0x3FF 0), .callr hd (.g 20)), (w 0x084 0x3FF 0x3FF 0x3FF (xfa 0x3FF 0), .ret hd),
    (w 0x085 0x3FF 0x3FF 0x3FF (xfa 0x3FF 0), .exit hd), (w 0x086 0x3FF 0x3FF 0x3FF (xfa 0x3FF 0), .yield hd),
    (w 0x087 0x3FF 0x3FF 0x3FF (xfa 0x085 0), .wsync hd (.k 5)), (w 0x088 0x3FF 0x3FF 0x3FF (xfa 0x3FF 0), .nop hd),
    (w 0x089 0x3FF 2 0x3FF (xfa 0x3FF 0x8003), .swt hd (.g 2) 0x8003), (w 0x08A 0x3FF 0x3FF 0x3FF (xfa 0x3FF 0x100000000), .tret hd true),
    (w 0x08B 0x3FF 0x3FF 0x3FF (xfa 0x3FF 0), .rgn hd), (w 0x08C 0x3FF 0x3FF 0x3FF 0x12345678, .brk hd 0x12345678),
    (w 0x0A0 4 0x14A 0x3FF (xfa 0x085 0x200000000), .vote hd ⟨.ballot, .g 4, .p 2, .k 5⟩),
    (w 0x0A1 4 2 8 (xfa 0x085 0x106000000), .shfl hd ⟨.up, .n32, .g 4, .g 2, .g 8, .k 5⟩),
    (w 0x0A2 4 2 0x3FF (xfa 0x085 0x26000000), .wred hd ⟨.max, .n32, .g 4, .g 2, .k 5, false⟩),
    (w 0x0A3 4 2 0x3FF (xfa 0x085 0x6800000), .wscan hd ⟨.add, .n32, .g 4, .g 2, .k 5, true⟩)] = true := by decide +kernel
/-- Loads, stores and ranges (FM): SIZE 2 is 4 bytes, SPACE 1 scratch and 3 private, SCOPE 3 .pkg and 4 .sys, MOD the format. -/
theorem words_memory : readAll [
    (w 0x0C0 4 3 0x3FF (xfm 2 1 1 0 6 0xFFFFFC), .ld hd ⟨⟨.scr, 0xFFFFFC, .g 3⟩, .b4, .n32, .core, .g 4⟩),
    (w 0x0C1 0x3FF 2 8 (xfm 3 0 0 0 7 8), .st hd ⟨⟨.virt, 8, .g 2⟩, .b8, .n64, .grp, .g 8⟩),
    (w 0x0C2 4 2 0x3FF (xfm 4 2 0 0 0 16), .ldq hd ⟨⟨.vlt, 16, .g 2⟩, .grp, .g 4⟩), (w 0x0C3 0x3FF 2 8 (xfm 4 0 0 0 0 16), .stq hd ⟨⟨.virt, 16, .g 2⟩, .grp, .g 8⟩),
    (w 0x0C4 4 2 0x3FF (xfm 2 0 3 0 6 4), .ldacq hd ⟨⟨.virt, 4, .g 2⟩, .b4, .n32, .pkg, .g 4⟩), (w 0x0C5 0x3FF 2 8 (xfm 2 0 4 0 6 4), .strel hd ⟨⟨.virt, 4, .g 2⟩, .b4, .n32, .sys, .g 8⟩),
    (w 0x0C6 0x3FF 2 0x3FF (xfm 0 0 0 0 1 4), .pref hd ⟨true, 4, .g 2⟩), (w 0x0C7 0x3FF 2 8 (xfm 0 0 4 0 0 4), .flush hd ⟨true, 4, .g 2, .g 8⟩),
    (w 0x0C8 0x3FF 2 8 (xfm 0 0 3 0 0 4), .inval hd ⟨false, 4, .g 2, .g 8⟩), (w 0x0D0 4 2 8 (xfm 2 0 2 3 0x66 4), .atom hd ⟨.exch, .b4, .n32, ⟨.virt, 4, .g 2⟩, .ar, .die, .g 4, .g 8⟩),
    (w 0x0D1 4 2 8 (xfm 2 0 3 1 6 4), .acas hd ⟨.b4, .n32, ⟨.virt, 4, .g 2⟩, .acq, .pkg, .g 4, .g 8⟩),
    (w 0x0D2 0x3FF 2 8 (xfm 2 0 3 2 0x36 4), .red hd ⟨.and, .b4, .n32, ⟨.virt, 4, .g 2⟩, .rel, .pkg, .zero, .g 8⟩),
    (w 0x0E0 0x3FF 0x3FF 0x3FF (xfm 0 0 2 3 0 0), .fence hd .ar .die), (w 0x0E1 0x3FF 3 0x3FF (xfm 0 3 0 0 0 12), .marm hd ⟨.prv, 12, .g 3⟩),
    (w 0x0E2 4 0x3FF 0x3FF (xfa 0x3FF 0), .mwait hd (.g 4)), (w 0x0E3 0x3FF 0x3FF 0x3FF (xfa 0x3FF 0), .bar hd), (w 0x0E4 0x3FF 0x165 0x3FF (xfa 0x3FF 64), .nbar hd ⟨.nb 5, .zero, 64⟩),
    (w 0x0E5 0x3FF 0x3FF 0x3FF (xfa 0x3FF 0), .ssb hd), (w 0x0E8 4 2 8 (xfm 0 0 0 0 0 128), .pinw hd ⟨128, .g 4, .g 2, .g 8⟩),
    (w 0x0E9 0x3FF 2 8 (xfm 0 0 0 0 0 128), .unpinw hd ⟨128, .zero, .g 2, .g 8⟩)] = true := by decide +kernel
/-- Tenure and engine opcodes (R145, R174, R389): handles from 100h, accumulators from 140h, k from 080h. -/
theorem words_engine : readAll [
    (w 0x1A0 0x103 0x088 0x08A (xft 1000 0 0 0 0), .thopen hd ⟨1000, .h 3, .k 8, .k 10⟩), (w 0x1A1 0x14A 0x105 0x3FF 0x160000000, .tenr hd ⟨.die, true, true, .p 2, .h 5⟩),
    (w 0x1A2 0x3FF 0x105 0x3FF (xft 0 3 0 0 0), .trel hd .pkg (.h 5)), (w 0x1A3 0x106 0x105 0x088 (3 * 2 ^ 26), .tsplit hd ⟨3, .h 6, .h 5, .k 8⟩),
    (w 0x1A4 0x3FF 0x105 0x3FF (xft 0 4 0 0 0), .thclose hd .sys (.h 5)), (w 0x1A5 4 0x105 0x3FF 0, .ttest hd (.g 4) (.h 5)),
    (w 0x1B0 0x3FF 4 0x3FF (xft 513 0 0 0 0), .tidset hd 513 (.g 4)), (w 0x1B1 0x3FF 4 0x3FF (xft 513 0 0 0 0), .tidget hd 513 (.g 4)),
    (w 0x1B2 0x3FF 4 0x3FF (xft 513 0 0 0 0), .scaleb hd 513 (.g 4)), (w 0x1B3 0x14A 0x3FF 0x3FF 0, .mrsv hd (.p 2)), (w 0x1B4 0x3FF 0x3FF 0x3FF 0, .mrel hd),
    (w 0x1B5 0x142 0x088 0x08C (xft 20 3 4 0 0), .tmma hd ⟨20, ⟨.pkg, true, false, false⟩, .i8, false, .acc 2, .k 8, .k 12⟩),
    (w 0x1B6 0x142 0x088 0x3FF (xft 20 2 1 0 0), .tldacc hd ⟨20, ⟨.die, false, false, true⟩, .i8, false, .acc 2, .k 8, .zero⟩),
    (w 0x1B7 0x3FF 0x142 0x088 (xft 20 3 2 11 1), .tstacc hd ⟨20, ⟨.pkg, false, true, false⟩, .e4m3, true, .zero, .acc 2, .k 8⟩),
    (w 0x1B8 0x142 0x3FF 0x3FF 0, .tzacc hd (.acc 2)), (w 0x1B9 0x3FF 0x088 0x08C (xft 20 3 6 0 1), .tcvt hd ⟨20, ⟨.pkg, true, true, false⟩, .i8, true, .zero, .k 8, .k 12⟩),
    (w 0x1BA 4 6 0x3FF 0, .ttask hd (.g 4) (.g 6)), (w 0x1BB 4 0x088 0x3FF 0, .twaitk hd (.g 4) (.k 8))] = true := by decide +kernel
/-- Scheduling, copies, channels and collectives (R84, Tables 9.2, 9.3, R199, R328, R207). -/
theorem words_work : readAll [
    (w 0x1C0 4 0x3FF 0x3FF 40, .rgrow hd (.g 4) 40), (w 0x1C1 4 0x3FF 0x3FF 40, .rshrink hd (.g 4) 40), (w 0x1C4 4 2 0x3FF 0xFFFFE0, .spawn hd (.g 4) (.g 2) 0xFFFFE0),
    (w 0x1C5 4 2 0x3FF 32, .joindec hd (.g 4) (.g 2) 32), (w 0x1C6 4 2 0x3FF 128, .launch hd (.g 4) (.g 2) 128),
    (w 0x1D0 4 6 0x088 (xfa 0x3FF (1 * 2 ^ 32 + 1 * 2 ^ 30 + 0 * 2 ^ 28 + 300 * 2 ^ 19 + 3 * 2 ^ 16 + 2 ^ 15)), .acopy hd ⟨.b8, .scr, .virt, 300, .pkg, true, false, .g 4, .g 6, .k 8⟩),
    (w 0x1D1 0x08F 0x088 0x092 (xft 12 3 4 10 1 + 2 ^ 22 + 2 ^ 20), .acopyt hd ⟨12, ⟨.pkg, true, false, false⟩, .bf16, true, true, false, true, .k 15, .k 8, .k 18⟩),
    (w 0x1D2 0x08F 0x088 0x091 (xft 12 2 2 0 0 + 4 * 2 ^ 25), .acopyr hd ⟨12, ⟨.die, false, true, false⟩, .or, false, .k 15, .k 8, .k 17⟩),
    (w 0x1D3 4 0x088 0x089 (xfa 0x08A 0), .cmwait hd ⟨.g 4, .k 8, .k 9, .k 10⟩), (w 0x1D4 0x14A 0x088 0x089 (xfa 0x08A 0), .cmtest hd ⟨.p 2, .k 8, .k 9, .k 10⟩),
    (w 0x1D8 4 0x153 0x088 (xfa 0x3FF 0), .csend hd (.g 4) (.ch 3) (.k 8)), (w 0x1D9 4 0x153 0x088 (xfa 0x3FF 0), .crecv hd (.g 4) (.ch 3) (.k 8)),
    (w 0x1DA 0x14A 0x153 0x3FF (xfa 0x3FF (2 ^ 33)), .cpoll hd true (.p 2) (.ch 3)), (w 0x1E0 4 0x088 0x3FF 0, .hlred hd (.g 4) (.k 8)), (w 0x1E1 4 0x088 0x3FF 0, .hlgath hd (.g 4) (.k 8)),
    (w 0x1E2 4 0x088 0x3FF 0, .hlrot hd (.g 4) (.k 8)), (w 0x1E3 4 0x088 0x3FF 0, .hlwait hd (.g 4) (.k 8)), (w 0x1E4 4 0x088 0x3FF 0, .hlstat hd (.g 4) (.k 8))] = true := by decide +kernel
/-- Pennants and system opcodes (R253, R380, R388, R395, R332, R398). -/
theorem words_system : readAll [
    (w 0x1E8 4 2 8 (xfa 0x3FF (37 * 2 ^ 28 + 2 ^ 27)), .pnsend hd 37 true (.g 4) (.g 2) (.g 8)), (w 0x1E9 4 2 0x3FF (xfa 0x3FF 0), .pnmask hd (.g 4) (.g 2)),
    (w 0x1EA 4 0x3FF 0x3FF (xfa 0x3FF (2 ^ 33)), .pnpend hd true (.g 4)), (w 0x1EB 4 0x3FF 0x3FF 63, .pnack hd (.g 4) 63), (w 0x1EC 0x3FF 0x3FF 0x3FF (xfa 0x3FF 0), .pnret hd),
    (w 0x1ED 4 2 0x3FF (xfa 0x3FF 0), .pnwait hd (.g 4) (.g 2)), (w 0x1F0 4 0x3FF 0x3FF (xfa 0x3FF (2 ^ 32 + 0x3010)), .srd hd ⟨.bar, 0x3010, .g 4, .zero⟩),
    (w 0x1F1 0x3FF 4 8 (xfa 0x3FF (2 * 2 ^ 32 + 0x085)), .swr hd ⟨.thr, 0x085, .g 4, .g 8⟩), (w 0x1F2 0x3FF 0x3FF 0x3FF 0x80000003, .svc hd 0x80000003),
    (w 0x1F3 0x3FF 0x3FF 0x3FF (xfa 0x3FF 0), .sret hd), (w 0x1F4 0x3FF 4 8 (xfa 0x3FF 0), .tlbi hd .va (.g 4) (.g 8)), (w 0x1F5 4 2 8 (xfa 9 0), .dcap hd .dlg (.g 4) (.g 2) (.g 8) (.g 9)),
    (w 0x1F6 0x3FF 0x3FF 0x3FF 5, .trig hd 5)] = true := by decide +kernel

/-! ### Witnesses: states and operands that meet the hypotheses of the statements -/

/-- A word placed where a machine fetches. -/
def placed (w : IWord) : State := State.reset.withFetchWord 96 w.toNat
/-- NOP. -/
def nopWord : IWord := word 0x088 7 0 0 0 0x3FF 0x3FF 0x3FF (0x3FF * 2 ^ 34)
/-- The latched path of a placed word. -/
def firstIssue (s : State) : Issue := s.issue.headD { w := w0, lanes := 0, pc := 0 }
/-- A result that is no trap. -/
def isOk {ε α : Type} : Except ε α → Bool
  | .ok _ => true
  | .error _ => false
theorem pairOk {σ ε α : Type} (p : σ × Except ε α) (h : isOk p.2 = true) : ∃ s a, p = (s, .ok a) := by
  obtain ⟨s, _ | a⟩ := p
  · exact absurd h Bool.false_ne_true
  · exact ⟨s, a, rfl⟩
theorem pairSome {σ α : Type} (p : σ × Option α) (h : p.2.isSome = true) : ∃ s a, p = (s, some a) := by
  obtain ⟨s, _ | a⟩ := p
  · exact absurd h Bool.false_ne_true
  · exact ⟨s, a, rfl⟩
/-- A step that goes on. -/
def goes (o : Host.Outcome State Fault Refusal) : Bool :=
  match o with
  | .next _ => true
  | _ => false
theorem goes_next (o : Host.Outcome State Fault Refusal) (h : goes o = true) : ∃ t, o = .next t := by
  cases o with
  | next t => exact ⟨t, rfl⟩
  | fault r => exact absurd h Bool.false_ne_true
  | refused r => exact absurd h Bool.false_ne_true

theorem wit_DecodeInvertsEncode : (Instr.nop hd).isWord = true ∧ WellFormed (.nop hd) := by decide
theorem wit_EncodeInvertsDecode : ∃ i, decode nopWord = .ok i := ⟨.nop hd, rfl⟩
theorem wit_StepKeepsMemoryCanonical : State.reset.mem.wf = true ∧ ∃ t, step State.reset = .next t :=
  ⟨by decide, goes_next _ (by decide +kernel)⟩
/-- A latched path whose instruction is fetched; one whose fetch traps; an event due; nothing due. -/
theorem wit_StepRunsDecoded :
    (∃ q qs s' i, (placed nopWord).issue = q :: qs ∧ fetchPath { placed nopWord with issue := qs } q = (s', some i)) ∧
    (let q : Issue := { w := w0, lanes := 1, pc := 0x1000 }
     ∃ s', fetchPath { demoN 1 with issue := [] } q = (s', none) ∧ s'.stop = none) ∧
    (State.reset.issue = [] ∧ ({ State.reset with agenda := [.refreshTick] } : State).agenda = [.refreshTick]) ∧
    (State.reset.issue = [] ∧ State.reset.agenda = [] ∧ (newCycle State.reset).stop = none) := by
  refine ⟨?_, ?_, ⟨rfl, rfl⟩, rfl, rfl, by decide +kernel⟩
  · have h : (placed nopWord).issue = [firstIssue (placed nopWord)] := by decide +kernel
    obtain ⟨s', i, e⟩ := pairSome (fetchPath { placed nopWord with issue := [] } (firstIssue (placed nopWord))) (by decide +kernel)
    exact ⟨_, _, s', i, h, e⟩
  · refine ⟨(fetchPath { demoN 1 with issue := [] } { w := w0, lanes := 1, pc := 0x1000 }).1, Prod.ext rfl ?_, by decide +kernel⟩
    decide +kernel
/-- The bytes of the latched path are fetched and decode. -/
theorem wit_StepRunsDecoded_fetch :
    let s := placed nopWord
    let q := firstIssue s
    let ls := (lanesOf q.lanes).filter (fun l => (thrAt s q.w l).st == .running && (thrAt s q.w l).pc == q.pc)
    ls ≠ [] ∧ heldWord s q.w (maskOf ls.contains) = none ∧ (match fetchBytes s q.w.core (grp s q.w).ctx q.pc with
      | (s', .ok (bs, user)) => (gateTraps s' q.w (maskOf ls.contains) user).isEmpty && isOk (decode (wordOfBytes bs))
      | _ => false) = true := by decide +kernel

theorem wit_WrappingArithmeticWritesResult : Ready (demoN 2) (.iadd hd { ty := .i32, d := .g 5, a := .g 4, b := .g 2 }) (path 2) (warp 2 thr) ∧
    Ready (demoN 2) (.isubImm hd { ty := .n64, d := .g 20, a := .g 6, imm := 1 }) (path 2) (warp 2 thr) ∧
    Ready (demoN 2) (.imad hd { ty := .i64, d := .k 12, a := .g 6, b := .k 10, c := .zero }) (path 2) (warp 2 thr) ∧
    Ready (demoN 2) (.leaImm hd { ty := .n64, d := .g 10, a := .g 6, b := .g 8, imm := 7 }) (path 2) (warp 2 thr) ∧ tyInt .i64 = true :=
  ⟨readyN _ rfl, readyN _ rfl, readyN _ rfl, readyN _ rfl, rfl⟩
theorem wit_LogicWritesBitwiseResult : Ready (demoN 2) (.xor hd { ty := .n32, d := .g 5, a := .g 4, b := .g 2 }) (path 2) (warp 2 thr) ∧
    Ready (demoN 2) (.andImm hd { ty := .i64, d := .g 20, a := .g 6, imm := -1 }) (path 2) (warp 2 thr) ∧
    Ready (demoN 2) (.not hd { ty := .n64, d := .g 20, a := .g 6 }) (path 2) (warp 2 thr) := ⟨readyN _ rfl, readyN _ rfl, readyN _ rfl⟩
theorem wit_ShiftsWriteShiftedValue : Ready (demoN 2) (.shr hd { ty := .i32, d := .g 5, a := .g 4, b := .g 8 }) (path 2) (warp 2 thr) ∧
    Ready (demoN 2) (.rotImm hd { ty := .n64, d := .g 20, a := .g 6, imm := 64 }) (path 2) (warp 2 thr) ∧ tyNat .n64 = true :=
  ⟨readyN _ rfl, readyN _ rfl, rfl⟩
theorem wit_BitFieldsWriteExtractAndInsert : Ready (demoN 2) (.bfx hd { ty := .i32, d := .g 5, a := .g 4, b := .g 12 }) (path 2) (warp 2 thr) ∧
    Ready (demoN 2) (.bfiImm hd { ty := .n64, d := .g 20, a := .g 6, b := .g 2, imm := 0 }) (path 2) (warp 2 thr) := ⟨readyN _ rfl, readyN _ rfl⟩
theorem wit_BitCountsAndReverse : Ready (demoN 2) (.popc hd { ty := .n64, d := .g 5, a := .g 6 }) (path 2) (warp 2 thr) ∧
    Ready (demoN 2) (.clz hd { ty := .n32, d := .g 5, a := .zero }) (path 2) (warp 2 thr) ∧
    Ready (demoN 2) (.brev hd { ty := .n64, d := .g 20, a := .g 6 }) (path 2) (warp 2 thr) := ⟨readyN _ rfl, readyN _ rfl, readyN _ rfl⟩
theorem wit_MinMaxAbsByTypesOrder : Ready (demoN 2) (.imin hd { ty := .n32, d := .g 5, a := .g 4, b := .g 2 }) (path 2) (warp 2 thr) ∧
    Ready (demoN 2) (.imaxImm hd { ty := .i64, d := .g 20, a := .g 6, imm := -1 }) (path 2) (warp 2 thr) ∧
    Ready (demoN 2) (.iabs hd { ty := .i64, d := .g 20, a := .g 6 }) (path 2) (warp 2 thr) ∧ tySigned .i64 = true :=
  ⟨readyN _ rfl, readyN _ rfl, readyN _ rfl, rfl⟩
theorem wit_ComparesWriteAllRelations : Ready (demoN 2) (.icmp hd { ty := .i64, d := .p 4, a := .g 6, b := .g 6 }) (path 2) (warp 2 thr) ∧
    Ready (demoN 2) (.fcmpImm hd { ty := .f32, d := .g 5, a := .g 4, imm := 0 }) (path 2) (warp 2 thr) := ⟨readyN _ rfl, readyN _ rfl⟩
theorem wit_MovesWriteValueOrBitZero : Ready (demoN 2) (.mov hd { ty := .n32, d := .p 7, a := .g 2 }) (path 2) (warp 2 thr) ∧
    Ready (demoN 2) (.movi hd { ty := .i64, d := .g 20, imm := -1 }) (path 2) (warp 2 thr) ∧
    Ready (demoN 2) (.sel hd { ty := .n64, d := .g 20, a := .p 1, b := .g 6, c := .g 2 }) (path 2) (warp 2 thr) :=
  ⟨readyN _ rfl, readyN _ rfl, readyN _ rfl⟩
theorem wit_ConversionsWriteConvertedValue : Ready (demoN 2) (.cvt hd { ty := .i8, sty := .i64, sat := true, d := .g 5, a := .g 6 }) (path 2) (warp 2 thr) ∧
    Ready (demoN 2) (.cvtf hd { ty := .e4m3, sty := .f32, sat := false, d := .g 5, a := .g 4 }) (path 2) (warp 2 thr) := ⟨readyN _ rfl, readyN _ rfl⟩
theorem wit_FloatArithmeticRoundsOnce : Ready (demoN 2) (.fadd hd { ty := .f32, d := .g 5, a := .g 4, b := .g 2 }) (path 2) (warp 2 thr) ∧
    Ready (demoN 2) (.ffmaImm hd { ty := .bf16, d := .g 5, a := .g 4, b := .g 2, imm := 0x3F800000 }) (path 2) (warp 2 thr) ∧
    Ready (demoN 2) (.vfma2 hd { ty := .f16, d := .g 5, a := .g 4, b := .g 2, c := .zero }) (path 2) (warp 2 thr) :=
  ⟨readyN _ rfl, readyN _ rfl, readyN _ rfl⟩
theorem wit_FloatSelectSignAndClass : Ready (demoN 2) (.fmin hd { ty := .f32, d := .g 5, a := .g 4, b := .g 2 }) (path 2) (warp 2 thr) ∧
    Ready (demoN 2) (.fclass hd { ty := .e5m2, d := .g 5, a := .g 4 }) (path 2) (warp 2 thr) := ⟨readyN _ rfl, readyN _ rfl⟩
theorem wit_SingleSourceFunctionsComplete : Ready (demoN 2) (.fsqrt hd { ty := .f32, d := .g 5, a := .g 2 }) (path 2) (warp 2 thr) := readyN _ rfl

theorem wit_FalseGuardOnlyIssues : Ready (demoN 2) (.plop hdOff { lut := 1, d := .p 5, a := .p 2, b := .p 3 }) (path 2) (warp 2 thr) ∧
    activeLanes (demoN 2) (path 2) hdOff = [] := ⟨readyN _ rfl, by decide +kernel⟩
theorem wit_UnacceptedTypeTraps : Ready (demoN 1) (.iadd hd { ty := .f32, d := .g 5, a := .g 4, b := .g 2 }) (path 1) (warp 1 thr) ∧
    Handled (demoN 1) hd (path 1) (warp 1 thr) 0x040 ∧ tyInt .f32 = false ∧
    Ready (demoN 1) (.cvt hd { ty := .f32, sty := .i32, sat := false, d := .g 5, a := .g 4 }) (path 1) (warp 1 thr) :=
  ⟨ready1 _ rfl, handled1 _ rfl rfl (by decide), rfl, ready1 _ rfl⟩
/-- g64 at the allocation of 64 registers; s.lane as a destination. -/
theorem wit_OperandChecksTrapFirst : (demoN 1).stop = none ∧ warpAt (demoN 1) (path 1).w = some (warp 1 thr) ∧
    gTop (Instr.uses (.iadd hd { ty := .i32, d := .g 64, a := .g 4, b := .g 2 })) > (warp 1 thr).alloc ∧
    writesS (Instr.uses (.iadd hd { ty := .i32, d := .s .lane, a := .g 4, b := .g 2 })) = true ∧ Handled (demoN 1) hd (path 1) (warp 1 thr) 0x022 ∧
    Handled (demoN 1) hd (path 1) (warp 1 thr) 0x023 :=
  ⟨rfl, rfl, by decide, rfl, handled1 _ rfl rfl (by decide), handled1 _ rfl rfl (by decide)⟩
/-- A trap in the handler, one that always parks, and BRK. -/
theorem wit_TrapsDeliveredByCodeAndState : warpAt (demo (warp 1 { thr with inh := true }) (path 1) group 0) w0 = some (warp 1 { thr with inh := true }) ∧
    warpAt (demoN 1) w0 = some (warp 1 thr) ∧ (0x162 : Nat) < 512 ∧ dieOf w0.core < 8 ∧ (∀ tr ∈ (demoN 1).trace.toList, tr.live = false) ∧
    Ready (demoN 1) (.brk hd 0) (path 1) (warp 1 thr) ∧ Handled (demoN 1) hd (path 1) (warp 1 thr) 0x160 :=
  ⟨rfl, rfl, by decide, by decide, by decide, ready1 _ rfl, handled1 _ rfl rfl (by decide)⟩
theorem wit_OperandsRead : Ready (demoN 2) (.nop hd) (path 2) (warp 2 thr) ∧ 1 ∈ activeLanes (demoN 2) (path 2) hd := ⟨readyN _ rfl, by decide +kernel⟩
/-- RGN outside the handler; TRET inside it. -/
theorem wit_NopYieldRgnTretPlopChangeThreadsAlone : Ready (demoN 2) (.rgn hd) (path 2) (warp 2 thr) ∧
    (let x := warp 1 { thr with inh := true }
     Ready (demo x (path 1) group 0) (.tret hd true) (path 1) x ∧ ∀ l ∈ activeLanes (demo x (path 1) group 0) (path 1) hd, (x.thr l).inh = true) ∧
    Handled (demoN 1) hd (path 1) (warp 1 thr) 0x164 ∧
    Ready (demoN 2) (.plop hd { lut := 1, d := .p 5, a := .p 2, b := .p 3 }) (path 2) (warp 2 thr) :=
  ⟨readyN _ rfl, ⟨ready _ _ _ _ rfl rfl rfl rfl rfl rfl (by decide +kernel), by decide +kernel⟩, handled1 _ rfl rfl (by decide), readyN _ rfl⟩
/-- g8:g9 = 32 is a multiple of 4 and g2:g3 = 5 is none. -/
theorem wit_BranchesSetProgramCounter : Ready (demoN 2) (.bra hd 5) (path 2) (warp 2 thr) ∧ (traced (demoN 2) w0 && (traceOf (demoN 2) 0).brs) = false ∧
    Ready (demoN 1) (.jmpr hd (.g 8)) (path 1) (warp 1 thr) ∧
    (∀ l ∈ activeLanes (demoN 1) (path 1) hd, operand (demoN 1) (path 1) hd l (.g 8) true % 4 = 0) ∧
    (∀ l ∈ activeLanes (demoN 1) (path 1) hd, operand (demoN 1) (path 1) hd l (.g 2) true % 4 ≠ 0) ∧
    Handled (demoN 1) hd (path 1) (warp 1 thr) 0x0AE :=
  ⟨readyN _ rfl, by decide, ready1 _ rfl, by decide +kernel, by decide +kernel, handled1 _ rfl rfl (by decide)⟩

/-! A page and a private arena: virtual addresses below 2^30 map to themselves, with frames of 2 MiB from 20_0000h. -/

/-- The page. -/
def page : Page :=
  { ctx := 1, va := 0, size := 2 ^ 30, pa := 0, w := true, x := true, u := true, grain := 128, sc := false, host := false, c := true
    tiled := false, ts := 0 }
/-- The context: a handler, frames, vaults and an identifier table at 8_0000h. -/
def ctx1 : Ctx := { trapentry := 0x4000, pfbase := 0x200000, pfctl := 21, vlten := true, tidbase := 0x80000, svcentry := 0x5000 }
/-- The small state with the page cached by the core and the die. -/
def mapped (x : Warp) (c : Cursor) (g : Group) (rcd : BitVec 1024) (m : Memory) : State :=
  { demo x c g rcd with
    mem := m, ctxs := [(1, ctx1)]
    ms := { tlb := [(0, [{ page := page, use := 0 }])], tcache := (Vector.replicate 8 []).setIfInBounds 0 [{ page := page, use := 0 }] } }
/-- A warp with a private high-water mark. -/
def mwarp (t : Thread) : Warp := { warp 1 t with hwm := 4 }
/-- One thread over a memory. -/
def mapped1 (m : Memory) : State := mapped (mwarp thr) (path 1) group 0 m
theorem readyM (m : Memory) (i : Instr) (h : operandTrap (Instr.uses i) 64 = none) : Ready (mapped1 m) i (path 1) (mwarp thr) :=
  ready _ _ _ _ rfl rfl rfl rfl rfl h (by decide +kernel)
theorem soloM (m : Memory) (i : Instr) (h : operandTrap (Instr.uses i) 64 = none) (ha : activeLanes (mapped1 m) (path 1) hd = [0]) :
    Solo (mapped1 m) i hd (path 1) (mwarp thr) 0 := { readyM m i h with alone := ha }
/-- The depth of lane 0's call stack is 1 and its entry is 2000h. -/
def oneCall : Memory := [(0x200000, 1), (0x200101, 0x20)]
/-- The chain of accesses of a call or return comes out with depth d. -/
def callChain (s : State) (d : Nat) (next : Nat) : Bool :=
  match privCheck (issuedState s (path 1) hd) (acting s (path 1) hd) 0 0 4 true with
  | (s0, .ok a0) =>
    match loadBytes s0 w0 0 a0 1 false with
    | (s1, bs) => bs == toBytes 4 d && isOk (privCheck s1 (acting s (path 1) hd) 0 next 8 true).2
  | _ => false
theorem wit_CallsPushAndReturnsPop :
    Solo (mapped1 []) (.call hd 5) hd (path 1) (mwarp thr) 0 ∧ callChain (mapped1 []) 0 8 = true ∧
    operand (mapped1 []) (path 1) hd 0 (.g 8) true % 4 = 0 ∧
    Solo (mapped1 oneCall) (.ret hd) hd (path 1) (mwarp thr) 0 ∧ callChain (mapped1 oneCall) 1 8 = true ∧
    Handled (mapped1 []) hd (path 1) (mwarp thr) 0x14B :=
  ⟨soloM _ _ rfl (by decide +kernel), by decide +kernel, by decide +kernel, soloM _ _ rfl (by decide +kernel), by decide +kernel,
    handled (by decide +kernel)⟩
/-- A word in memory. -/
def cellsAt (k : Nat) (w : IWord) : Memory :=
  ((List.range 12).map fun i => (k + i, BitVec.ofNat 8 (w.toNat / 256 ^ i))).filter fun e => e.2 != 0
/-- Two NOPs after 1000h. -/
def nops : Memory := cellsAt 0x100C nopWord ++ cellsAt 0x1018 nopWord
theorem wit_PblkStartsBlock : Ready (mapped1 nops) (.pblk hd { cnt := 1, pat := 1, d := .p 1 }) (path 1) (mwarp thr) ∧
    (let r := coveredWords (issuePath (mapped1 nops) (path 1) hd) (path 1) 2 (0x1000 + 12)
     isOk r.2 = true ∧ r.1.stop = none) := ⟨readyM _ _ rfl, by decide +kernel⟩

/-! Loads, stores and atomics. -/

/-- Address operands: [g8+4] in scratch, [g8:g9+4] in the virtual and vault spaces, and [g8+4] in the private one. -/
def at4 (sp : Space) : AddrOps := { sp := sp, off := 4, a := .g 8 }
def ldAt (sp : Space) : LdOps := { addr := at4 sp, size := .b4, fmt := .i32, sc := .grp, d := .g 20 }
def stAt (sp : Space) : StOps := { addr := at4 sp, size := .b4, fmt := .n32, sc := .grp, b := .g 4 }
/-- Scratch at its last word of 1 KiB, and a vault byte below 3 x 2^24 (R99, R101). -/
theorem wit_ScratchAndVaultLoadsWriteBytes :
    (let s := demo (warp 2 (thr.setReg 8 1020)) (path 2) group 0
     Ready s (.ld hd { ldAt .scr with addr := { at4 .scr with off := 0 } }) (path 2) (warp 2 (thr.setReg 8 1020)) ∧
     ∀ l ∈ activeLanes s (path 2) hd, operand s (path 2) hd l (.g 8) false = 1020 ∧ 1020 % 4 = 0 ∧ 1020 + 4 ≤ 256 * (grp s w0).scr ∧
       scrOwn s w0 l ((List.range 4).map (1020 + ·)) = none) ∧
    (Ready (mapped1 []) (.ld hd (ldAt .vlt)) (path 1) (mwarp thr) ∧ (ctxOf (mapped1 []) (grp (mapped1 []) w0).ctx).vlten = true ∧
      (mapped1 []).ms.releases = [] ∧ (∀ ln, (mapped1 []).ms.lineVc.getD ln [] = []) ∧ ∀ l ∈ activeLanes (mapped1 []) (path 1) hd, operand (mapped1 []) (path 1) hd l (.g 8) true = 32) :=
  ⟨⟨ready _ _ _ _ rfl rfl rfl rfl rfl rfl (by decide +kernel), by decide +kernel⟩, readyM _ _ rfl, rfl, rfl, fun _ => rfl, by decide +kernel⟩
theorem wit_LoadsAndStoresComplete :
    (∀ sp ∈ [Space.virt, .scr, .vlt, .prv], isOk (loadAcc (issuedState (mapped1 []) (path 1) hd) (acting (mapped1 []) (path 1) hd) 0 (at4 sp) 4).2 = true ∧
      isOk (storeAcc (issuedState (mapped1 []) (path 1) hd) (acting (mapped1 []) (path 1) hd) 0 (at4 sp) 4).2 = true ∧
      (accNeed true (loadAcc (mapped1 []) (acting (mapped1 []) (path 1) hd) 0 (at4 sp) 4) w0 0 (mapped1 [])).isNone = true ∧
      (accNeed true (storeAcc (mapped1 []) (acting (mapped1 []) (path 1) hd) 0 (at4 sp) 4) w0 0 (mapped1 [])).isNone = true) ∧
    Solo (mapped1 []) (.ld hd (ldAt .virt)) hd (path 1) (mwarp thr) 0 ∧ Solo (mapped1 []) (.ldacq hd (ldAt .virt)) hd (path 1) (mwarp thr) 0 ∧
    (mapped1 []).ms.releases = [] ∧ Solo (mapped1 []) (.st hd (stAt .prv)) hd (path 1) (mwarp thr) 0 ∧
    Solo (mapped1 []) (.stq hd { addr := { at4 .virt with off := 0 }, sc := .grp, b := .g 4 }) hd (path 1) (mwarp thr) 0 :=
  ⟨by decide +kernel, soloM _ _ rfl (by decide +kernel), soloM _ _ rfl (by decide +kernel), rfl, soloM _ _ rfl (by decide +kernel),
    soloM _ _ rfl (by decide +kernel)⟩
/-- An access of four bytes at 20h through the page. -/
def acc4 : Acc := { sp := .virt, keys := [32, 33, 34, 35], page := some page, va := 32 }
theorem wit_LoadsReturnCurrentBytes : (mapped1 []).ten = [] ∧ (mapped1 []).ms.hostLines = [] ∧ (∀ k ∈ acc4.keys, k < 2 ^ 52) ∧ atHome page = false ∧
    (∀ k ∈ acc4.keys, homeDie k = dieOf w0.core ∧ l1Byte (mapped1 []) 0 k = none) ∧ l1Of (mapped1 []) 0 = [] ∧
    acc4.keys = (List.range 4).map (32 + ·) ∧ page.grain ∈ [32, 128, 512] := by decide +kernel
theorem wit_StoresPlaceBytes : warpAt (mapped1 []) w0 = some (mwarp thr) ∧ acc4.keys.Nodup ∧ (mapped1 []).mem.wf = true ∧
    ((mapped1 []).groups.get? (mwarp thr).gid).isSome ∧ (grp (mapped1 []) w0).scratch.wf = true ∧ (∀ k ∈ acc4.keys, k / 512 = 0) ∧
    (∀ k ∈ [2 ^ 53, 2 ^ 53 + 1], 2 ^ 53 ≤ k) := ⟨rfl, by decide, rfl, rfl, rfl, by decide, by decide⟩
/-- An odd address, and an aligned one at 2^57. -/
theorem wit_MisalignedAccessTraps :
    (let t := (thr.setReg 8 33).setReg 9 0
     let s := demo (warp 1 t) (path 1) group 0
     Ready s (.st hd { stAt .virt with addr := { at4 .virt with off := 0 } }) (path 1) (warp 1 t) ∧ Handled s hd (path 1) (warp 1 t) 0x0A0 ∧
     ∀ l ∈ activeLanes s (path 1) hd, operand s (path 1) hd l (.g 8) true = 33) ∧
    (let t := (thr.setReg 8 0).setReg 9 0x2000000
     let s := demo (warp 1 t) (path 1) group 0
     Ready s (.ld hd { ldAt .virt with addr := { at4 .virt with off := 0 } }) (path 1) (warp 1 t) ∧ Handled s hd (path 1) (warp 1 t) 0x061 ∧
     ∀ l ∈ activeLanes s (path 1) hd, operand s (path 1) hd l (.g 8) true = 2 ^ 57) :=
  ⟨⟨ready _ _ _ _ rfl rfl rfl rfl rfl rfl (by decide +kernel), handled (by decide +kernel), by decide +kernel⟩,
    ready _ _ _ _ rfl rfl rfl rfl rfl rfl (by decide +kernel), handled (by decide +kernel), by decide +kernel⟩
/-- ATOM and ACAS on scratch and through the page. -/
def atomAt (sp : Space) : AtomOps := { op := .max, size := .b4, fmt := .i32, addr := at4 sp, ord := .ar, sc := .die, d := .g 20, b := .g 2 }
def acasAt (sp : Space) : AcasOps := { size := .b4, fmt := .n32, addr := at4 sp, ord := .none, sc := .grp, d := .g 20, b := .g 6 }
theorem wit_AtomicsReadAndWrite :
    Solo (mapped1 []) (.atom hd (atomAt .virt)) hd (path 1) (mwarp thr) 0 ∧ Solo (mapped1 []) (.acas hd (acasAt .scr)) hd (path 1) (mwarp thr) 0 ∧
    (mapped1 []).ms.owners = [] ∧ (∀ sp ∈ [Space.virt, .scr, .vlt], isOk (atomAcc (issuedState (mapped1 []) (path 1) hd)
      (acting (mapped1 []) (path 1) hd) 0 (at4 sp) 4 .grp).2 = true ∧
      (accNeed true (atomAcc (mapped1 []) (acting (mapped1 []) (path 1) hd) 0 (at4 sp) 4 .grp) w0 0 (mapped1 [])).isNone = true) ∧ (grp (mapped1 []) w0).scratch.wf = true :=
  ⟨soloM _ _ rfl (by decide +kernel), soloM _ _ rfl (by decide +kernel), rfl, by decide +kernel, rfl⟩

/-! Fences, lines, watches and events of the memory system. -/

/-- A state that has stored at 20h: a dirty byte in the L1. -/
def stored : State := { after (exec (.st hd { stAt .virt with addr := { at4 .virt with off := 0 } }) (mapped1 [])) with cur := some (path 1) }
def rng : RangeOps := { sys := false, off := 0, a := .g 8, b := .g 2 }
def pin : PinOps := { off := 0, d := .g 20, a := .g 8, b := .g 2 }
theorem wit_FenceAndLineMaintenance :
    Solo (mapped1 []) (.fence hd .ar .pkg) hd (path 1) (mwarp thr) 0 ∧ hasHeld (mapped1 []) w0 0 = false ∧
    Solo (mapped1 []) (.pref hd { l2 := false, off := 0, a := .g 8 }) hd (path 1) (mwarp thr) 0 ∧
    cachedPage (mapped1 []) 0 1 32 = some page ∧ cachedPage (demoN 1) 0 1 32 = none ∧
    Solo (mapped1 []) (.inval hd rng) hd (path 1) (mwarp thr) 0 ∧ Solo (mapped1 []) (.pinw hd pin) hd (path 1) (mwarp thr) 0 ∧
    operand (mapped1 []) (path 1) hd 0 (.g 2) false = 5 ∧ 32 % 128 + 5 ≤ 128 ∧
    isOk (virtAcc (settlePosted (issuedState (mapped1 []) (path 1) hd) w0 0) w0 32 1).2 = true :=
  ⟨soloM _ _ rfl (by decide +kernel), by decide +kernel, soloM _ _ rfl (by decide +kernel), rfl, by decide +kernel,
    soloM _ _ rfl (by decide +kernel), soloM _ _ rfl (by decide +kernel), by decide +kernel, by decide, by decide +kernel⟩
/-- Warps whose thread watches a block, without and with an event, and one that sleeps. -/
def watching (e : Option Nat) (st : TState) : Warp := mwarp { thr with watch := some { block := 0, len := 128, event := e, page := page }, st := st }
theorem wit_WatchesSleepAndWake :
    Solo (mapped1 []) (.marm hd (at4 .virt)) hd (path 1) (mwarp thr) 0 ∧
    isOk (loadAcc (issuedState (mapped1 []) (path 1) hd) (acting (mapped1 []) (path 1) hd) 0 (at4 .virt) 1).2 = true ∧
    Ready (mapped1 []) (.marm hd (at4 .scr)) (path 1) (mwarp thr) ∧ Handled (mapped1 []) hd (path 1) (mwarp thr) 0x0A7 ∧
    (∀ e ∈ [none, some 0], Ready (mapped (watching e .running) (path 1) group 0 []) (.mwait hd (.g 20)) (path 1) (watching e .running)) ∧
    (∀ l ∈ activeLanes (mapped1 []) (path 1) hd, ((mwarp thr).thr l).watch = none) ∧
    (thrAt { mapped (watching (some 0) (.sleep (.g 20) 0)) (path 1) group 0 [] with cycle := 65536 } w0 0).st = .sleep (.g 20) 0 := by
  refine ⟨soloM _ _ rfl (by decide +kernel), by decide +kernel, readyM _ _ rfl,
    handled (by decide +kernel), fun e he => ?_, by decide +kernel, by decide +kernel⟩
  exact ready _ _ _ _ rfl rfl rfl rfl rfl rfl (by revert e; decide +kernel)
/-- A posted store of a superstep set; a write on its way to die 0's copy; a walk that is due; ownership asked for; a path that waits. -/
def busy : State :=
  { mapped1 [] with
    cycle := 9000
    ssets := [(2, { puts := 2 })]
    ms := { (mapped1 []).ms with
      posted := [{ w := w0, lane := 0, gid := 5, bytes := [], vault := true, sset := some 2 }]
      copies := [(0, [(0, List.replicate 128 0)])]
      forwards := (Vector.replicate 8 []).setIfInBounds 0 [{ line := 0, tag := 1, bytes := [(5, 7)], vc := [1, 0, 0, 0, 0, 0, 0, 0] }]
      walks := (Vector.replicate 8 []).setIfInBounds 0 [{ ctx := 1, va := 0x3000, core := 0, due := 10, pref := none }]
      ownWait := [(1, 128, true)]
      l1 := [(0, [(0, { dirty := [(5, { val := 7, at_ := 808, hint := 1, gid := 5, vc := [] })] })])] } }
theorem wit_MemoryEventsComplete :
    busy.stop = none ∧ l1Of busy 0 = [(0, { dirty := [(5, { val := 7, at_ := 808, hint := 1, gid := 5, vc := [] })] })] ∧
    808 + 8192 ≤ busy.cycle ∧ busy.mem.wf = true ∧ busy.ms.posted.length = 1 ∧ 1 < (busy.ssets.getD 2 {}).puts ∧
    forwardNext busy 0 = some 0 ∧ ((busy.ms.copies.getD 0 []).get? 0).isSome = true ∧ (busy.ms.walks.getD 0 []).length = 1 ∧
    (∀ q ∈ busy.ms.walks.getD 0 [], q.due ≤ busy.cycle ∧
      isOk (translate { busy with ms := { busy.ms with walks := busy.ms.walks.setIfInBounds 0 [] } } (some q.core) 0 q.ctx q.va).2 = true) ∧
    (busy.ms.ownWait.find? (fun q => q.2.1 == 128 && q.2.2)).isSome = true ∧
    (thrAt (mapped (mwarp { thr with st := .stall (.reissue (.room 0)) }) (path 1) group 0 []) w0 0).st = .stall (.reissue (.room 0)) := by
  decide +kernel

/-! Barriers, supersteps, exit and warp-wide instructions. -/

/-- A launch record with some bits set. -/
def rcd (bs : List (Nat × Nat)) : BitVec 1024 := BitVec.ofNat 1024 ((bs.map fun b => b.2 * 2 ^ b.1).foldl (· + ·) 0)
/-- Named barriers, a pool of two (R48). -/
def named : BitVec 1024 := rcd [(132, 1), (133, 1)]
theorem wit_BarriersArriveAndRelease :
    Ready (demoN 2) (.bar hd) (path 2) (warp 2 thr) ∧ (demoN 2).groups.get? (warp 2 thr).gid = some group ∧ lrec (demoN 2) group 132 132 = 0 ∧
    activeLanes (demoN 2) (path 2) hd ≠ [] ∧ Handled (demoN 1) hd (path 1) (warp 1 thr) 0x0E1 ∧
    Ready (demo (warp 1 thr) (path 1) group named) (.nbar hd { a := .nb 1, b := .zero, cnt := 1024 }) (path 1) (warp 1 thr) ∧
    lrec (demo (warp 1 thr) (path 1) group named) group 132 132 = 1 ∧
    (1 < lrec (demo (warp 1 thr) (path 1) group named) group 137 133 + 1) ∧ ¬2 < lrec (demo (warp 1 thr) (path 1) group named) group 137 133 + 1 ∧
    (group.nb.getD 1 {}).total = 0 :=
  ⟨readyN _ rfl, rfl, by decide +kernel, by decide +kernel, handled1 _ rfl rfl (by decide), ready _ _ _ _ rfl rfl rfl rfl rfl rfl (by decide +kernel),
    by decide +kernel, by decide +kernel, by decide +kernel, rfl⟩
/-- A launch in superstep set 2, and a group that has arrived. -/
def inSet : BitVec 1024 := rcd [(148, 2), (152, 1)]
def waitingWarp (b : BarKind) : Warp := warp 2 { thr with st := .barrier b }
theorem wit_SuperstepsWaitAndAdvance :
    Ready (demoN 1) (.ssb hd) (path 1) (warp 1 thr) ∧ lrec (demoN 1) group 152 152 = 0 ∧ Handled (demoN 1) hd (path 1) (warp 1 thr) 0x0E7 ∧
    (let s := { demo (warp 1 thr) (path 1) group inSet with ssets := [(2, { puts := 1 })] }
     Ready s (.ssb hd) (path 1) (warp 1 thr) ∧ ssetOf s group = some 2 ∧ 0 < (s.ssets.getD 2 {}).puts) ∧
    (let s := demo (waitingWarp .superstep) (path 2) { group with ssbArrived := true } inSet
     (s.ssets.getD 2 {}).puts = 0 ∧ (∃ m ∈ members s 2, 0 < m.2.live) ∧ ∀ m ∈ members s 2, m.2.emitted = m.2.total ∧ arrivedGroups s m.1 = m.2.live) ∧
    (let s := demo (waitingWarp .group) (path 2) group 0
     s.groups.get? 5 = some group ∧ deadlocked s 5 = true ∧ group.warps.Nodup ∧ bits (ctxOf s group.ctx).trapentry 56 2 ≠ 0 ∧
      (∀ w ∈ group.warps, w.quad < 4 ∧ w.slot < 8 ∧ (warpAt s w).map (·.gid) = some 5) ∧ ∀ t ∈ s.trace.toList, t.live = false) :=
  ⟨ready1 _ rfl, by decide +kernel, handled1 _ rfl rfl (by decide), ⟨ready _ _ _ _ rfl rfl rfl rfl rfl rfl (by decide +kernel), by decide +kernel, by decide +kernel⟩,
    by decide +kernel, by decide +kernel⟩
/-- Two of the warp's threads run and one exits; the last one exits; an exit that waits; a group that ends. -/
theorem wit_ExitEndsThreads :
    (let s := demo (warp 2 thr) (path 1) group 0
     Ready s (.exit hd) (path 1) (warp 2 thr) ∧ ssetOf s group = none ∧ 1 ∉ activeLanes s (path 1) hd ∧ ((warp 2 thr).thr 1).st = .running ∧ w0 ∈ group.warps) ∧
    (Ready (mapped1 []) (.exit hd) (path 1) (mwarp thr) ∧ (∀ j < 32, j ∉ activeLanes (mapped1 []) (path 1) hd → ((mwarp thr).thr j).st = .exited) ∧
      (∀ j ∈ activeLanes (mapped1 []) (path 1) hd, ((mwarp thr).thr j).pend = []) ∧ group.warps = [w0] ∧
      ((mapped1 []).ms.tcache.getD 0 []).find? (fun e => e.page.covers group.ctx 0) = some { page := page, use := 0 }) ∧
    (let x := { warp 2 thr with th := (warp 2 thr).th.setIfInBounds 0 { thr with st := .exiting } }
     let s := demo x (path 1) group 0
     (x.thr 0).st = .exiting ∧ (x.thr 0).pend = [] ∧ (x.thr 1).st = .running ∧ s.stop = none) ∧
    (let g := { group with ending := true, warps := [] }
     let s := { demo (warp 1 gone) (path 1) g 0 with warps := [], sched := (Vector.replicate 8 {}).setIfInBounds 0 { launches := [(3, { rcd := 0, ctx := 1, id := 9, emitted := 2, live := 2 })] } }
     s.groups.get? 5 = some g ∧ g.handles = [] ∧ s.ten = [] ∧ (engineOf s g.core).owner ≠ some 5 ∧ copiesOf s 5 = [] ∧ (launchOf s g.lti).map (·.live) = some 2) :=
  ⟨⟨ready _ _ _ _ rfl rfl rfl rfl rfl rfl (by decide +kernel), by decide +kernel, by decide +kernel, by decide +kernel, by decide⟩,
    ⟨readyM _ _ rfl, by decide +kernel, by decide +kernel, rfl, by decide +kernel⟩, by decide +kernel, by decide +kernel⟩
/-- k8 = 3 names lanes 0 and 1, which the path holds; and a thread that waits as a member. -/
theorem wit_MembersExchangeValues :
    Ready (demoN 2) (.vote hd { mode := .any, d := .p 0, a := .p 1, c := .k 8 }) (path 2) (warp 2 thr) ∧
    (∀ l ∈ lanesOf (path 2).lanes, l ∈ activeLanes (demoN 2) (path 2) hd ∧
      operand (demoN 2) (path 2) hd l (.k 8) false = (path 2).lanes.toNat) ∧
    (warp 2 thr).absent.get? (path 2).pc.toNat = none ∧ (∀ j < 32, match ((warp 2 thr).thr j).st with | .member _ _ => False | _ => True) ∧
    Ready (demoN 2) (.shfl hd { mode := .xor, ty := .n32, d := .g 5, a := .g 4, b := .k 10, c := .k 8 }) (path 2) (warp 2 thr) ∧
    Ready (demoN 2) (.wscan hd { op := .add, ty := .n32, d := .g 5, a := .g 2, c := .k 8, exc := true }) (path 2) (warp 2 thr) ∧
    wredType { op := .add, ty := .n32, d := .g 5, a := .g 2, c := .k 8, exc := true } = none ∧
    (let x := warp 2 { thr with st := .member (.wsync hd (.k 8)) 3 }
     (x.thr 1).pc = 0x1000 ∧ hasLane 3 1 = true ∧ x.gone 0x1000 = 0 ∧ ∀ j < 32, hasLane 3 j = true → (x.thr j).st = .member (.wsync hd (.k 8)) 3) := by
  refine ⟨readyN _ rfl, by decide +kernel, rfl, ?_, readyN _ rfl, readyN _ rfl, rfl, by decide +kernel⟩
  intro j hj
  have h : (match ((warp 2 thr).thr j).st with | .member _ _ => false | _ => true) = true := by
    revert j; decide +kernel
  revert h; cases ((warp 2 thr).thr j).st <;> simp

/-! Tenure and the matrix engine. -/

/-- A two-dimensional entry of 128 by 128 elements (Table 8.1). -/
def ent2 (f : Fmt) (base str : Nat) (scale : Nat) : Tensor :=
  BitVec.ofNat 1024 (base + 2 * 2 ^ 57 + f.code * 2 ^ 60 + 128 * 2 ^ 64 + 128 * 2 ^ 96 + str * 2 ^ 224 +
    (if scale = 0 then 0 else 0x40000 * 2 ^ 512 + scale * 2 ^ 569 + 5 * 2 ^ 571 + 4 * 2 ^ 576))
/-- Bytes in memory. -/
def cellsOf (a : Nat) (bs : List Byte) : Memory := ((List.range bs.length).map fun i => (a + i, bs.getD i 0)).filter fun e => e.2 != 0
/-- The table at 8_0000h: 0 an E4M3 matrix, 1 an FP32 one, 2 an E4M3 matrix with scales; at 100h a copy of entry 1. -/
def tiles : Memory :=
  cellsOf 0x100 (toBytes 128 (ent2 .f32 0x20000 512 0).toNat) ++ cellsOf 0x80000 (toBytes 128 (ent2 .e4m3 0x10000 128 0).toNat) ++
  cellsOf 0x80080 (toBytes 128 (ent2 .f32 0x20000 512 0).toNat) ++ cellsOf 0x80100 (toBytes 128 (ent2 .e4m3 0x10000 128 1).toNat)
/-- One thread over it, with k8 = k9 = k10 = 0, k11 = k12 = 32, k13 = 1, a handle h1 and an engine. -/
def tileWarp : Warp :=
  { mwarp ((thr.setReg 8 0x100).setReg 9 0) with
    k := (((Vector.replicate 64 0).setIfInBounds 11 32).setIfInBounds 12 32).setIfInBounds 13 1 }
def tileState (hs : Tab Handle) (ten : Tab Tenure) (e : Engine) : State :=
  { mapped tileWarp (path 1) { group with handles := hs } 0 tiles with ten := ten, engines := [(0, e)] }
theorem readyT (hs : Tab Handle) (ten : Tab Tenure) (e : Engine) (i : Instr) (h : operandTrap (Instr.uses i) 64 = none) :
    Ready (tileState hs ten e) i (path 1) tileWarp :=
  ready _ _ _ _ rfl rfl rfl rfl rfl h (by decide +kernel)
/-- A bound handle on 32 by 32 elements of entry 0. -/
def bound : Handle := { st := 1, fmt := .e4m3, base := 0x10000, ext := [128, 128], str := [0, 128], org := [0, 0], n := [32, 32] }
/-- The same, holding tenure 7. -/
def holds (st : Nat) : Handle := { bound with st := st, entry := some 7, trans := [(0, 2 ^ 30, 0)] }
/-- Tenure 7 of handle h1 of group 5. -/
def ten7 (w : Bool) (st : Nat) : Tenure := { gid := 5, handle := 1, write := w, st := st, foot := [(0x10000, 512)] }
def thop : ThopenOps := { tx := 0, d := .h 1, a := .k 8, b := .k 11 }
def tenrOps (t : Bool) : TenrOps := { sc := .pkg, w := true, tr := t, d := .p 0, a := .h 1 }
/-- A split along dimension 1 at 1 of 32. -/
def split1 : TsplitOps := { dim := 1, d := .h 2, a := .h 1, b := .k 13 }
theorem wit_HandleInstructionsComplete :
    (let s := tileState [] [] {}
     Ready s (.thopen hd thop) (path 1) tileWarp ∧ activeLanes s (path 1) hd ≠ [] ∧ scarpOk (tidAddr s 1 0 + 127) = true ∧
     (tidEntry s 1 0).empty = false ∧ (tidEntry s 1 0).rank = 2 ∧
     ∀ d < 2, (tileWarp.kreg (11 + d)).toNat ≠ 0 ∧ (tileWarp.kreg (8 + d)).toNat + (tileWarp.kreg (11 + d)).toNat ≤ (tidEntry s 1 0).ext d) ∧
    (let s := tileState [(1, bound)] [] {}
     Ready s (.tenr hd (tenrOps false)) (path 1) tileWarp ∧ Ready s (.tenr hd (tenrOps true)) (path 1) tileWarp ∧
     Ready s (.thclose hd .pkg (.h 1)) (path 1) tileWarp ∧
     isOk (footprint (issuedState s (path 1) hd) (acting s (path 1) hd) bound).2 = true) ∧
    (let s := tileState [(1, holds 4)] [(7, ten7 true 1)] {}
     Ready s (.trel hd .pkg (.h 1)) (path 1) tileWarp ∧ s.ten.get? 7 = some (ten7 true 1) ∧ Ready s (.tsplit hd split1) (path 1) tileWarp ∧
     split1.dim.toNat < (holds 4).ext.length ∧ (tileWarp.kreg 13).toNat < (holds 4).n.getD 1 0 ∧ s.nextId ≠ 7) ∧
    (let s := tileState [(1, holds 3)] [(7, ten7 false 1)] {}
     Ready s (.trel hd .pkg (.h 1)) (path 1) tileWarp ∧ s.ten = [(7, ten7 false 1)] ∧ s.ms.releases = []) ∧
    Handled (tileState [] [] {}) hd (path 1) tileWarp 0x0C0 ∧ Handled (tileState [(1, holds 2)] [] {}) hd (path 1) tileWarp 0x0C3 ∧
    Ready (tileState [(1, bound)] [] {}) (.ttest hd (.g 20) (.h 1)) (path 1) tileWarp :=
  ⟨⟨readyT _ _ _ _ rfl, by decide +kernel⟩, ⟨readyT _ _ _ _ rfl, readyT _ _ _ _ rfl, readyT _ _ _ _ rfl, by decide +kernel⟩,
    ⟨readyT _ _ _ _ rfl, rfl, readyT _ _ _ _ rfl, by decide +kernel⟩, ⟨readyT _ _ _ _ rfl, rfl, rfl⟩,
    handled (by decide +kernel),
    handled (by decide +kernel), readyT _ _ _ _ rfl⟩
/-- A store held under tenure 7, without spill room. -/
def heldStore : HeldStore := { id := 9, w := w0, lane := 0, gid := 6, keys := [0x10004], bytes := [3] }
theorem wit_TenureEventsComplete :
    (let s := { tileState [(1, { holds 2 with trans := [] })] [(7, ten7 true 0)] {} with
       warps := [(0, { tileWarp with th := tileWarp.th.setIfInBounds 0 { tileWarp.thr 0 with st := .stall (.tenr 7) } })] }
     s.stop = none ∧ s.ten.get? 7 = some (ten7 true 0) ∧ (ten7 true 0).die = 0 ∧ (∀ e ∈ s.ten, e.1 ≠ 7 → False) ∧
     insideDirectory s (7, ten7 true 0) = true ∧ (s.ten.map Prod.fst).Nodup ∧ (∀ w ∈ group.warps, w.quad < 4 ∧ w.slot < 8) ∧
     (thrAt s w0 0).st = .stall (.tenr 7) ∧ (∃ y, warpAt s w0 = some y ∧ y.gid = 5)) ∧
    (let t := { ten7 true 2 with shadow := [(0x10000, 7)] }
     let s := tileState [(1, holds 4)] [(7, t)] {}
     s.ten = [(7, t)] ∧ t.st = 2 ∧ t.die = 0 ∧ t.held = [] ∧ (s.groups.get? 5).isSome ∧ s.ms.l1 = [] ∧ s.ms.hostLines = [] ∧
     s.mem.wf = true ∧ (t.shadow.map Prod.fst).Nodup) ∧
    (let s := { tileState [] [(7, { ten7 true 1 with held := [heldStore] })] {} with spillSize := (Vector.replicate 8 0).setIfInBounds 0 1 }
     ((s.ten.flatMap fun e => e.2.held).filter fun h => !h.spilled && homeDie (h.keys.headD 0) == 0).length = 1 ∧
     (s.spillSize.getD 0 0).toNat - spillUsed s 0 = 1) := by
  refine ⟨⟨rfl, rfl, by decide +kernel, by decide +kernel, by decide +kernel, by decide, by decide, by decide +kernel, ⟨_, rfl, rfl⟩⟩,
    ⟨rfl, rfl, by decide +kernel, rfl, rfl, rfl, rfl, by decide +kernel, by decide +kernel⟩, by decide +kernel, by decide +kernel⟩
theorem wit_IdentifierTableAccess :
    Solo (tileState [] [] {}) (.tidset hd 3 (.g 8)) hd (path 1) tileWarp 0 ∧ Solo (tileState [] [] {}) (.tidget hd 0 (.g 8)) hd (path 1) tileWarp 0 ∧
    Solo (tileState [] [] {}) (.scaleb hd 2 (.g 8)) hd (path 1) tileWarp 0 ∧
    (let s := tileState [] [] {}
     let r := pairAcc (issuedState s (path 1) hd) (acting s (path 1) hd) 0 (.g 8) 128 false
     isOk r.2 = true ∧ scarpOk (tidAddr s 1 3 + 127) = true ∧ s.ms.hostLines = [] ∧ s.mem.wf = true ∧
     isOk (pairAcc (issuedState s (path 1) hd) (acting s (path 1) hd) 0 (.g 8) 128 true).2 = true ∧
     (ent2 .f32 0x20000 512 0).scaleBad = false ∧ (ent2 .f32 0x20000 512 0).malformed = false ∧
     (tidEntry s 1 2).rank ≠ 0 ∧ (tidEntry s 1 2).scfmt ≠ 0 ∧
     operand s (path 1) hd 0 (.g 8) true % Tensor.scaleSize (tidEntry s 1 2).scfmt = 0) ∧
    (ent2 .f32 0x20000 512 3).scaleBad = true ∧ (ent2 .f32 0x20001 512 0).scaleBad = false ∧ (ent2 .f32 0x20001 512 0).malformed = true :=
  ⟨{ readyT _ _ _ _ rfl with alone := by decide +kernel }, { readyT _ _ _ _ rfl with alone := by decide +kernel },
    { readyT _ _ _ _ rfl with alone := by decide +kernel }, by decide +kernel, by decide +kernel, by decide +kernel, by decide +kernel⟩
/-- An engine that group 5 holds. -/
def mine : Engine := { owner := some 5 }
/-- TLDACC of entry 1 and TMMA of entry 0 with itself at 0, for 32 indices. -/
def tileOps : TileOps := { tx := 1, fl := { sc := .grp, acq := false, rel := false, it := false }, fmt := .f32, sat := false, d := .acc 2, a := .k 8, b := .zero }
def zacc (nstep done : Nat) (started : Bool) : ECmd := { id := 11, op := 4, gid := 5, ctx := 1, lanes := 1, acc := 2, nstep := nstep, done := done, started := started }
theorem wit_EngineInstructionsComplete :
    (let s := tileState [] [] mine
     Ready s (.tldacc hd tileOps) (path 1) tileWarp ∧ Ready s (.tzacc hd (.acc 2)) (path 1) tileWarp ∧ Ready s (.mrel hd) (path 1) tileWarp ∧
     Ready s (.tmma hd { tileOps with tx := 0, b := .k 9 }) (path 1) tileWarp ∧ Ready s (.tcvt hd { tileOps with b := .k 9 }) (path 1) tileWarp ∧
     Ready s (.tstacc hd { tileOps with a := .acc 2, b := .k 8 }) (path 1) tileWarp ∧
     maskOf (activeLanes s (path 1) hd).contains = liveMask tileWarp ∧ (tileWarp.kreg 9).toNat < 1024 ∧
     ECmd.check { zacc 128 0 false with op := 2, a := tidEntry s 1 1 } = none ∧
     ECmd.check { zacc 1 0 false with op := 1, a := tidEntry s 1 0, b := tidEntry s 1 0, klen := 32 } = none ∧
     ECmd.check { zacc 1 0 false with op := 1, a := tidEntry s 1 0, b := tidEntry s 1 0, klen := 0 } = some 0x102 ∧
     scarpOk (tidAddr s 1 1 + 127) = true ∧ (engineOf s 0).queue.length ≤ 8) ∧
    Ready (tileState [] [] {}) (.mrsv hd (.p 0)) (path 1) tileWarp ∧ engineFree (tileState [] [] {}) 0 = true ∧
    Handled (tileState [] [] {}) hd (path 1) tileWarp 0x104 ∧ Handled (tileState [] [] {}) hd (path 1) tileWarp 0x106 ∧
    Handled (tileState [] [] mine) hd (path 1) tileWarp 0x105 ∧ Handled (tileState [] [] mine) hd (path 1) tileWarp 0x102 :=
  ⟨⟨readyT _ _ _ _ rfl, readyT _ _ _ _ rfl, readyT _ _ _ _ rfl, readyT _ _ _ _ rfl, readyT _ _ _ _ rfl, readyT _ _ _ _ rfl, by decide +kernel⟩,
    readyT _ _ _ _ rfl, by decide +kernel,
    handled (by decide +kernel), handled (by decide +kernel),
    handled (by decide +kernel), handled (by decide +kernel)⟩
/-- A TLDACC of entry 1 whose first row is due. -/
def loading : ECmd := { zacc 128 0 true with op := 2, a := ent2 .f32 0x20000 512 0 }
theorem wit_EngineStepsCommand :
    (∀ q ∈ [zacc 1 0 false, zacc 1 0 true, loading],
      let s := tileState [] [] { owner := some 5, queue := [q], acc := (Vector.replicate 4 []).setIfInBounds 2 [(0, 1)] }
      s.stop = none ∧ (engineOf s 0).queue = [q] ∧ q.stopped = false ∧ (engineOf s 0).stop = false ∧ q.task = none ∧ tenured s q.id = true ∧
      s.ten = [] ∧ savingOn s 0 = false) ∧ (zacc 1 0 true).due ≤ State.reset.cycle ∧ loading.done + 1 < loading.nstep ∧
    (let s := tileState [] [] { owner := some 5, queue := [loading] }
     let r := runStep s 0 loading
     r.2 = none ∧ r.1.stop = none ∧ (engineOf r.1 0).queue = [loading] ∧ savingOn r.1 0 = false) ∧
    (List.replicate (128 * 128) 0).length = 128 * 128 ∧ (List.replicate 128 ([] : List Num.FV)).length = 128 := by
  refine ⟨by decide +kernel, by decide, by decide, by decide +kernel, List.length_replicate, List.length_replicate⟩
/-- A valid task record: OP 2, tag 3, priority 1, entries 1 and 1. -/
def taskRcd : Nat := 2 + 3 * 2 ^ 20 + 2 ^ 102 + 2 ^ 72 + 2 ^ 92
def taskState (ts : Tab Task) : State :=
  { tileState [] [] {} with mem := cellsOf 0x100 (toBytes 64 taskRcd), tasks := (Vector.replicate 8 []).setIfInBounds 0 ts }
/-- An open task of tag 0. -/
def openTask : Task := { rcd := BitVec.ofNat 512 (2 + 2 ^ 102), ctx := 1, gid := 5, core := 0, user := false, seq := 4 }
theorem wit_TileTasksComplete :
    (let s := taskState []
     Ready s (.ttask hd (.g 20) (.g 8)) (path 1) tileWarp ∧ activeLanes s (path 1) hd = [0] ∧ dieOf w0.core < 8 ∧ (taskTab s 0).length < 2048 ∧
     (ctxOf s 1).suspended = false ∧
     (let r := pairAcc (issuedState s (path 1) hd) (acting s (path 1) hd) 0 (.g 8) 64 false
      (match r.2 with
       | .ok acc => scarpPage acc && (loadBytes r.1 w0 0 acc plainHint false).2 == toBytes 64 taskRcd
       | _ => false) = true) ∧ taskInvalid (BitVec.ofNat 512 taskRcd) = false ∧ roomForDevice s 0 1 = true) ∧
    Ready (taskState [(0, openTask)]) (.twaitk hd (.g 20) (.k 8)) (path 1) tileWarp ∧
    openTasks (taskState [(0, openTask)]) 0 1 0 20 = true ∧ openTasks (taskState []) 0 1 0 20 = false ∧
    Ready (taskState []) (.twaitk hd (.g 20) (.k 8)) (path 1) tileWarp ∧ Handled (taskState []) hd (path 1) tileWarp 0x108 :=
  ⟨⟨ready _ _ _ _ rfl rfl rfl rfl rfl rfl (by decide +kernel), by decide +kernel, by decide, by decide +kernel, rfl, by decide +kernel, by decide +kernel, by decide +kernel⟩,
    ready _ _ _ _ rfl rfl rfl rfl rfl rfl (by decide +kernel), by decide +kernel, by decide +kernel,
    ready _ _ _ _ rfl rfl rfl rfl rfl rfl (by decide +kernel),
    handled (by decide +kernel)⟩

/-! Copies and channels. -/

/-- Two dimensions of 128 with a tile of 32 by 2, in E4M3 (64 bytes) or FP32 (256 bytes). -/
def entTl (f : Fmt) (base str : Nat) : Tensor := ent2 f base str 0 ||| BitVec.ofNat 1024 (32 * 2 ^ 384 + 2 * 2 ^ 400)
/-- The table: 0 an E4M3 matrix, 1 an FP32 one. -/
def copyMem : Memory := cellsOf 0x80000 (toBytes 128 (entTl .e4m3 0x10000 128).toNat) ++ cellsOf 0x80080 (toBytes 128 (entTl .f32 0x20000 512).toNat)
/-- Channel 0 carries messages of 64 bytes from stage 0 to stage 1 in two slots; the launch has two stages. -/
def chanRcd : BitVec 1024 := rcd [(120, 1), (512, 2)]
/-- The group's scratch: its word at 40h is 5, at 80h 7. -/
def scr1 : Memory := [(0x40, 5), (0x80, 7)]
def producer (full : Nat) : Group := { group with scratch := scr1, chans := [(0, { full := full })] }
def consumer (full : Nat) : Group := { group with warps := [], stage := 1, chans := [(0, { head := 1, full := full })] }
/-- k8 = 100h, k9 = 0, k11 = 32, k12 = 128, k14 = 1; addresses 40h in g8 and 80h in g12. -/
def copyWarp : Warp :=
  { tileWarp with
    th := (warp 1 ((thr.setReg 8 0x40).setReg 12 0x80)).th
    k := ((((Vector.replicate 64 0).setIfInBounds 8 0x100).setIfInBounds 11 32).setIfInBounds 12 128).setIfInBounds 14 1 }
def copyState (g : Group) (others : Tab Group) : State :=
  { mapped copyWarp (path 1) g chanRcd copyMem with groups := (5, g) :: others }
theorem readyC (g : Group) (o : Tab Group) (i : Instr) (h : operandTrap (Instr.uses i) 64 = none) :
    Ready (copyState g o) i (path 1) copyWarp :=
  ready _ _ _ _ rfl rfl rfl rfl rfl h (by decide +kernel)
def acop : AcopyOps := { sz := .b4, dsp := .scr, ssp := .scr, bit := 0, sc := .grp, acq := false, rel := false, d := .g 12, a := .g 8, b := .k 8 }
def fl0 : EFlags := { sc := .grp, acq := false, rel := false, it := false }
/-- The tile at element (0, 0), to scratch at 80h, its header at 100h. -/
def acopt : AcopytOps := { tx := 0, fl := fl0, lfmt := .f32, sat := false, lcv := false, st := false, vlt := false, d := .k 8, a := .k 9, b := .k 12 }
def acopr : AcopyrOps := { tx := 1, fl := fl0, op := .add, vlt := false, d := .k 8, a := .k 9, b := .k 12 }
def cmOps : CmOps := { d := .p 0, a := .k 8, b := .k 14, c := .k 9 }
/-- An ACOPY of 4 bytes from 40h to 80h with its header at 100h. -/
def acmd (started : Bool) (p : Option (Nat × Option Nat)) (next : Nat) : CCmd :=
  { id := 11, kind := 0, gid := 5, ctx := 1, user := false, w := w0, pc := 0x1000, hdr := 0x100, reqs := [(0x80, 0x40)], size := 4
    dsp := .scr, ssp := .scr, started := started, pend := p, next := next }
theorem wit_CopiesAndChannels :
    (let s := copyState (producer 0) [(6, consumer 1)]
     Ready s (.acopy hd acop) (path 1) copyWarp ∧ Ready s (.acopyt hd acopt) (path 1) copyWarp ∧ Ready s (.acopyr hd acopr) (path 1) copyWarp ∧
     Ready s (.cmtest hd cmOps) (path 1) copyWarp ∧ Ready s (.cmwait hd { cmOps with d := .g 20 }) (path 1) copyWarp ∧
     Ready s (.csend hd (.g 20) (.ch 0) (.k 12)) (path 1) copyWarp ∧ Ready s (.cpoll hd false (.p 0) (.ch 0)) (path 1) copyWarp ∧
     activeLanes s (path 1) hd = [0] ∧ (relNeed s w0 0).isNone = true ∧ (coalOf s 0).length < 16 ∧
     acopyBad (issuedState s (path 1) hd) (acting s (path 1) hd) .scr 4 0x40 = none ∧
     Tensor.empty (tidEntry s 1 0) = false ∧ Tensor.empty (tidEntry s 1 1) = false ∧ combineFmt .add (Tensor.fmt (tidEntry s 1 1)) = true ∧
     kval (issuedState s (path 1) hd) (acting s (path 1) hd) (.k 9) 0 = 0 ∧ scarpOk (tidAddr s 1 1 + 127) = true ∧
     chanSlots s (producer 0) 0 = 2 ∧ chanStage s (producer 0) 0 = 0 ∧ stageGone s (producer 0) 1 = false ∧
     (stagePeer s (producer 0) 1).map (·.1) = some 6 ∧ (consumer 1).scratch.wf = true ∧ kval s (path 1) (.k 12) 0 = 128) ∧
    (let s := copyState { consumer 1 with warps := [w0] } []
     Ready s (.crecv hd (.g 20) (.ch 0) (.k 12)) (path 1) copyWarp ∧ Ready s (.cpoll hd true (.p 0) (.ch 0)) (path 1) copyWarp ∧
     stageGone s (consumer 1) 0 = false) ∧
    (let s := copyState { producer 0 with lti := 4 } []
     Ready s (.csend hd (.g 20) (.ch 0) (.k 12)) (path 1) copyWarp ∧ chanSlots s { producer 0 with lti := 4 } 0 = 0 ∧ Handled s hd (path 1) copyWarp 0x0E9) ∧
    (let s := { copyState (producer 0) [(6, consumer 1)] with
       warps := [(0, { copyWarp with th := copyWarp.th.setIfInBounds 0 { copyWarp.thr 0 with st := .stall (.channel (.g 20) 0 true 0x40 1) } })] }
     (thrAt s w0 0).st = .stall (.channel (.g 20) 0 true 0x40 1) ∧ canSend s (grp s w0) 0 = true) ∧
    (∀ q ∈ [acmd false none 0, acmd true none 0, acmd true (some (0, some 0)) 1],
      let s := { copyState (producer 0) [] with coal := [(0, [q])], cycle := 5 }
      s.crun.get? 0 = none ∧ coalOf s 0 = [q] ∧ q.stopped = false ∧ q.kind = 0 ∧ s.ten = [] ∧ s.ms.damage = [] ∧ (producer 0).scratch.wf = true ∧
      q.due ≤ s.cycle ∧ q.hdr + 4 ≤ 0x200 ∧ 0x80 + q.size ≤ q.hdr) := by
  refine ⟨⟨readyC _ _ _ rfl, readyC _ _ _ rfl, readyC _ _ _ rfl, readyC _ _ _ rfl, readyC _ _ _ rfl, readyC _ _ _ rfl, readyC _ _ _ rfl, by decide +kernel⟩,
    ⟨readyC _ _ _ rfl, readyC _ _ _ rfl, by decide +kernel⟩,
    ⟨readyC _ _ _ rfl, by decide +kernel, by decide +kernel, by decide +kernel, rfl, rfl, by decide, by decide +kernel⟩,
    by decide +kernel, by decide +kernel⟩

/-! Scheduling. -/

/-- A GROUP record (Table 3.1) at 2000h, priority 4, with JOIN and ARMED. -/
def gRec (join : Nat) (armed : Bool) : Rcd := (Rcd.make 0x2000 0 0 1 4 8 0 false (3 * 2 ^ 48)).withJoin join armed
/-- One thread over memory that holds some bytes at 100h. -/
def recState (bs : List Byte) : State := mapped tileWarp (path 1) group 0 (cellsOf 0x100 bs)
theorem readyR (bs : List Byte) (i : Instr) (h : operandTrap (Instr.uses i) 64 = none) : Ready (recState bs) i (path 1) tileWarp :=
  ready _ _ _ _ rfl rfl rfl rfl rfl h (by decide +kernel)
/-- A launch record of one group at 2000h (Table 3.2). -/
def lRec : LRec := BitVec.ofNat 1024 (0x2000 + 4 * 2 ^ 140)
/-- What recAcc and takeRecord give an instruction of lane 0. -/
def recOf (bs : List Byte) (size : Nat) (store : Bool) (f : State → Acc → Bool) : Bool :=
  match recAcc (issuedState (recState bs) (path 1) hd) (acting (recState bs) (path 1) hd) 0 (.g 8) 0 size store with
  | (s1, .ok acc) => f s1 acc
  | _ => false
def recBytes (join : Nat) (armed : Bool) : List Byte := toBytes 32 (gRec join armed).toNat
/-- The small state with a launch of some groups, waiting for its turn, and a queue of die 0. -/
def schedState (emitted : Nat) (qs : List Queued) (wait : List Queued) : State :=
  { mapped tileWarp (path 1) group 0 [] with
    ctxs := [(1, { ctx1 with pfctl := 21 + 4 * 256, pfmap := 0x90000, heldsize := 4, heldbase := 0xA0000, heldWait := [(gRec 0 false, 0)] })]
    sched := (Vector.replicate 8 {}).setIfInBounds 0
      { queues := (Vector.replicate 8 []).setIfInBounds 4 qs, waiting := wait
        launches := [(3, { rcd := lRec, ctx := 1, id := 9, emitted := emitted, active := true })] } }
/-- A queued record, from cycle 0. -/
def qd (r : Rcd) : Queued := { rcd := r, ctx := 1, since := 0 }
def hostRec : Rcd := Rcd.make 0 3 0 4 4 8 0 false 9
/-- A warp with 128 registers in every slot of the core, but for the first, waiting for 8 more. -/
def fullWarp (n : Nat) : Nat × Warp := (n, { gid := 5, num := n, alloc := 128, th := Vector.replicate 32 gone })
def growing : Warp := { tileWarp with alloc := 120, th := tileWarp.th.setIfInBounds 0 { thr with st := .stall (.rgrow (.g 20) 8) } }
def growReq : GrowReq := { w := w0, lanes := 1, n := 8, d := .g 20, gid := 5 }
def growState (n : Nat) (g : Group) (others : Tab Group) : State :=
  { demo growing (path 1) group 0 with
    warps := (0, growing) :: (List.range n).map fun i => fullWarp (i + 1), groups := (5, g) :: others, grow := [(0, [growReq])] }
theorem wit_WorkIsScheduled :
    (∀ b ∈ [(0, false), (2, false), (0, true)], recOf (recBytes b.1 b.2) 32 true (fun s1 acc =>
      let r := takeRecord s1 (acting (recState (recBytes b.1 b.2)) (path 1) hd) acc
      r.2 == gRec b.1 b.2 && !Rcd.invalid r.2 && Rcd.kind r.2 == 1 && roomOutsideReserve s1 (targetDie r.2 0) (Rcd.prio r.2)) = true ∧
      recNeed (.g 8) 0 (acting (recState (recBytes b.1 b.2)) (path 1) hd) (issuedState (recState (recBytes b.1 b.2)) (path 1) hd) 0 = none) ∧
    Solo (recState (recBytes 0 false)) (.spawn hd (.g 20) (.g 8) 0) hd (path 1) tileWarp 0 ∧ Handled (recState (recBytes 0 true)) hd (path 1) tileWarp 0x145 ∧
    Handled (recState (recBytes 0 true)) hd (path 1) tileWarp 0x144 ∧
    (∀ b ∈ [(0, false), (2, true), (1, false), (1, true)], recOf (recBytes b.1 b.2) 32 true (fun s1 acc =>
      (takeRecord s1 (acting (recState (recBytes b.1 b.2)) (path 1) hd) acc).2 == gRec b.1 b.2) = true) ∧
    Solo (recState (recBytes 1 true)) (.joindec hd (.g 20) (.g 8) 0) hd (path 1) tileWarp 0 ∧
    Solo (recState (toBytes 128 lRec.toNat)) (.launch hd (.g 20) (.g 8) 0) hd (path 1) tileWarp 0 ∧
    recOf (toBytes 128 lRec.toNat) 128 false (fun s1 acc =>
      let r := loadBytes s1 w0 0 acc plainHint false
      r.2 == toBytes 128 lRec.toNat && launchRoom r.1 0 4 && (relNeed s1 w0 0).isNone) = true ∧ LRec.reject lRec = none ∧
    LRec.reject (lRec ||| 2 ^ 117) = some 1 ∧ Handled (recState []) hd (path 1) tileWarp 0x147 ∧
    (let s := mapped tileWarp (path 1) group 0 []
     Ready s (.rgrow hd (.g 20) 64) (path 1) tileWarp ∧ Ready s (.rshrink hd (.g 20) 40) (path 1) tileWarp ∧ activeLanes s (path 1) hd ≠ [] ∧
     tileWarp.alloc = 64 ∧ growOf s 0 = [] ∧ dstBeyond (.g 20) (64 - 40) = false ∧ dstBeyond (.g 20) (64 - 48) = true ∧
     Handled s hd (path 1) tileWarp 0x142) :=
  ⟨by decide +kernel, { readyR _ _ rfl with alone := by decide +kernel },
    handled (by decide +kernel), handled (by decide +kernel),
    by decide +kernel, { readyR _ _ rfl with alone := by decide +kernel }, { readyR _ _ rfl with alone := by decide +kernel }, by decide +kernel,
    by decide +kernel, by decide +kernel, handled (by decide +kernel),
    ready _ _ _ _ rfl rfl rfl rfl rfl rfl (by decide +kernel), ready _ _ _ _ rfl rfl rfl rfl rfl rfl (by decide +kernel),
    by decide +kernel, rfl, rfl, rfl, rfl, by decide +kernel, by decide +kernel, rfl, rfl, by decide, by decide +kernel⟩
theorem wit_WorkIsScheduled_events :
    (let s := schedState 0 [] []
     ∃ L, (schedOf s 0).launches = [(3, L)] ∧ L.active = true ∧ L.waiting = false ∧ L.emitted < L.total ∧ (ctxOf s L.ctx).suspended = false ∧
       L.f 152 152 = 0 ∧ queuedOf s (launchDie L 0 0) 3 < 64 ∧ roomForDevice s (launchDie L 0 0) (L.f 142 140) = true ∧
       (schedOf s (launchDie L 0 0)).waiting = []) ∧
    (let s := schedState 1 [qd (gRec 0 false)] []
     visited s 0 = [(4, qd (gRec 0 false))] ∧ Rcd.isResume (gRec 0 false) = false ∧ Rcd.kind (gRec 0 false) = 1 ∧ Rcd.lti (gRec 0 false) = 3 ∧
     (let p := popRcd s 0 4 (qd (gRec 0 false))
      coreFor 0 (fun k => coreFits p k (LRec.warps lRec) (LRec.warps lRec * (32 * LRec.regs lRec + 64)) 0) = some 0 ∧ flushedFor p 1 (gRec 0 false) = none ∧
      (takeFrames p 0 1 (LRec.warps lRec)).2 = some [0] ∧ (takeFrames p 0 1 (LRec.warps lRec)).1.stop = none)) ∧
    (let s := schedState 0 [qd hostRec] []
     visited s 0 = [(4, qd hostRec)] ∧ Rcd.kind hostRec = 4 ∧ ((schedOf (popRcd s 0 4 (qd hostRec)) 0).launches.filter fun e => e.2.active).length < 16) ∧
    (let s := schedState 0 [] [qd (gRec 0 false)]
     (schedOf s 0).waiting = [qd (gRec 0 false)] ∧ roomForDevice s 0 4 = true) ∧
    (let s := schedState 0 (List.replicate 512 (qd hostRec)) [qd (gRec 0 false)]
     (schedOf s 0).waiting = [qd (gRec 0 false)] ∧ roomForDevice s 0 4 = false) ∧
    (let s := schedState 0 [] []
     (ctxOf s 1).heldWait = [(gRec 0 false, 0)] ∧ (ctxOf s 1).heldcnt.toNat < (ctxOf s 1).heldsize.toNat ∧
     isOk (sysAccess s 0 1 0xA0000 32 true false).2 = true) ∧
    (let s := { schedState 0 [qd hostRec] [] with cycle := 65536 }
     qd hostRec ∈ levelOf (schedOf s 0) 4 ∧ (qd hostRec).since + 65536 ≤ s.cycle) ∧
    (let s := growState 0 group []
     growOf s 0 = [growReq] ∧ 32 * growReq.n ≤ freeRegs s 0 ∧ warpAt s w0 = some growing ∧ (growing.thr 0).st = .stall (.rgrow (.g 20) 8)) ∧
    (let s := growState 31 group []
     regDeadlock s 0 = true ∧ coreGroups s 0 = [(5, group)]) ∧
    (let s := { growState 31 group [(7, { group with order := 1 })] with
       warps := (0, growing) :: (1, { growing with gid := 7 }) :: (List.range 30).map fun i => fullWarp (i + 2)
       groups := [(5, group), (7, { group with order := 1, warps := [{ w0 with slot := 1 }] })] }
     regDeadlock s 0 = true ∧ (coreGroups s 0).length = 2 ∧ ∀ e ∈ coreGroups s 0, e.2.order < 1 ∨ e.1 = 7) := by
  refine ⟨⟨_, rfl, rfl, rfl, by decide +kernel, rfl, by decide +kernel, by decide +kernel, by decide +kernel, by decide +kernel⟩, by refine ⟨?_, ?_, ?_, ?_, ?_, ?_, ?_, ?_, ?_⟩ <;> decide +kernel⟩

/-! Collectives and links. -/

/-- A descriptor (Table 10.3): 16 elements or 64 bytes, tag 3, from 400h to 800h. -/
def dscOf (fmt count : Nat) : Dsc := BitVec.ofNat 512 (fmt * 2 ^ 10 + 3 * 2 ^ 20 + count * 2 ^ 32 + 0x400 * 2 ^ 64 + 0x800 * 2 ^ 128)
/-- An entry (Table 10.2) of n packages in context 1, COLLID 77, ranks at E000h, ports 0 and 1. -/
def entOf (n : Nat) (alt : Bool) : HEnt :=
  BitVec.ofNat 512 (1 + (n - 1) * 2 + 2 ^ 32 + 77 * 2 ^ 64 + 0xE000 * 2 ^ 128 + 2 ^ 194 + if alt then 2 ^ 196 else 0)
def collMem (d : Dsc) (e : HEnt) : Memory :=
  cellsOf 0x100 (toBytes 64 d.toNat) ++ cellsOf 0x400 (toBytes 4 0x3F800000) ++ cellsOf 0xC000 (toBytes 64 e.toNat) ++ cellsOf 0xE000 [0, 0, 1]
def hcmd (n : Nat) (alt : Bool) (un : List (ChunkMsg × Nat)) : HCmd :=
  { id := 11, kind := 0, dsc := dscOf 8 16, ent := entOf n alt, succ := 1, ordinal := 1, ctx := 1, gid := 5, user := false, w := w0, pc := 0x1000
    started := true, own := 1, seq := 1, unacked := un, last := 0 }
def msg (kind seq : Nat) : ChunkMsg :=
  { port := 0, dst := 1, collid := 77, ordinal := 1, kind := kind, count := 16, fmt := 8, carry := false, seq := seq, phase := 0, seg := 0, index := 0, data := [] }
/-- k8 = 3, a tag. -/
def collState (m : Memory) (q : List HCmd) : State :=
  { mapped { tileWarp with k := (Vector.replicate 64 0).setIfInBounds 8 3 } (path 1) group 0 m with
    hlctbase := (Vector.replicate 8 0).setIfInBounds 0 0xC000, coll := (Vector.replicate 8 []).setIfInBounds 0 q }
theorem readyH (m : Memory) (q : List HCmd) (i : Instr) (h : operandTrap (Instr.uses i) 64 = none) :
    Ready (collState m q) i (path 1) { tileWarp with k := (Vector.replicate 64 0).setIfInBounds 8 3 } :=
  ready _ _ _ _ rfl rfl rfl rfl rfl h (by decide +kernel)
/-- What the issue of HLRED reads. -/
def hlOf (m : Memory) (f : State → Dsc → HEnt → Bool) : Bool :=
  match pairAcc (issuedState (collState m []) (path 1) hd) (acting (collState m []) (path 1) hd) 0 (.g 8) 64 false with
  | (s1, .ok acc) =>
    let r := loadBytes s1 w0 0 acc plainHint false
    let d : Dsc := BitVec.ofNat 512 (ofBytes r.2)
    scarpPage acc && f r.1 d (BitVec.ofNat 512 (ofBytes (devRead r.1 (collAddr r.1 0 (Dsc.ce d)) 64)))
  | _ => false
def linkState (ctl : W32) (ver : Nat) : State :=
  { collState [] [] with hltctl := ctl, ports := (Vector.replicate 32 {}).setIfInBounds 0 { up := true, ver := ver, lanes := 4 } }
theorem wit_CollectivesAndLinks :
    (hlOf (collMem (dscOf 8 16) (entOf 1 false)) fun s d e => !Dsc.malformed d 0 (HEnt.n e) && !HEnt.bad e 1 && scarpOk (collAddr s 0 (Dsc.ce d) + 63) &&
      scarpOk (bits e 179 128 + 2 * HEnt.n e + 1) && HEnt.rank s e (HEnt.pos e) == s.hlpkgid.toNat && (collOf s 0).length < 16) = true ∧
    (hlOf (collMem (dscOf 9 16) (entOf 1 false)) fun _ d e => Dsc.malformed d 0 (HEnt.n e)) = true ∧
    (hlOf (collMem (dscOf 8 16) (entOf 1 false ||| 2 ^ 14)) fun _ d e => !Dsc.malformed d 0 (HEnt.n e) && HEnt.bad e 1) = true ∧
    Dsc.malformed (dscOf 0 64) 1 1 = false ∧
    Ready (collState [] []) (.hlred hd (.g 20) (.g 8)) (path 1) { tileWarp with k := (Vector.replicate 64 0).setIfInBounds 8 3 } ∧
    Ready (collState [] []) (.hlwait hd (.g 20) (.k 8)) (path 1) { tileWarp with k := (Vector.replicate 64 0).setIfInBounds 8 3 } ∧
    Handled (collState [] []) hd (path 1) { tileWarp with k := (Vector.replicate 64 0).setIfInBounds 8 3 } 0x10B ∧
    Handled (collState [] []) hd (path 1) { tileWarp with k := (Vector.replicate 64 0).setIfInBounds 8 3 } 0x10C ∧
    (let s := collState [] [hcmd 2 false []]
     tagged s 0 1 3 = [11] ∧ collOpen s 0 [11] = true ∧ tagged (collState [] []) 0 1 3 = [] ∧ collOpen (collState [] []) 0 [] = false) ∧
    Dsc.fmt (hcmd 2 false []).dsc = 8 ∧ Dsc.carry (hcmd 2 false []).dsc = false ∧ (toBytes 8 5).length = 4 * 2 ∧
    (let s := { collState [] [{ hcmd 2 false [] with seen := [4] }] with cycle := 2 ^ 24 }
     let q := { hcmd 2 false [] with seen := [4] }
     (collOf s 0).find? (fun q => HEnt.collid q.ent == 77 && q.ordinal == 1) = some q ∧ q.started = true ∧ q.stopped = false ∧
     (msg 1 4).kind ≠ q.kind ∧ (msg 0 4).count = Dsc.count q.dsc ∧ q.seen.contains (msg 0 4).seq = true ∧ predLate s q = true) ∧
    (∀ alt ∈ [false, true], let s := { collState [] [hcmd 2 alt [(msg 0 0, 0)]] with cycle := 2 ^ 20 }
     ackLate s (hcmd 2 alt [(msg 0 0, 0)]) = true ∧ (hcmd 2 alt []).ent.getLsbD 196 = alt ∧
     (let t := { s with ports := (Vector.replicate 32 {}).setIfInBounds (4 * 0 + bits (hcmd 2 alt []).ent 195 194) { up := true, ver := 2, lanes := 4 } }
      (t.ports.getD (4 * 0 + bits (hcmd 2 alt []).ent 195 194) {}).up = true ∧ collOf t 0 = [hcmd 2 alt [(msg 0 0, 0)]])) ∧
    (let s := linkState 3 2
     collOf s 0 = [] ∧ (s.ports.getD 0 {}).up = true ∧ (s.ports.getD 0 {}).ver = 2 ∧ s.hltctl.getLsbD 0 = true ∧ s.hltctl.getLsbD 1 = true) ∧
    ((linkState 1 1).ports.getD 0 {}).ver = 1 :=
  ⟨by decide +kernel, by decide +kernel, by decide +kernel, by decide +kernel, readyH _ _ _ rfl, readyH _ _ _ rfl,
    handled (by decide +kernel), handled (by decide +kernel),
    ⟨by simp only [tagged]; decide +kernel, by decide +kernel, by decide +kernel, by decide +kernel⟩, by refine ⟨?_, ?_, ?_, ?_, ?_, ?_, ?_⟩ <;> decide +kernel⟩

/-! Pennants. -/

/-- A launch whose handler is warp 0, at 6000h. -/
def pnRcd : BitVec 1024 := rcd [(192, 0x6000)]
/-- Pennant state with pennant 3 pending, payload 9, counted twice. -/
def pn3 : PnState := { pend := 8, mask := -1, pay := (Vector.replicate 64 0).setIfInBounds 3 9, cnt := (Vector.replicate 64 0).setIfInBounds 3 2 }
/-- k62 = 1 and k63 = 8000_0003h, g8:g9 = 100h, g12:g13 = 8. -/
def pnWarp (d : Bool) : Warp :=
  { mwarp (((thr.setReg 8 0x100).setReg 9 0).setReg 12 8) with
    k := if d then ((Vector.replicate 64 0).setIfInBounds 62 1).setIfInBounds 63 0x80000003 else Vector.replicate 64 0 }
def pnState (p : Option PnState) (m : Memory) (d : Bool) (q : List Send) : State :=
  { mapped (pnWarp d) (path 1) { group with pn := p } pnRcd m with sends := q }
theorem readyP (p : Option PnState) (m : Memory) (d : Bool) (q : List Send) (i : Instr) (h : operandTrap (Instr.uses i) 64 = none) :
    Ready (pnState p m d q) i (path 1) (pnWarp d) := by
  cases d <;> exact ready _ _ _ _ rfl rfl rfl rfl rfl h (by decide +kernel)
/-- A target descriptor (Table 12.1): package 0, context 1, launch 3, group 0. -/
def pnDesc (bad : Nat) : BitVec 128 := BitVec.ofNat 128 (2 ^ 16 + 3 * 2 ^ 32 + bad * 2 ^ 48)
/-- A send of pennant 3 by context 1, or another, to group 0 of launch 3. -/
def send (sender : Nat) (ctx : Nat) (remote : Bool) (st : Option Nat) : Send :=
  { id := 11, src := .thread w0 0 5, die := 0, sender := w32 sender, pkg := 0, ctx := ctx, lti := 3, grp := 0, num := 3, payload := 7, wake := false
    remote := remote, seq := 1, at_ := 0, status := st }
def pmsg (r : Option Nat) : PennantMsg :=
  { reply := r, pkg := 0, srcPkg := 0, srcDie := 0, seq := 1, ctx := 1, lti := 3, grp := 0, num := 63, payload := 7, wake := false }
theorem wit_PennantsAreSentAndTaken :
    (∀ bad ∈ [0, 1], let s := pnState (some pn3) (cellsOf 0x100 (toBytes 16 (pnDesc bad).toNat)) false []
     activeLanes s (path 1) hd = [0] ∧ (relNeed s w0 0).isNone = true ∧
     (match scarpAcc (issuedState s (path 1) hd) (acting s (path 1) hd) (src (issuedState s (path 1) hd) (acting s (path 1) hd) 0 (.g 8) true) 16
          false 0x0A0 with
      | (s1, .ok acc) => (loadBytes s1 w0 0 acc plainHint false).2 == toBytes 16 (pnDesc bad).toNat &&
          (pathRelease (loadBytes s1 w0 0 acc plainHint false).1 w0 [0]).sends.all (fun e => e.id != s.nextId)
      | _ => false) = true ∧ descBad (pnDesc bad) = (bad == 1)) ∧
    Ready (pnState (some pn3) [] false []) (.pnsend hd 3 true (.g 20) (.g 8) (.g 12)) (path 1) (pnWarp false) ∧
    Handled (pnState (some pn3) [] false []) hd (path 1) (pnWarp false) 0x123 ∧
    Ready (pnState (some pn3) [] false []) (.pnmask hd (.g 20) (.g 12)) (path 1) (pnWarp false) ∧
    Ready (pnState (some pn3) [] false []) (.pnpend hd true (.g 20)) (path 1) (pnWarp false) ∧
    Ready (pnState (some pn3) [] false []) (.pnack hd (.g 20) 3) (path 1) (pnWarp false) ∧
    Ready (pnState (some pn3) [] false []) (.pnwait hd (.g 20) (.g 12)) (path 1) (pnWarp false) ∧
    (∀ l ∈ [0], let s := pnState (some pn3) [] false []
     (pnWarp false).num = lrec s { group with pn := some pn3 } 157 153 ∧
     lowPair (issuedState s (path 1) hd) (acting s (path 1) hd) [l] (.g 12) = 8 ∧
     lowPair (issuedState s (path 1) hd) (acting s (path 1) hd) [l] (.g 20) = 0) ∧
    Handled (pnState (some pn3) [] false []) hd (path 1) (pnWarp false) 0x120 ∧ Handled (pnState (some pn3) [] false []) hd (path 1) (pnWarp false) 0x122 ∧
    (let s := pnState (some pn3) oneCall true []
     Ready s (.pnret hd) (path 1) (pnWarp true) ∧ ((pnWarp true).kreg 63).getLsbD 31 = true ∧
     (pnWarp true).kreg 62 &&& liveMask (pnWarp true) &&& ~~~(path 1).lanes = 0 ∧ (traced s w0 && (traceOf s 0).brs) = false ∧
     isOk (pop (issuedState s (path 1) hd) (acting s (path 1) hd) 0).2 = true) ∧
    ((pnWarp false).kreg 63).getLsbD 31 = false ∧ Handled (pnState (some pn3) [] false []) hd (path 1) (pnWarp false) 0x121 ∧
    ({ pnWarp false with num := 1 } : Warp).num ≠ lrec (pnState (some pn3) [] false []) { group with pn := some pn3 } 157 153 ∧
    Ready (pnState none [] false []) (.pnret hd) (path 1) (pnWarp false) ∧ Handled (pnState none [] false []) hd (path 1) (pnWarp false) 0x124 ∧
    (8 : W64) ≠ 0 ∧ pn3.pend.getLsbD 3 = true ∧ pn3.pend.getLsbD 63 = false :=
  ⟨by decide +kernel, readyP _ _ _ _ _ rfl, handled (by decide +kernel),
    readyP _ _ _ _ _ rfl, readyP _ _ _ _ _ rfl, readyP _ _ _ _ _ rfl, readyP _ _ _ _ _ rfl, by decide +kernel,
    handled (by decide +kernel), handled (by decide +kernel),
    ⟨readyP _ _ _ _ _ rfl, by decide +kernel⟩, by decide +kernel, handled (by decide +kernel), by decide +kernel, readyP _ _ _ _ _ rfl,
    handled (by decide +kernel), by decide, by decide +kernel, by decide +kernel⟩
/-- The warp asleep in PNSEND. -/
def pnWaiting : Warp := { pnWarp false with th := (pnWarp false).th.setIfInBounds 0 { (pnWarp false).thr 0 with st := .stall (.pnsend (.g 20) 11) } }
theorem wit_PennantsAreSentAndTaken_events :
    (∀ e ∈ [send 1 1 false none, send 2 1 false none, send 1 9 false none],
      let s := pnState (some pn3) [] false [e]
      s.sends = [e] ∧ e.die = 0 ∧ e.remote = false ∧ e.status = none ∧ (settle s e).isSome = true ∧ s.stop = none) ∧
    (let s := pnState (some pn3) [] false []
     s.ctxs.get? 9 = none ∧ (s.ctxs.get? 1).isSome ∧ permitted s (send 2 1 false none) = false ∧ permitted s (send 1 1 false none) = true ∧
     (match sendTarget s (send 1 1 false none) with | .resident g => g == 5 | _ => false) = true ∧
     (pmsg none).reply = none ∧ s.pnSeen.contains (0, 0, 1) = false ∧ (pmsg none).num < 64) ∧
    (let s := { pnState (some pn3) [] false [send 1 1 true none] with cycle := 2 ^ 20, pnSeen := [(0, 0, 1)] }
     s.pnSeen.contains (0, 0, 1) = true ∧ (send 1 1 true none).seq = (pmsg (some 1)).seq ∧ sendTimedOut s (send 1 1 true none) = true) ∧
    (let s := { pnState (some pn3) [] false [send 1 1 false (some 1)] with warps := [(0, pnWaiting)] }
     settledFor s w0 0 = some (.g 20, 11, 1)) ∧
    (let s := pnState (some { pn3 with mask := 0 }) [] false []
     mayDivert s 5 = true ∧ handlerWarp s { group with pn := some { pn3 with mask := 0 } } = some (w0, pnWarp false) ∧
     (List.range 32).filter (fun l => divertible ((pnWarp false).thr l)) = [0] ∧ ((pnWarp false).thr 0).st = .running ∧
     (let s1 := pkgAcquire s 0
      let t := thrAt s1 w0 0
      isOk (push s1 { w := w0, lanes := maskOf (· == 0), pc := t.pc, user := nextUser s1 0 1 t } 0 t.pc).2 = true)) ∧
    mayDivert (pnState (some pn3) [] false []) 5 = false := by
  refine ⟨?_, ?_, ?_, ?_, ?_, ?_⟩ <;> decide +kernel

/-! System instructions, registers, trace and halts. -/

/-- A mode for the path. -/
def pathU (u : Bool) : Cursor := { path 1 with user := u }
/-- The capability table at B_0000h: entry 1 holds every right over every context for context 1. -/
def dcapMem : Memory := cellsOf 0xB0010 (toBytes 16 (DEnt.make true 0xFE 1 0xFFFF 1 0).toNat)
/-- g8 = 1, a handle and a context; g12 = 80h, a right or an address; a second warp of the group, parked, in slot 1. -/
def sysWarp : Warp := mwarp (((thr.setReg 8 1).setReg 9 0).setReg 12 0x80)
def sysState (u : Bool) (m : Memory) : State :=
  { mapped sysWarp (pathU u) group 0 m with
    warps := [(0, sysWarp), (1, { sysWarp with num := 1, th := sysWarp.th.map fun t => { t with st := .parked } })]
    dcapbase := 0xB0000, ctxSel := 1 }
theorem soloS (u : Bool) (m : Memory) (i : Instr) (h : operandTrap (Instr.uses i) 64 = none)
    (ha : activeLanes (sysState u m) (pathU u) hd = [0]) : Solo (sysState u m) i hd (pathU u) sysWarp 0 :=
  { ready _ _ _ _ rfl rfl rfl rfl rfl h (by cases u <;> decide +kernel) with alone := ha }
def sysOps (sp : SysSpace) (n : BitVec 24) (r b : Opd) : SysOps := { sp := sp, n := n, r := r, b := b }
theorem freeDent_two (s : State) (h : (List.range 3).find? (fun i => 1 ≤ i && !(dentNow s i).valid) = some 2) : freeDent s = some 2 := by
  unfold freeDent
  rw [show 4096 = 3 + 4093 from rfl, List.range_add, List.find?_append, h]
  rfl
theorem wit_SystemInstructionsComplete :
    (∀ sp : SysSpace, Solo (sysState false []) (.srd hd (sysOps sp 0 (.g 20) .zero)) hd (pathU false) sysWarp 0 ∧
      Solo (sysState false []) (.swr hd (sysOps sp 0 (.g 12) .zero)) hd (pathU false) sysWarp 0) ∧
    hasHeld (sysState false []) w0 0 = false ∧ ((sysState false []).ctxs.get? 1).isSome ∧ (sysState false []).ctxs.get? 9 = none ∧
    Solo (sysState true []) (.srd hd (sysOps .ctx 13 (.g 20) .zero)) hd (pathU true) sysWarp 0 ∧ rightOf 0x2180 = none ∧
    Handled (sysState true []) hd (pathU true) sysWarp 0x128 ∧ Handled (sysState true []) hd (pathU true) sysWarp 0x129 ∧
    Handled (sysState false []) hd (pathU false) sysWarp 0x129 ∧
    (let s := sysState false []
     ∀ v ∈ [2048], ∃ b : State, b = updThr s w0 0 (fun t => t.setReg 8 (w32 v)) ∧ namedThread b (pathU false) 0 (.g 8) = some ({ w0 with slot := 1 }, 0) ∧
       readThr b { w0 with slot := 1 } 0 0x3FE = some 0x1000 ∧ (writeThr b { w0 with slot := 1 } 0 0 7).isSome = true) ∧
    Solo (sysState true []) (.svc hd 0) hd (pathU true) sysWarp 0 ∧ Solo (sysState false []) (.svc hd 0) hd (pathU false) sysWarp 0 ∧
    bits (ctxOf (sysState true []) 1).svcentry 56 2 ≠ 0 ∧
    isOk (push (issuedState (sysState true []) (pathU true) hd) (acting (sysState true []) (pathU true) hd) 0 0x100C).2 = true ∧
    (fqOf (sysState false []) 0).en = false ∧ (∀ t ∈ (sysState false []).trace.toList, t.live = false) ∧
    Solo (sysState false oneCall) (.sret hd) hd (pathU false) sysWarp 0 ∧
    isOk (pop (issuedState (sysState false oneCall) (pathU false) hd) (acting (sysState false oneCall) (pathU false) hd) 0).2 = true ∧
    (∀ m : TlbiMode, Solo (sysState false []) (.tlbi hd m (.g 12) (.g 8)) hd (pathU false) sysWarp 0) ∧
    (let s := sysState true dcapMem
     (∀ op : DcapOp, Solo s (.dcap hd op (.g 20) (.g 8) (.g 12) (.g 8)) hd (pathU true) sysWarp 0) ∧ scarpOk (s.dcapbase.toNat + 65535) = true ∧
     operand s (pathU true) hd 0 (.g 8) false = 1 ∧
     (let ent := dentNow (issuedState s (pathU true) hd) 1
      ent.valid = true ∧ ent.gen = 0 ∧ ent.holder = 1 ∧ Nat.land (keep 0x80 7 1) (254 - ent.rights) = 0) ∧
     freeDent (issuedState s (pathU true) hd) = some 2 ∧ s.revoked = [] ∧
     (dentNow (sysState true []) 1).valid = false) ∧
    Handled (sysState true []) hd (pathU true) sysWarp 0x12A ∧ Ready (sysState false []) (.trig hd 5) (pathU false) sysWarp ∧
    activeLanes (sysState false []) (pathU false) hd ≠ [] ∧ Machine.holds (sysState true []) w0 .trace (fun _ => true) = none :=
  ⟨fun sp => ⟨soloS _ _ _ (by cases sp <;> rfl) (by decide +kernel), soloS _ _ _ (by cases sp <;> rfl) (by decide +kernel)⟩, by decide +kernel, by decide +kernel, by decide +kernel,
    soloS _ _ _ rfl (by decide +kernel), by decide +kernel, handled (by decide +kernel), handled (by decide +kernel),
    handled (by decide +kernel), by simp only [List.mem_singleton, forall_eq]; exact ⟨_, rfl, by decide +kernel⟩,
    soloS _ _ _ rfl (by decide +kernel), soloS _ _ _ rfl (by decide +kernel), by decide +kernel, by decide +kernel, rfl, by decide +kernel,
    soloS _ _ _ rfl (by decide +kernel), by decide +kernel, fun m => soloS _ _ _ (by cases m <;> rfl) (by decide +kernel),
    ⟨fun op => soloS _ _ _ (by cases op <;> rfl) (by decide +kernel), by decide +kernel, by decide +kernel, by decide +kernel, freeDent_two _ (by decide +kernel), rfl, by decide +kernel⟩,
    handled (by decide +kernel), (soloS _ _ _ rfl (by decide +kernel)).toReady, by decide +kernel, by decide +kernel⟩
/-- A trace that captures, with a cycle trigger, and one whose trigger takes effect. -/
def trc : Trace := { base := 0xC0000, en := true, src := 4, cyc := 9, post := 3 }
def tideState (rows : W32) : State :=
  { sysState false [] with cycle := 1024, tide := { k := 10, en := true, base := 0x100000, rows := rows, seq := 3 } }
def traceState (t : Trace) : State := { sysState false [] with cycle := 9, trace := (Vector.replicate 8 {}).setIfInBounds 0 t }
theorem wit_RegistersTraceAndHalts :
    (let s := { sysState false [] with groups := [(5, { group with halted := true }), (7, { group with ctx := 2 })] }
     s.stop = none ∧ (s.groups.map Prod.fst).Nodup ∧ s.groups.get? 5 = some { group with halted := true } ∧ warpAt s w0 = some sysWarp) ∧
    barAccess 0x2010 4 = false ∧ barAccess 0x2010 8 = true ∧ (traceState trc).stop = none ∧
    (let s := traceState { trc with effect := some 9 }
     (traceOf s 0).effect.any (· ≤ s.cycle) = true ∧ (∀ e < 8, e ≠ 0 → (traceOf s e).effect.any (· ≤ s.cycle) = false) ∧
     scarpOk ((traceOf s 0).base.toNat / 4096 * 4096 + 16 * ((traceOf s 0).wr.toNat % 2 ^ ((traceOf s 0).size + 8)) + 15) = true) ∧
    (traceOf (traceState { trc with left := some 0 }) 0).left = some 0 ∧
    (let s := tideState 2
     s.tide.en = true ∧ s.cycle % 2 ^ s.tide.k = 0 ∧ scarpOk (s.tide.base.toNat + 32768 * (s.tide.seq.toNat % s.tide.rows.toNat) + 32767) = true ∧
     s.mem.wf = true ∧ s.ms.hostLines = []) ∧ (tideState 0).tide.rows = 0 ∧ (sysState false []).tide.en = false := by
  refine ⟨⟨rfl, by decide +kernel, rfl, rfl⟩, by decide +kernel, by decide +kernel, rfl, by decide +kernel, by decide +kernel, by decide +kernel, rfl, rfl⟩

/-! Pre-emption, saves and fault records. -/

/-- The small state with a group in some mode, a mean residence, and a deadline of 1,000 cycles. -/
def preState (g : Group) (m : Nat) (flush : Nat) (cyc : Nat) : State :=
  { mapped (mwarp thr) (path 1) g 0 [] with
    ctxs := [(1, { ctx1 with pfctl := 21 + 4 * 256, pfmap := 0x90000 })]
    sched := (Vector.replicate 8 {}).setIfInBounds 0
      { launches := [(3, { rcd := rcd [(139, flush)], ctx := 1, id := 9, emitted := 1, live := 1, m := m })] }
    cycle := cyc }
/-- A fault record of the first lane, and its place in the queue of die 0. -/
def frec (kind code : Nat) (cmd : Option Nat) (inh : Bool) : FaultRec :=
  { code := code, kind := kind, lanes := 1, ipc := 0x1000, ctx := 1, inh := inh, seq := 4, cmd := cmd, gid := 5 }
def parkedWarp : Warp := { mwarp thr with th := (mwarp thr).th.setIfInBounds 0 { thr with st := .parked, rgnpc := 0xF00 } }
def frecState (r : FaultRec) : State :=
  { mapped parkedWarp (path 1) group 0 [] with fq := (Vector.replicate 8 {}).setIfInBounds 0 { en := true, base := 0xD0000, outstanding := [r] } }
def fqState (en : Bool) (tail : W32) (r : FaultRec) : State :=
  { mapped (mwarp thr) (path 1) group 0 [] with fq := (Vector.replicate 8 {}).setIfInBounds 0 { en := en, base := 0xD0000, tail := tail, waiting := [r] } }
theorem wit_PreemptionAndFaultRecords :
    (∃ i : Instr, ∃ hit : Group → Bool, (∃ k, i = .preemptContext k ∧ hit = fun g => g.ctx == k) ∧ hit group = true) ∧
    (preemptDone (preemptAll (preState group 5 0 0) fun g => g.ctx == 1)).stop = none ∧
    (preState group 5 0 0).groups = [(5, group)] ∧ group.ending = false ∧ group.pre = .none ∧
    mayDrain (preState group 5 0 0) group = true ∧ mayDrain (preState group 0 0 0) group = false ∧ mayFlush (preState group 0 0 0) 5 group = false ∧
    (let s := preState group 0 0 0
     ((s.ctxs.get? 1).isSome ∧ (preemptDone (preemptAll (holdRecords { updCtx s 1 (fun r => { r with suspended := true }) with preSuspend := some 1 } 1)
       fun g => g.ctx == 1)).stop = none) ∧ (ctxOf s 1).suspended = false) ∧
    (let s := updCtx (preState group 0 0 0) 1 fun r => { r with suspended := true, heldbase := 0xA0000, heldcnt := 1, heldDies := [0] }
     (s.ctxs.get? 1).isSome ∧ (ctxOf s 1).suspended = true ∧ ((heldRecords s 1).2).isSome ∧ (heldRecords s 1).1.stop = none) ∧
    saveReady (preState group 0 0 0) 5 = false ∧ saveReady (preState { group with pre := .saving 1 } 0 0 0) 5 = true ∧
    (let g := { group with pre := .draining 1000 }
     (preState g 0 0 1000).groups.get? 5 = some g ∧ g.pre = .draining 1000 ∧ g.ending = false ∧ 1000 ≤ (preState g 0 0 1000).cycle ∧
     (preState g 0 0 999).cycle < 1000) := by
  refine ⟨⟨.preemptContext 1, _, ⟨1, rfl, rfl⟩, rfl⟩, by decide +kernel, rfl, rfl, rfl, by decide +kernel, by decide +kernel, by decide +kernel,
    ⟨⟨by decide +kernel, by decide +kernel⟩, by decide +kernel⟩, by decide +kernel, by decide +kernel, by decide +kernel, rfl, rfl, rfl, by decide +kernel, by decide +kernel⟩
theorem wit_PreemptionAndFaultRecords_records :
    outstandingRec (frecState (frec 0 0x163 none false)) 0 3 = none ∧
    (∀ r ∈ [frec 0 0x160 none false, frec 0 0x163 none true, frec 0 0x15F none false, frec 0 0x164 none false, frec 0 0x161 none false, frec 2 0x060 (some 11) false],
      (outstandingRec (frecState r) 0 4).map (·.kind) = some r.kind ∧ gidOf (frecState r) r.place = r.gid ∧
      gidOf (frecState { r with gid := 6 }) r.place ≠ 6 ∧ ∀ t ∈ (frecState r).trace.toList, t.live = false) ∧
    (thrAt (frecState (frec 0 0x060 none false)) w0 0).st = .parked ∧ copyById (frecState (frec 2 0x060 (some 11) false)) 0 11 = none ∧
    (ctxOf (frecState (frec 0 0x160 none false)) 1).trapentry &&& 0x01FFFFFFFFFFFFFC#64 ≠ 0 ∧
    ((frecState (frec 0 0x160 none false)).groups.get? 5).isSome ∧
    (killGroup (dispose (frecState (frec 0 0x160 none false)) 0 4) 5 group).stop = none ∧
    (∀ b ∈ [(false, 0), (true, 0), (true, 64)], let q := fqOf (fqState b.1 (w32 b.2) (frec 0 0x060 none false)) 0
     q.waiting = [frec 0 0x060 none false] ∧ q.en = b.1 ∧ q.room = (b.2 == 0) ∧ scarpOk (q.base.toNat / 4096 * 4096 + 64 * (q.tail.toNat % q.ring) + 63) = true) := by
  refine ⟨?_, ?_, ?_, ?_, ?_, ?_, ?_, ?_⟩ <;> decide +kernel

/-! The host link, power and reset. -/

/-- Message vector 3 pends, unmasked; vector 9 is unmasked. -/
def msixState : State := { State.reset with msix := { enable := true, fmask := false, mask := 0, pend := 8 } }
/-- A queue agent with one launch packet at host address 1000h, its tail count of 1 at 2000h. -/
def hqState (tail : W32) (r : LRec) : State :=
  { mapped (mwarp thr) (path 1) group 0 (cellsOf (2 ^ 52 + 0x1000) (toBytes 128 r.toNat) ++ cellsOf (2 ^ 52 + 0x2000) (toBytes 4 tail.toNat)) with
    mbxbase := 1, hq := (Vector.replicate 16 {}).setIfInBounds 2 { base := 0x1000, tail := 0x2000, en := true, size := 0, ctx := 1, woken := true } }
/-- Its agent has read the tail count and the head packet, which is refused, and the host has answered. -/
def hqRead (tail : W32) : State :=
  let r : LRec := lRec ||| 2 ^ 117
  { hqState tail r with hq := (hqState tail r).hq.setIfInBounds 2 { (hqState tail r).hq.getD 2 {} with
      tailIs := some tail, pkt := some (toBytes 128 r.toNat) } }
theorem wit_HostEventsComplete :
    msixState.stop = none ∧ msixState.replay.getLsbD 0 = false ∧ msixState.msix.pend.getLsbD 3 = true ∧ msixState.msix.pend.getLsbD 15 = false ∧
    msixState.msix.mask.getLsbD 9 = false ∧
    (agentDue (hqState 1 lRec) 2 = true ∧ agentDue (hqState 1 lRec) 0 = false) ∧
    (let s := hqState 17 lRec
     (s.hq.getD 2 {}).tailIs = none ∧ w32 (ofBytes (homeRead s (hostKey 0x2000) 4)) = 17 ∧ (s.hq.getD 2 {}).ring = 16 ∧ (s.hq.getD 2 {}).head = 0 ∧
     (agentAsks s 2 [hostKey 0x2000, packetKey (s.hq.getD 2 {}), packetKey (s.hq.getD 2 {}) + 64]).stop = none ∧
     ((hqRead 17).hq.getD 2 {}).tailIs = some 17) ∧
    (((hqRead 0).hq.getD 2 {}).tailIs = some 0 ∧ (agentRest (hqRead 0) 2).stop = none) ∧
    (((hqRead 1).hq.getD 2 {}).tailIs = some 1 ∧ agentDue (hqRead 1) 2 = true ∧ (agentWork 2 1 (3 * 16 + 3) (hqRead 1)).stop = none) ∧
    ((hqState 1 lRec).ctxs.get? 1).isSome ∧ (hqState 1 lRec).ctxs.get? 2 = none ∧ (hqState 1 lRec).ctxs.length < 4096 ∧
    ctxInUse (hqState 1 lRec) 1 = true ∧
    (let s := { hqState 1 lRec with ctxs := [(1, {}), (2, {})] }
     (s.ctxs.get? 2).isSome ∧ ctxInUse s 2 = false) ∧
    msixState.att = none ∧ ({ msixState with att := some (0x3000, 5) } : State).att = some (0x3000, 5) := by
  refine ⟨?_, ?_, ?_, ?_, ?_, ?_, ?_, ?_, ?_, ?_, ?_, ?_, ?_, ?_, rfl, rfl⟩ <;> decide +kernel
/-- A trained width, and none; a line that D0 holds. -/
theorem wit_HostEventsComplete_link :
    linkFits 16 128 = true ∧ linkFits 3 128 = false ∧ (1 : Nat) ≠ 0 ∧
    (((hostAsks (hqState 1 lRec) [hostKey 0x2000]).ms.hostLines.get? (hostLineKey (0x2000 / 64))).isSome ∨
      (hqState 1 lRec).ms.hostLines.get? (hostLineKey (0x2000 / 64)) = none) ∧
    ((hqState 1 lRec).hq.getD 2 {}).tail.toNat / 64 = 0x2000 / 64 ∧ (0 : Nat) < 2 ∧ 2 < 0xFFFF ∧ (hqState 1 lRec).ctxs.get? 2 = none := by decide +kernel
theorem le_sum (l : List Nat) (n : Nat) (h : n ∈ l) : n ≤ l.sum := by
  induction l with
  | nil => cases h
  | cons m l ih =>
    rw [List.sum_cons]
    rcases List.mem_cons.1 h with rfl | h
    · exact Nat.le_add_right _ _
    · exact Nat.le_trans (ih h) (Nat.le_add_left _ _)
/-- A start-up whose boundaries have all trained. -/
def trainedState : State :=
  { State.reset with startup := 128, training := ((List.range boundaries.length).map Config.trainSteps).sum }
theorem trainedState_trained : allTrained trainedState = true := by
  have h : ∀ i < boundaries.length, Config.trainSteps i ≤ trainedState.training := fun i hi =>
    le_sum _ _ (List.mem_map_of_mem (List.mem_range.2 hi))
  have b : ∀ i < boundaries.length, 16 * max (boundaries.getD i (0, 0)).1 (boundaries.getD i (0, 0)).2 + 1 ≤ 128 := by decide +kernel
  have d : ∀ i < boundaries.length, 16 * (boundaries.getD i (0, 0)).1 + 0 < 128 ∧ 16 * (boundaries.getD i (0, 0)).2 + 0 < 128 := by decide +kernel
  refine List.all_eq_true.2 fun i hi => ?_
  have hi := List.mem_range.1 hi
  have h1 := h i hi; have h2 := b i hi; have h3 := d i hi
  have e : trainedState.startup = 128 := rfl
  simp only [trained, started, e, Bool.and_eq_true, decide_eq_true_eq]
  exact ⟨h3, by omega⟩
/-- A start-up of 128 steps. -/
def stepped : State := { State.reset with startup := 128 }
/-- Whether a package whose 128 steps are over still trains is its configuration's: it does when a boundary takes long enough. -/
theorem untrained (i : Nat) (hi : i < boundaries.length) (h : 128 ≤ Config.trainSteps i) : allTrained stepped = false := by
  refine List.all_eq_false.2 ⟨i, List.mem_range.2 hi, ?_⟩
  have e : stepped.startup + stepped.training = 128 := rfl
  simp only [trained, started, Bool.and_eq_true, decide_eq_true_eq, e]
  omega
theorem wit_PowerAndResetEvents :
    (∀ c ∈ [8, 12], let s := { State.reset with cycle := 8, pwrCmd := some (1, c) }
     s.stop = none ∧ s.thermAt = none ∧ (∀ d < 8, (traceOf s d).live = false) ∧ (c ≤ s.cycle ∨ s.cycle < c)) ∧
    (let s := { State.reset with cycle := 8, thermAt := some 8 }
     s.pwrCmd = none ∧ (∀ d < 8, (traceOf s d).live = false)) ∧
    (let s := { State.reset with inReset := true }
     s.inReset = true ∧ s.power = true ∧ s.bootDone = false ∧ s.thermAt = none) ∧
    (State.reset.power = true ∧ State.reset.inReset = false ∧ State.reset.ready = false ∧ State.reset.startup < 127 ∧ State.reset.bootDone = false ∧
      State.reset.firmware = 0 ∧ ¬State.reset.fwVersion < State.reset.secFloor) ∧
    (let s := { State.reset with startup := 127 }
     s.startup = 127 ∧ s.ready = false) ∧
    (trainedState.startup = 128 ∧ trainedState.inReset = false ∧ trainedState.ready = false ∧ trainedState.bootDone = false ∧ trainedState.power = true) ∧
    (let s := { State.reset with firmware := 1 }
     s.firmware ≠ 0) ∧ ({ State.reset with secFloor := 1 } : State).fwVersion < 1 := by
  refine ⟨?_, ?_, ?_, ?_, ?_, ?_, ?_, ?_⟩ <;> decide +kernel
theorem wit_PowerAndResetEvents_errors :
    lineDamage State.reset 5 = none ∧
    (let s := { State.reset with ms := { damage := [.scarp 5 0], l2 := [(5, { cls := 2 })] }, cycle := 2 ^ 18 }
     s.ms.found = [] ∧ lineDamage s 5 = some 0x08E ∧ homeDie (5 * 128) < 8 ∧
     (s.ms.l2.get? 5).map (fun e => agingLine s (homeDie (5 * 128)) (5, e)) = some true) ∧
    ({ State.reset with ms := { found := [(0x08E, 0, 5)] } } : State).ms.found = [(0x08E, 0, 5)] ∧ State.reset.mem.wf = true := by
  refine ⟨?_, ?_, rfl, rfl⟩ <;> decide +kernel

/-! Votes, gates, images. -/

/-- A warp with lane 0 at 1000h and lane 1 at 1010h, both yielding, over memory with a NOP at each; quadrant 0 issued last from some slot. -/
def voteState (two : Bool) (last : Nat) : State :=
  let nop := (encode (.nop hd)).getD 0
  let m := cellsOf 0x1000 (toBytes 12 nop.toNat) ++ cellsOf 0x1010 (toBytes 12 nop.toNat)
  let x := warp (if two then 2 else 1) { thr with yield := true, wait := 3 }
  { mapped { x with th := if two then x.th.setIfInBounds 1 { thr with pc := 0x1010 } else x.th } (path 1) group (2 ^ 138) m with
    cur := none, lastSlot := [(0, last)] }
theorem wit_VoteLatchesPaths :
    (let s := voteState true 7
     s.stop = none ∧ (∀ k < 8, eligible s { core := 0, quad := 1, slot := k } = false) ∧
     eligible s { core := 0, quad := 0, slot := (7 + 1 + 0) % 8 } = true ∧ (votePaths s w0).length = 2 ∧ progressOn s w0 = true ∧
     (votePaths s w0).tail.all (fun p => pathReady s w0 p && pathPortB s w0 p) = true) ∧
    (let s := voteState false 5
     (∀ j < 2, eligible s { core := 0, quad := 0, slot := (5 + 1 + j) % 8 } = false) ∧
     eligible s { core := 0, quad := 0, slot := (5 + 1 + 2) % 8 } = true ∧ (votePaths s w0).length = 1) := by
  refine ⟨⟨rfl, ?_⟩, ?_⟩ <;> decide +kernel

/-- A host write of 8 bytes. -/
def arr (kind : Nat) : Arrival := { kind := kind, addr := 0x100, reqlen := 8, data := toBytes 8 0x1122334455667788 }
/-- Gate 0 with its ring of 4 entries at 4_0000h. -/
def gateState (g : Gate) (cyc : Nat) : State :=
  { State.reset with cycle := cyc, gates := (Vector.replicate 34 {}).setIfInBounds 0 { g with base := 0x40000 } }
/-- Replaying, with the log entry of a host write at cycle 9. -/
def replayState (cyc : Nat) (pl : Bool) : State :=
  let g : Gate := { base := 0x40000, tail := 1, payload := pl }
  { gateState g cyc with replay := 1, replayCtl := 3, replayEnd := 9, mem := cellsOf 0x40000 (entryBytes 0 g 9 9 (arr 1) 0 false) }
/-- An image of this package, written at 10_0000h, or a region too small for one. -/
def imgState (st : BitVec 2) (size : Nat) (images : List Image) : State :=
  { State.reset with swState := st, imgSize := BitVec.ofNat 32 size, imgBase := 0x100000, images := images, cycle := 9 }
def img1 : Image := { pkg := { cycle := 9 }, data := [] }
def imgWritten (st : BitVec 2) : State :=
  { imgState st imgLen [img1] with mem := (imgState st imgLen [img1]).mem.putAll (imageCells img1 (imgState st imgLen [img1]).imgBase.toNat) }
theorem wit_GatesReplayAndImages :
    (gateState {} 5).stop = none ∧ ((gateState {} 5).gates.getD 0 {}).queue = [] ∧
    (∀ cyc ∈ [5, 3200], ∀ en ∈ [true, false], let s := gateState { queue := [arr 1], en := en } cyc
     let g := s.gates.getD 0 {}
     g.queue = arr 1 :: [] ∧ g.en = en ∧ replays s 0 = false ∧ entriesOf g (arr 1) = 1 ∧ (g.tail - g.head).toNat + 1 ≤ g.ring ∧
     logRoom s (gateDie 0) 1 = true ∧ scarpOk (g.base.toNat + 128 * (g.tail.toNat % g.ring) + 127) = true ∧ s.mem.wf = true ∧ s.ms.hostLines = []) ∧
    (let s := gateState { queue := [arr 1], en := true, tail := 5, head := 1 } 5
     let g := s.gates.getD 0 {}
     g.queue = arr 1 :: [] ∧ g.en = true ∧ replays s 0 = false ∧ g.ring < (g.tail - g.head).toNat + entriesOf g (arr 1)) ∧
    (∀ ac ∈ [5, 6], ∀ k ∈ [1, 2], let s := gateState { crossed := [(5, ac, arr k)] } 5
     (s.gates.getD 0 {}).crossed = (5, ac, arr k) :: [] ∧ (s.cycle < ac ∨ ac ≤ s.cycle) ∧ (arr k).kind = k ∧
     barAccess ((arr k).addr.toNat % 2 ^ 24) (arr k).reqlen = true ∧ s.replay.getLsbD 0 = false) ∧
    (injectDue (replayState 8 true) 0 = false ∧ injectDue (replayState 9 true) 0 = true ∧
      (rebuild (replayState 9 true) 0 ((replayState 9 true).gates.getD 0 {}).head.toNat 0).isSome) ∧
    (let s := replayState 9 true
     s.replay ≠ 0 ∧ s.replayEnd.toNat = s.cycle ∧ s.replayEnd ≠ 0) ∧
    (∀ st ∈ [(0 : BitVec 2), 1, 2, 3], (imgState st 0 []).swState = st ∧ (imgState st 0 []).imgSize.toNat < imgLen ∧
      imgLen ≤ (imgState st imgLen []).imgSize.toNat ∧ (imgState st 0 []).stop = none) ∧
    (let s := imgState 1 imgLen [img1]
     s.images = img1 :: [] ∧ img1.pkg.cycle = s.cycle ∧ scarpOk (s.imgBase.toNat + 65536 * imgLen - 1) = true) ∧
    (let s := { State.reset with inReset := true, bootDone := true }
     s.swState = 0 ∧ s.inReset = true ∧ s.bootDone = true ∧ s.bootRes = 0 ∧ ofBytes (s.mem.read (s.imgBase.toNat + 4) 2) ≠ 1) ∧
    ofBytes ((imgState 2 0 []).mem.read ((imgState 2 0 []).imgBase.toNat + 4) 2) ≠ 1 := by
  refine ⟨rfl, ?_, ?_, ?_, ?_, ?_, ?_, ?_, ?_, ?_, ?_⟩ <;> decide +kernel
/-- A region with VERSION 1, no section, and some byte in the place of its CRC. -/
def region (b : Nat) : Memory := cellsOf 0x100000 ([0, 0, 0, 0, 1] ++ List.replicate 23 0 ++ [BitVec.ofNat 8 b])
/-- The bytes that its CRC covers. -/
def covered : List Byte := [0, 0, 0, 0, 1] ++ List.replicate 251 0
def strange (st : BitVec 2) (b : Nat) : State := { imgState st 0 [] with mem := region b }
theorem crcsHold_strange (st : BitVec 2) (b : Nat) (h : b = 0 ∨ b = 1) : crcsHold (strange st b) = (crc32 covered == b) := by
  have e : crcsHold (strange st b) = (crc32 (((region b).read 0x100000 256).take 28 ++ toBytes 4 0 ++ ((region b).read 0x100000 256).drop 32 ++
    (region b).read (0x100000 + 256) (32 * ofBytes ((((region b).read 0x100000 256).drop 6).take 2))) ==
      ofBytes ((((region b).read 0x100000 256).drop 28).take 4) &&
    (List.range (ofBytes ((((region b).read 0x100000 256).drop 6).take 2))).all fun i =>
      let e := ((region b).read (0x100000 + 256) (32 * ofBytes ((((region b).read 0x100000 256).drop 6).take 2))).drop (32 * i)
      crc32 ((region b).read (0x100000 + ofBytes ((e.drop 8).take 8)) (ofBytes ((e.drop 16).take 8))) == ofBytes ((e.drop 4).take 4)) := rfl
  have n : ofBytes ((((region b).read 0x100000 256).drop 6).take 2) = 0 := by rcases h with rfl | rfl <;> decide +kernel
  have k : ofBytes ((((region b).read 0x100000 256).drop 28).take 4) = b := by rcases h with rfl | rfl <;> decide +kernel
  have c : ((region b).read 0x100000 256).take 28 ++ toBytes 4 0 ++ ((region b).read 0x100000 256).drop 32 ++
    (region b).read (0x100000 + 256) (32 * 0) = covered := by rcases h with rfl | rfl <;> decide +kernel
  rw [e, n, k, c]
  simp
theorem imageAt_strange (st : BitVec 2) (b : Nat) (h : crcsHold (strange st b) = false) : imageAt (strange st b) = none := by
  unfold imageAt
  rw [h]
  rfl
/-- At most one value is the right CRC, so one of two is wrong: a restore finds no image. -/
theorem wit_GatesReplayAndImages_wrongCrc (st : BitVec 2) : ∃ b, (strange st b).swState = st ∧
    ofBytes ((region b).read ((strange st b).imgBase.toNat + 4) 2) = 1 ∧ imageAt (strange st b) = none := by
  have one : ∀ b ∈ [0, 1], ofBytes ((region b).read (0x100000 + 4) 2) = 1 := by decide +kernel
  rcases Nat.decEq (crc32 covered) 0 with h | h
  · exact ⟨0, rfl, one 0 (by simp), imageAt_strange st 0 (by rw [crcsHold_strange st 0 (.inl rfl)]; simpa using h)⟩
  · exact ⟨1, rfl, one 1 (by simp), imageAt_strange st 1 (by rw [crcsHold_strange st 1 (.inr rfl), h]; rfl)⟩
/-- A restore finds the image. -/
theorem wit_GatesReplayAndImages_image (st : BitVec 2) :
    imageAt (imgWritten st) = some img1 ∧ ofBytes ((imgWritten st).mem.read ((imgWritten st).imgBase.toNat + 4) 2) = 1 ∧
    ∀ d < 8, (img1.pkg.trace.getD d {}).live = false :=
  ⟨imageAt_written (imgState st imgLen [img1]) img1 [] rfl rfl, image_version_written (imgState st imgLen [img1]) img1 rfl, by decide +kernel⟩
theorem wit_GatesReplayAndImages_states : (imgWritten 3).stop = none ∧ (imgWritten 3).swState = 3 ∧ (imgWritten 2).swState = 2 := ⟨rfl, rfl, rfl⟩
def restored : State := { imgWritten 3 with
  toPackage := loadPackage (imgWritten 3) img1, mem := restoredMem (imgWritten 3) img1
  swState := 0, ready := true, began := true, inReset := false, startup := 128, verified := true, bootErr := 0 }
theorem wit_GatesReplayAndImages_restored : (beginCycle restored ((img1.pkg.cycle + 1) % 2 ^ 64)).stop = none := by decide +kernel

/-! Conflicts, fresh groups, k destinations. -/

/-- A held tenure of some blocks. -/
def tenOf (blocks : List Nat) (w : Bool) : Tenure :=
  { gid := 5, handle := 0, write := w, st := 1, foot := blocks.map fun b => (512 * b, 512) }
theorem wit_TenuresConflictOnSharedBlocks :
    (tenOf [1, 2] true).conflicts (tenOf [2, 3] false) = true ∧ (tenOf [1, 2] false).write = false ∧
    (tenOf [1, 2] false).conflicts (tenOf [2, 3] false) = false ∧ (tenOf [1, 2] true).conflicts (tenOf [3] true) = false := by decide +kernel
theorem wit_FreshGroupStarts :
    let s := schedState 0 [] []
    (launchOf s (Rcd.lti (gRec 0 false))).isSome ∧ s.groups.get? s.nextId = none ∧ (∀ e ∈ s.warps, e.2.gid ≠ s.nextId) ∧ LRec.warps lRec = 1 ∧
    LRec.warps lRec ≤ freeSlots s 0 := by decide +kernel
theorem wit_KDestinationTakesLowestThread :
    let s := demoN 2
    let o : Un := { ty := .n32, d := .k 9, a := .g 2 }
    warpAt s w0 = some (warp 2 thr) ∧ ({ s with cur := some { path 2 with kfree := true } } : State).cur.map (·.kfree) = some true ∧
    Ready s (.mov hd o) (path 2) (warp 2 thr) ∧ tyMov o.ty = true ∧ o.ty.is64 = false ∧ activeLanes s (path 2) hd = [0, 1] :=
  ⟨rfl, rfl, readyN _ rfl, rfl, rfl, by decide +kernel⟩

/-! Clauses that a first witness does not reach. -/

/-- The state after a load of 20h. -/
def loaded : State := (loadBytes (mapped1 []) w0 0 acc4 0 false).1
theorem wit_LoadsAndStores_clauses :
    (mapped1 []).tide.en = false ∧ (mapped1 []).ms.posted = [] ∧ loaded.ten = [] ∧ loaded.ms.hostLines = [] ∧
    (∀ k ∈ acc4.keys, (l1Byte loaded 0 k).isSome) ∧ ((l1Of loaded 0).get? 0).isSome ∧ atHome { page with sc := true } = true ∧
    lateral 0 (2 ^ 53 + 2 ^ 26) = true ∧ lateral 0 (2 ^ 53) = false := by
  refine ⟨?_, ?_, ?_, ?_, ?_, ?_, ?_, ?_, ?_⟩ <;> decide +kernel
theorem wit_FenceAndLineMaintenance_clauses :
    (∀ s ∈ [mapped1 [], stored], accessOpen s w0 0 = false ∧ hostOpen s w0 0 true = false ∧ s.ten = []) ∧
    ({ thr with relSeen := [(0, 3)] } : Thread).relSeen = [(0, 3)] ∧ behind (mapped1 []) 0 3 = false ∧
    heldBehind (mapped1 []) (some 5) 0 3 = false ∧
    (match virtAcc (settlePosted (issuedState (mapped1 []) (path 1) hd) w0 0) w0 32 1 with
     | (_, .ok acc) => permit acc (path 1).user false == none && acc.page == some page
     | _ => false) = true ∧
    operand (mapped1 []) (path 1) hd 0 (.g 20) false = 0 ∧ page.c = true := by
  refine ⟨?_, rfl, ?_, ?_, ?_, ?_, rfl⟩ <;> decide +kernel
theorem wit_MemoryEventsComplete_clauses :
    (let s := { busy with ms := { busy.ms with drainReq := [(0, 808)] } }
     s.ms.drainReq = [(0, 808)] ∧ s.ms.damage = [] ∧ s.ten = [] ∧ s.ms.hostLines = []) ∧
    (nextPosted busy).isSome = true ∧ busy.ms.posted.Nodup ∧
    (let s := { busy with ms := { busy.ms with
        posted := [{ w := w0, lane := 0, gid := 5, bytes := [(2 ^ 53 + 2 ^ 26, 7)], vault := true, sset := none, wait := true }] } }
     (nextPosted s).map (fun p => (p.wait, p.sset)) = some (true, none)) ∧
    (let s := { busy with ms := { busy.ms with
        forwards := (Vector.replicate 8 []).setIfInBounds 0 [{ line := 0, tag := 2, bytes := [(5, 7)], vc := [2, 1, 0, 0, 0, 0, 0, 0] }] } }
     forwardNext s 0 = some 0 ∨ forwardStuck s 0 = true) := by
  refine ⟨?_, ?_, ?_, ?_, ?_⟩ <;> decide +kernel
theorem wit_Supersteps_and_members_clauses :
    (let s := demo (waitingWarp .superstep) (path 2) { group with ssbArrived := true } inSet
     putOpen s ((members s 2).map (·.1)) = false) ∧
    (demoN 2).ms.posted = [] ∧ (demoN 2).ten = [] ∧ (∀ q ∈ (demoN 2).hostReqs, q.own = none) ∧
    (let x := { warp 2 thr with th := (warp 2 thr).th.setIfInBounds 0 { thr with st := .member (.wsync hd (.k 8)) 3 } }
     hasLane 3 1 = true ∧ (x.thr 1).st = .running ∧ x.gone 0x1000 = 0) := by
  refine ⟨?_, rfl, rfl, ?_, ?_⟩ <;> decide +kernel
/-- No lane waits as a member. -/
def noneWaits (x : Warp) : Bool := x.th.toList.all fun t => match t.st with | .member _ _ => false | _ => true
/-- Lane 1's guard is false and lane 2 has exited, both named by lane 0; each lane names the other alone; lanes 0 and 1 name each other and
lane 1 names lane 0 and itself, lane 2 all three. -/
theorem wit_MembersExchangeValues_absent :
    (let x := { warp 2 thr with th := ((warp 2 thr).th.setIfInBounds 1 (thr.setPred 0 true)).setIfInBounds 0 (thr.setReg 20 7) }
     let h : Hdr := { hd with grd := { neg := true, p := 0 } }
     let s := demo x (path 2) group 0
     Ready s (.vote h { mode := .ballot, d := .g 5, a := .p 1, c := .g 20 }) (path 2) x ∧ activeLanes s (path 2) h = [0] ∧
     operand s (path 2) h 0 (.g 20) false = (7 : W32).toNat ∧ (∀ l ∈ lanesOf (path 2).lanes, hasLane 7 l = true) ∧
     (∀ j < 32, hasLane 7 j = true → j ∈ lanesOf (path 2).lanes ∨ (x.thr j).st = .exited) ∧ noneWaits x = true ∧
     x.absent.get? (path 2).pc.toNat = none) ∧
    (let x := { warp 2 thr with th := ((warp 2 thr).th.setIfInBounds 1 (thr.setReg 20 1)).setIfInBounds 0 (thr.setReg 20 2) }
     let s := demo x (path 2) group 0
     Ready s (.shfl hd { mode := .xor, ty := .n32, d := .g 5, a := .g 4, b := .k 10, c := .g 20 }) (path 2) x ∧ activeLanes s (path 2) hd = [0, 1] ∧
     operand s (path 2) hd 0 (.g 20) false = 2 ∧ operand s (path 2) hd 1 (.g 20) false = 1 ∧ hasLane 2 0 = false ∧ hasLane 1 1 = false ∧
     Handled s hd (path 2) x 0x0E5) ∧
    (let x := { warp 3 thr with th := ((warp 3 thr).th.setIfInBounds 2 (thr.setReg 20 7)).setIfInBounds 0 (thr.setReg 20 3) |>.setIfInBounds 1 (thr.setReg 20 3) }
     let s := demo x (path 3) group 0
     Ready s (.wsync hd (.g 20)) (path 3) x ∧ activeLanes s (path 3) hd = lanesOf (path 3).lanes ∧ noneWaits x = true ∧
     x.absent.get? (path 3).pc.toNat = none ∧ (∀ l ∈ [(0, 3), (1, 3), (2, 7)], operand s (path 3) hd l.1 (.g 20) false = l.2 ∧ hasLane (w32 l.2) l.1 = true ∧ hasLane (w32 l.2) 0 = true ∧
       ∀ j < 32, hasLane (w32 l.2) j = true → j ∈ lanesOf (path 3).lanes) ∧ s.ten = [] ∧ (∀ q ∈ s.hostReqs, q.own = none) ∧
     Handled s hd (path 3) x 0x0E6) :=
  ⟨⟨ready _ _ _ _ rfl rfl rfl rfl rfl rfl (by decide +kernel), by decide +kernel⟩,
    ⟨ready _ _ _ _ rfl rfl rfl rfl rfl rfl (by decide +kernel), by decide +kernel, by decide +kernel, by decide +kernel, by decide +kernel, by decide +kernel,
      handled (by decide +kernel)⟩,
    ⟨ready _ _ _ _ rfl rfl rfl rfl rfl rfl (by decide +kernel), by decide +kernel, by decide +kernel, rfl, by decide +kernel, rfl, by decide +kernel, handled (by decide +kernel)⟩⟩
theorem wit_Tenure_clauses :
    (let s := tileState [(1, bound)] [(7, { ten7 true 1 with gid := 6 })] {}
     Ready s (.tenr hd (tenrOps true)) (path 1) tileWarp ∧ (∀ e ∈ s.ten, e.2.gid = 5 → e.2.cmd = none → False) ∧
     (match footprint (issuedState s (path 1) hd) (acting s (path 1) hd) bound with
      | (_, .ok (_, foot, _)) => s.ten.any fun e => e.2.st != 0 && e.2.conflicts { ten7 true 0 with foot := foot }
      | _ => false) = true) ∧
    (∀ l ∈ activeLanes (tileState [] [] {}) (path 1) hd, (tileWarp.thr l).relSeen = []) ∧ (tileState [] [] {}).ms.posted = [] ∧
    (ten7 true 1).wait = [] ∧ (ten7 false 1).held = [] ∧ (ten7 false 1).shadow = [] ∧ isHost 0x10000 = false :=
  ⟨⟨readyT _ _ _ _ rfl, by decide +kernel⟩, by decide +kernel, rfl, rfl, rfl, rfl, by decide⟩
theorem wit_Commands_clauses :
    cmdWaits (tileState [] [] mine) 11 = false ∧ ((engineOf (tileState [] [] mine) 0).queue = []) ∧
    (let s := tileState [] [] mine
     let q := { zacc 128 0 false with op := 2, a := tidEntry s 1 1, fl := { sc := .grp, acq := false, rel := false, it := true } }
     (q.agent 0).readHeld (issuedState s (path 1) hd) q.tiles = false ∧
     (drainSeen ((q.agent 0).request { issuedState s (path 1) hd with nextId := s.nextId + 1 } q.fl.sc w0 q.tiles) w0 [0]).stop = none) ∧
    (let s := copyState (producer 0) []
     (ctabOf s 0).get? 0 = none ∧ (ctabOf s 0).length < 4096 ∧ 0x100 + 12 + 4 * 0 ≤ (producer 0).scr * 256) ∧
    (let s := { copyState (producer 0) [] with coal := [(0, [acmd true none 0])], cycle := 5 }
     cmdWaits s 11 = false ∧ (acmd true none 0).due ≤ s.work ∧ (acmd true none 0).moved = [] ∧ (acmd true none 0).got = []) := by
  refine ⟨?_, ?_, ?_, ?_, ?_⟩ <;> decide +kernel
theorem wit_WorkIsScheduled_clauses :
    (let s := schedState 0 [] []
     ((schedOf s 0).queues.toList.flatMap id).length < 512 ∧ (∀ q ∈ (schedOf s 0).queues.toList.flatMap id, q.ov = none) ∧
     (qd (gRec 0 false)).ov = none) ∧
    (let s := schedState 1 [qd (gRec 0 false)] []
     ((launchOf (popRcd s 0 4 (qd (gRec 0 false))) 3).map (·.firstAt)).getD 9 ≤ s.cycle) ∧
    (launchRoom (recState []) 0 4 = true ∧ dieOf w0.core < 8) ∧
    (∀ e ∈ coreGroups (growState 31 group []) 0, e = (5, group)) := by
  refine ⟨?_, ?_, ?_, ?_⟩ <;> decide +kernel
theorem wit_CollectivesAndLinks_full : 16 ≤ (collOf (collState [] ((List.range 16).map fun i => { hcmd 2 false [] with id := i })) 0).length := by
  decide +kernel
theorem wit_CollectivesAndLinks_otherRank :
    hlOf (collMem (dscOf 8 16) (entOf 2 false ||| BitVec.ofNat 512 (2 ^ 16))) (fun s d e => !Dsc.malformed d 0 (HEnt.n e) && !HEnt.bad e 1 &&
      HEnt.rank s e (HEnt.pos e) != s.hlpkgid.toNat) = true := by
  decide +kernel
theorem wit_System_clauses : accessOpen (sysState false []) w0 0 = false ∧ (traceOf (traceState { trc with effect := some 9 }) 0).lost = 0 ∧
    logRoom (traceState { trc with effect := some 9 }) 0 1 = true := by
  refine ⟨?_, ?_, ?_⟩ <;> decide +kernel

/-- Three, one and a half, and a half: no special value and no exact case of the functions that are not correctly rounded. -/
theorem wit_SingleSourceFunctions_bounds :
    Num.ofFloat .f32 0x40400000 = .fin false 0xC00000 (-22) ∧ Num.ofFloat .f32 0x3FC00000 = .fin false 0xC00000 (-23) ∧
    (0xC00000 : Nat) ≠ 2 ^ Nat.log2 0xC00000 ∧ (-128 : Int) ≤ Nat.log2 0xC00000 + (-22) ∧ (-12 : Int) ≤ Nat.log2 0xC00000 + (-22) ∧
    (Nat.log2 0xC00000 + (-23) : Int) = 0 ∧ ((-22 : Int) = 2 * (-11)) ∧ ((-23 : Int) = 2 * (-12) + 1) ∧
    (let x149 := Num.sgn false 0xC00000 * (2 ^ ((-23 : Int) + 149).toNat : Nat)
     x149 % (2 ^ 149 : Nat) ≠ 0 ∧ x149 < 128 * (2 ^ 149 : Nat) ∧ -150 * (2 ^ 149 : Nat) ≤ x149) ∧
    Num.rne .f32 (.fin false (Approx.exp2Mid (Approx.exp2Arg false 0xC00000 (-23))).natAbs
      (Approx.exp2Arg false 0xC00000 (-23) / (2 ^ 120 : Nat) - 100)) ≠ 0x7F800000 := by
  refine ⟨?_, ?_, ?_, ?_, ?_, ?_, ?_, ?_, ?_, ?_⟩ <;> decide +kernel

end Sys2Proof.Tests
end

section
/-! SUPPORT. Every step keeps memory in its canonical form (log 1). Memory is written by `Memory.putAll` and
`Memory.filter` alone, which keep the form (`Memory.putAll_wf`, `Memory.filter_wf`); everything else is that each
function of the model passes on what the functions it calls keep. So there is one lemma `f_wf` for each function `f`
that answers a state, in the order of the model, each proved along the branches of `f` from the lemmas of its callees.
A pair is spoken of by its state; an optional state, a thread's execution and an outcome by the predicates below.

A `dsimp only` before a lemma is cited brings `(f t, x).1` and an update's `mem` to the lemma's form: left to
unification, the comparison of two states goes through every field of the record. Where the kernel's comparison of `f` with
its unfolded body runs too deep (a `2 ^ 32` stands in it), `f` is opened by `delta` as a function
(`LRes.wf_of_fun`), before it has its arguments. -/
namespace Sys2Proof.Machine

/-- A step's outcome, where it goes on, has canonical memory. -/
def NextWf (o : Host.Outcome State Fault Refusal) : Prop := ∀ t, o = .next t → t.mem.wf = true

/-- A thread's execution leaves memory canonical, where it leaves a state. -/
def LRes.Wf : LRes → Prop
  | .ok s | .fail s _ _ | .wait _ s => s.mem.wf = true
  | .trap _ _ => True

/-- What a waiting path asks for leaves memory canonical. -/
def AskWf : Option (Why × State) → Prop
  | some r => r.2.mem.wf = true
  | none => True

theorem LRes.ok_wf {s : State} (hs : s.mem.wf = true) : (LRes.ok s).Wf := hs
theorem LRes.fail_wf {s : State} {code : Nat} {addr : W64} (hs : s.mem.wf = true) : (LRes.fail s code addr).Wf := hs
theorem LRes.wait_wf {s : State} {st : TState} (hs : s.mem.wf = true) : (LRes.wait st s).Wf := hs
theorem LRes.trap_wf {code : Nat} {addr : W64} : (LRes.trap code addr).Wf := trivial
theorem AskWf.some_wf {s : State} {y : Why} (hs : s.mem.wf = true) : AskWf (some (y, s)) := hs
theorem AskWf.none_wf : AskWf none := trivial

/-- The state of a pair that has been named. -/
theorem wf_of_eq {α : Type} {p : State × α} {t : State} {x : α} (e : p = (t, x))
    (hp : p.1.mem.wf = true) : t.mem.wf = true := by
  rwa [e] at hp

theorem AskWf.of_eq {o : Option (Why × State)} {y : Why} {t : State} (e : o = some (y, t))
    (ho : AskWf o) : t.mem.wf = true := by
  rwa [e] at ho

theorem done_wf {s : State} (hs : s.mem.wf = true) : NextWf (done s) := by
  unfold done
  intro t e
  split at e
  · cases e
  · cases e; exact hs

theorem LRes.wf_of_fun {α β γ : Type} {F f : α → β → γ → LRes} {a : α} {b : β} {c : γ} (e : F = f)
    (h : (F a b c).Wf) : (f a b c).Wf := by
  rwa [← e]

theorem LRes.wf_of_eq {r r' : LRes} (e : r = r') (hr : r.Wf) : r'.Wf := e ▸ hr

theorem AskWf.map_wf {α : Type} {o : Option α} {f : α → Why} {s : State} (hs : s.mem.wf = true) : AskWf
    (o.map fun y => (f y, s)) := by
  cases o with
  | none => trivial
  | some y => exact hs

theorem AskWf.congr_wf {o o' : Option (Why × State)} (e : o = o') (ho : AskWf o) : AskWf o' := e ▸ ho

/-- An optional state, where there is one, has canonical memory. -/
def SomeWf : Option State → Prop
  | some s => s.mem.wf = true
  | none => True

theorem SomeWf.some_wf {s : State} (hs : s.mem.wf = true) : SomeWf (some s) := hs
theorem SomeWf.none_wf : SomeWf none := trivial

theorem SomeWf.of_eq {o : Option State} {t : State} (e : o = some t) (ho : SomeWf o) : t.mem.wf = true := by
  rwa [e] at ho

/-- `foldl_wf` for a fold that carries a value beside the state. -/
theorem foldl_fst_wf {α β : Type} (f : State × β → α → State × β) (hf : ∀ p a, p.1.mem.wf = true →
    (f p a).1.mem.wf = true)
    (as : List α) {p : State × β} (hp : p.1.mem.wf = true) : (as.foldl f p).1.mem.wf = true := by
  induction as generalizing p with
  | nil => exact hp
  | cons a as ih => exact ih (hf p a hp)

theorem AskWf.of_some {o : Option (Why × State)} {r : Why × State} (e : o = some r)
    (ho : AskWf o) : r.2.mem.wf = true := by
  rwa [e] at ho

theorem AskWf.or_wf {o o' : Option (Why × State)} (ho : AskWf o) (ho' : AskWf o') : AskWf (o.or o') := by
  cases o with
  | none => exact ho'
  | some _ => exact ho

theorem ite_wf {c : Prop} [Decidable c] {a b : State} (ha : a.mem.wf = true) (hb : b.mem.wf = true) :
    (if c then a else b).mem.wf = true := by
  split
  · exact ha
  · exact hb

/-- `ite_wf` where one branch goes on from the other. -/
theorem ite_then_wf {c : Prop} [Decidable c] {a b : State} (ha : b.mem.wf = true → a.mem.wf = true)
    (hb : b.mem.wf = true) :
    (if c then a else b).mem.wf = true :=
  ite_wf (ha hb) hb

theorem ite_else_wf {c : Prop} [Decidable c] {a b : State} (hb : a.mem.wf = true → b.mem.wf = true)
    (ha : a.mem.wf = true) :
    (if c then a else b).mem.wf = true :=
  ite_wf ha (hb ha)

theorem ite_fst_wf {α : Type} {c : Prop} [Decidable c] {p q : State × α} (hp : p.1.mem.wf = true)
    (hq : q.1.mem.wf = true) :
    (if c then p else q).1.mem.wf = true := by
  split
  · exact hp
  · exact hq

section
variable {s : State}

/-! ### Shared operations -/

theorem free_wf (hs : s.mem.wf = true) : (free s).2.mem.wf = true := by
  unfold free
  exact hs

theorem due_wf {i : Instr} (hs : s.mem.wf = true) : (due s i).mem.wf = true := by
  unfold due
  exact hs

theorem lastly_wf {i : Instr} (hs : s.mem.wf = true) : (lastly s i).mem.wf = true := by
  unfold lastly
  exact hs

theorem once_wf {i : Instr} (hs : s.mem.wf = true) : (once s i).mem.wf = true := by
  unfold once
  split
  · exact hs
  · exact lastly_wf hs

theorem dropCopy_wf {die line : Nat} (hs : s.mem.wf = true) : (dropCopy s die line).mem.wf = true := by
  unfold dropCopy
  exact hs

theorem dropCopies_wf {line : Nat} (hs : s.mem.wf = true) : (dropCopies s line).mem.wf = true := by
  unfold dropCopies
  exact foldl_wf _ (fun _ _ ht => dropCopy_wf ht) _ hs

theorem hostAsk_wf {a : Nat} (hs : s.mem.wf = true) : (hostAsk s a).mem.wf = true := by
  unfold hostAsk
  exact hostSend_wf _ _ _ hs

theorem hostForget_wf {line : Nat} (hs : s.mem.wf = true) : (hostForget s line).mem.wf = true := by
  unfold hostForget
  dsimp only
  exact dropCopies_wf hs

theorem markAsks_wf {n : Nat} {f : HostReq → HostReq} (hs : s.mem.wf = true) : (markAsks s n f).mem.wf = true := by
  unfold markAsks
  split <;> exact hs

theorem ownAsks_wf {n : Nat} {w : WKey} {l : Nat} (hs : s.mem.wf = true) : (ownAsks s n w l).mem.wf = true := by
  unfold ownAsks
  exact markAsks_wf hs

theorem cmdAsks_wf {n id : Nat} (hs : s.mem.wf = true) : (cmdAsks s n id).mem.wf = true := by
  unfold cmdAsks
  exact markAsks_wf hs

theorem disown_wf {p : WKey → Bool} (hs : s.mem.wf = true) : (disown s p).mem.wf = true := by
  unfold disown
  exact hs

theorem hostFill_wf {s : State} {line cxl : Nat} (hs : s.mem.wf = true) : (hostFill s line cxl).mem.wf = true := by
  rwa [hostFill_mem]

theorem l2Drop_wf {key : Nat} (hs : s.mem.wf = true) : (l2Drop s key).mem.wf = true := by
  unfold l2Drop
  split
  · dsimp only
    exact hostDrop_wf _ hs
  · exact dropCopy_wf hs

theorem l2Found_wf {key : Nat} (hs : s.mem.wf = true) : (l2Found s key).mem.wf = true := by
  unfold l2Found
  exact hs

theorem l2Way_wf {s : State} {key slice n : Nat} (hs : s.mem.wf = true) : (l2Way s key slice n).1.mem.wf = true := by
  induction n generalizing s with
  | zero => exact hs
  | succ n ih =>
    unfold l2Way
    dsimp only
    split
    · exact hs
    · split
      · exact hs
      · refine ih ?_
        split
        · exact l2Found_wf hs
        · exact l2Drop_wf hs

theorem l2Alloc_wf {key slice : Nat} {x : L2Line} (hs : s.mem.wf = true) : (l2Alloc s key slice x).mem.wf = true := by
  unfold l2Alloc
  split
  all_goals
    rename_i e
    exact (wf_of_eq e (l2Way_wf hs) :)

theorem countSlice_wf {die slice : Nat} {f : SliceCounts → SliceCounts} (hs : s.mem.wf = true) :
    (countSlice s die slice f).mem.wf = true := by
  unfold countSlice
  split <;> exact hs

theorem l2Access_wf {key slice : Nat} {hint : BitVec 2} (hs : s.mem.wf = true) :
    (l2Access s key slice hint).mem.wf = true := by
  unfold l2Access
  dsimp only
  split
  · dsimp only
    exact countSlice_wf hs
  · split
    · exact countSlice_wf hs
    · exact l2Alloc_wf (countSlice_wf hs)

theorem vcTick_wf {d : Nat} (hs : s.mem.wf = true) : (vcTick s d).mem.wf = true := by
  unfold vcTick
  exact hs

theorem vcMerge_wf {d : Nat} {vc : List Nat} (hs : s.mem.wf = true) : (vcMerge s d vc).mem.wf = true := by
  unfold vcMerge
  split <;> exact hs

theorem unretain_wf {s : State} {line : Nat} (hs : s.mem.wf = true) : (unretain s line).mem.wf = true := by
  rwa [unretain_mem]

theorem homeWriteAt_wf {at_ : Nat} {vc : List Nat} {cs : List Host.Cell} (hs : s.mem.wf = true) :
    (homeWriteAt s at_ vc cs).mem.wf = true := by
  unfold homeWriteAt
  exact foldl_wf _ (fun _ _ ht => homeLine_wf _ _ _ _ ht) _ hs

theorem devCheck_wf {a n : Nat} (hs : s.mem.wf = true) : (devCheck s a n).mem.wf = true := by
  unfold devCheck
  split <;> exact hs

theorem setWarp_wf {w : WKey} {x : Warp} (hs : s.mem.wf = true) : (setWarp s w x).mem.wf = true := by
  unfold setWarp
  exact hs

theorem updWarp_wf {w : WKey} {f : Warp → Warp} (hs : s.mem.wf = true) : (updWarp s w f).mem.wf = true := by
  unfold updWarp
  split
  · exact setWarp_wf hs
  · exact hs

theorem updThr_wf {w : WKey} {l : Nat} {f : Thread → Thread} (hs : s.mem.wf = true) :
    (updThr s w l f).mem.wf = true := by
  unfold updThr
  exact updWarp_wf hs

theorem updGroup_wf {gid : Nat} {f : Group → Group} (hs : s.mem.wf = true) : (updGroup s gid f).mem.wf = true := by
  unfold updGroup
  split <;> exact hs

theorem updCtx_wf {c : Nat} {f : Ctx → Ctx} (hs : s.mem.wf = true) : (updCtx s c f).mem.wf = true := by
  unfold updCtx
  split <;> exact hs

theorem updSched_wf {d : Nat} {f : DieSched → DieSched} (hs : s.mem.wf = true) : (updSched s d f).mem.wf = true := by
  unfold updSched
  exact hs

theorem updLaunch_wf {lti : Nat} {f : Launch → Launch} (hs : s.mem.wf = true) :
    (updLaunch s lti f).mem.wf = true := by
  unfold updLaunch
  split
  · exact updSched_wf hs
  · exact hs

theorem emit_wf {port : Nat} {m : FabOut} (hs : s.mem.wf = true) : (emit s port m).mem.wf = true := by
  unfold emit
  split <;> exact hs

theorem msixRaise_wf {v : Nat} (hs : s.mem.wf = true) : (msixRaise s v).mem.wf = true := by
  unfold msixRaise
  split
  · exact hs
  · split
    · exact hs
    · exact ite_wf hs hs

theorem updFq_wf {d : Nat} {f : FaultQ → FaultQ} (hs : s.mem.wf = true) : (updFq s d f).mem.wf = true := by
  unfold updFq
  exact hs

theorem fqPump_wf {d : Nat} (hs : s.mem.wf = true) : (fqPump s d).mem.wf = true := by
  unfold fqPump
  dsimp only
  split
  · exact hs
  · split
    · exact hs
    · split
      · exact updFq_wf hs
      · split
        · exact msixRaise_wf (updFq_wf (devWrite_wf _ _ hs))
        · exact updFq_wf (devWrite_wf _ _ hs)

theorem postFault_wf {d : Nat} {r : FaultRec} (hs : s.mem.wf = true) : (postFault s d r).mem.wf = true := by
  unfold postFault
  exact updFq_wf hs

theorem fqTake_wf {d : Nat} {r : FaultRec} (hs : s.mem.wf = true) : (fqTake d s r).mem.wf = true := by
  unfold fqTake
  dsimp only
  exact fqPump_wf (updFq_wf hs)

theorem fqFlush_wf (hs : s.mem.wf = true) : (fqFlush s).mem.wf = true := by
  unfold fqFlush
  refine foldl_wf _ (fun _ _ ht => ?_) _ hs
  split
  · exact ht
  · exact foldl_wf _ (fun _ _ hu => fqTake_wf hu) _ (updFq_wf ht)

theorem updTrace_wf {d : Nat} {f : Trace → Trace} (hs : s.mem.wf = true) : (updTrace s d f).mem.wf = true := by
  unfold updTrace
  exact hs

theorem logTake_wf {d k : Nat} (hs : s.mem.wf = true) : (logTake s d k).mem.wf = true := by
  unfold logTake
  exact hs

theorem tracePut_wf {d rcd base : Nat} (hs : s.mem.wf = true) : (tracePut s d rcd base).mem.wf = true := by
  unfold tracePut
  dsimp only
  split
  · exact hs
  · split
    · exact updTrace_wf hs
    · split
      · exact due_wf (updTrace_wf (devWrite_wf _ _ (logTake_wf hs)))
      · exact updTrace_wf (devWrite_wf _ _ (logTake_wf hs))

theorem tracePutCycle_wf {d kind cyc extra : Nat} (hs : s.mem.wf = true) :
    (tracePutCycle s d kind cyc extra).mem.wf = true := by
  unfold tracePutCycle
  exact tracePut_wf hs

theorem tracePutDelta_wf {d rcd : Nat} (hs : s.mem.wf = true) : (tracePutDelta s d rcd).mem.wf = true := by
  unfold tracePutDelta
  dsimp only
  exact tracePut_wf (ite_wf (tracePutCycle_wf hs) hs)

theorem traceLoss_wf {d : Nat} (hs : s.mem.wf = true) : (traceLoss s d).mem.wf = true := by
  unfold traceLoss
  dsimp only
  split
  · exact hs
  · exact tracePutDelta_wf (updTrace_wf hs)

theorem traceCycle_wf {d kind cyc extra : Nat} (hs : s.mem.wf = true) :
    (traceCycle s d kind cyc extra).mem.wf = true := by
  unfold traceCycle
  exact tracePutCycle_wf (traceLoss_wf hs)

theorem traceWrite_wf {d rcd : Nat} (hs : s.mem.wf = true) : (traceWrite s d rcd).mem.wf = true := by
  unfold traceWrite
  exact tracePutDelta_wf (traceLoss_wf hs)

theorem trigger_wf {test : Trace → Bool} (hs : s.mem.wf = true) : (trigger s test).mem.wf = true := by
  unfold trigger
  dsimp only
  exact hs

theorem markNoReplay_wf {c : Nat} (hs : s.mem.wf = true) : (markNoReplay s c).mem.wf = true := by
  unfold markNoReplay
  split <;> exact hs

theorem markSoft_wf (hs : s.mem.wf = true) : (markSoft s).mem.wf = true := by
  unfold markSoft
  dsimp only
  exact markNoReplay_wf hs

theorem deliver_wf {w : WKey} {pc : W64} {t : TrapOf} (hs : s.mem.wf = true) : (deliver s w pc t).mem.wf = true := by
  unfold deliver
  dsimp only
  exact updThr_wf hs

theorem postParks_wf {w : WKey} {pc : W64} {s0 s : State} {n : Nat} {ts : List TrapOf} (hs : s.mem.wf = true) :
    (postParks w pc s0 n ts s).mem.wf = true := by
  induction n generalizing ts s with
  | zero => exact hs
  | succ n ih =>
    cases ts with
    | nil => exact hs
    | cons t ts => exact ih (postFault_wf hs)

theorem noteTraps_wf {s0 s : State} {w : WKey} {pc : W64} {ts : List TrapOf} (hs : s.mem.wf = true) :
    (noteTraps s0 w pc ts s).mem.wf = true := by
  unfold noteTraps
  dsimp only
  refine foldl_wf _ (fun t a ht => trigger_wf ?_) _ ?_
  · split
    · exact traceWrite_wf ht
    · exact ht
  · split
    · exact markSoft_wf hs
    · exact hs

theorem takeTraps_wf {w : WKey} {pc : W64} {ts : List TrapOf} (hs : s.mem.wf = true) :
    (takeTraps s w pc ts).mem.wf = true := by
  unfold takeTraps
  split
  · exact hs
  · dsimp only
    exact noteTraps_wf (postParks_wf (foldl_wf _ (fun _ _ ht => deliver_wf ht) _ hs))

theorem handlerReturn_wf {w : WKey} {l : Nat} {nx : Bool} (hs : s.mem.wf = true) :
    (handlerReturn s w l nx).mem.wf = true := by
  unfold handlerReturn
  exact updThr_wf hs

/-! ### The frame of an instruction -/

theorem dstAt_wf {c : Cursor} {l : Nat} {o : Opd} {i : Nat} {v : W32} (hs : s.mem.wf = true) :
    (dstAt s c l o i v).mem.wf = true := by
  unfold dstAt
  split
  · dsimp only
    exact updThr_wf (ite_wf hs hs)
  · split
    · dsimp only
      exact updWarp_wf (ite_wf hs hs)
    · exact hs
  · exact hs

theorem dst_wf {c : Cursor} {l : Nat} {o : Opd} {wide : Bool} {v : Nat} (hs : s.mem.wf = true) :
    (dst s c l o wide v).mem.wf = true := by
  unfold dst
  dsimp only
  split
  · exact dstAt_wf (dstAt_wf hs)
  · exact dstAt_wf hs

theorem dstP_wf {c : Cursor} {l : Nat} {o : Opd} {i : Nat} {v : Bool} (hs : s.mem.wf = true) :
    (dstP s c l o i v).mem.wf = true := by
  unfold dstP
  split
  · exact updThr_wf hs
  · exact hs

theorem wakeDst_wf {w : WKey} {l : Nat} {o : Opd} {v : W32} (hs : s.mem.wf = true) :
    (wakeDst s w l o v).mem.wf = true := by
  unfold wakeDst
  split
  · exact updThr_wf hs
  · exact updWarp_wf hs
  · exact hs

theorem issuePath_wf {c : Cursor} {h : Hdr} (hs : s.mem.wf = true) : (issuePath s c h).mem.wf = true := by
  unfold issuePath
  exact foldl_wf _ (fun _ _ ht => updThr_wf ht) _ hs

theorem keepCycle_wf {i : Instr} {w : WKey} {l : Nat} (hs : s.mem.wf = true) : (keepCycle i s w l).mem.wf = true := by
  unfold keepCycle
  split
  · exact updThr_wf hs
  · exact hs

theorem completeLane_wf {i : Instr} {h : Hdr} {c : Cursor} {due l : Nat} (hs : s.mem.wf = true) :
    (completeLane i h c due l s).mem.wf = true := by
  unfold completeLane
  dsimp only
  split
  · split
    · exact updThr_wf (ite_then_wf updGroup_wf (keepCycle_wf hs))
    · split
      · exact updGroup_wf (keepCycle_wf hs)
      · exact keepCycle_wf hs
  · exact updThr_wf (ite_then_wf updThr_wf (ite_then_wf updGroup_wf (keepCycle_wf hs)))

theorem waitLane_wf {c : Cursor} {l : Nat} {st : TState} (hs : s.mem.wf = true) :
    (waitLane c l st s).mem.wf = true := by
  unfold waitLane
  exact updThr_wf hs

theorem runLanes_wf {i : Instr} {h : Hdr} {c : Cursor} {due : Nat} {body : State → Nat → LRes} {ls : List Nat}
    {s : State}
    {ts : List TrapOf} (hb : ∀ t l, t.mem.wf = true → (body t l).Wf) (hs : s.mem.wf = true) :
    (runLanes i h c due body ls s ts).1.mem.wf = true := by
  induction ls generalizing s ts with
  | nil => exact hs
  | cons l ls ih =>
    unfold runLanes
    split
    · rename_i e
      exact ih (completeLane_wf (LRes.wf_of_eq e (hb s l hs)))
    · exact ih hs
    · rename_i e
      exact ih (LRes.wf_of_eq e (hb s l hs))
    · rename_i e
      exact ih (waitLane_wf (LRes.wf_of_eq e (hb s l hs)))

theorem stepPark_wf {w : WKey} {pc : W64} {ls : List Nat} (hs : s.mem.wf = true) :
    (stepPark s w pc ls).mem.wf = true := by
  unfold stepPark
  dsimp only
  exact foldl_wf _ (fun _ _ ht => updThr_wf ht) _ (takeTraps_wf (foldl_wf _ (fun _ _ ht => updThr_wf ht) _ hs))

theorem singleStep_wf {c : Cursor} (hs : s.mem.wf = true) : (singleStep s c).mem.wf = true := by
  unfold singleStep
  exact stepPark_wf hs

theorem flushBranches_wf {w : WKey} (hs : s.mem.wf = true) : (flushBranches s w).mem.wf = true := by
  unfold flushBranches
  split
  · exact hs
  · dsimp only
    exact foldl_wf _ (fun _ _ ht => traceWrite_wf ht) _ hs

theorem endTraps_wf {c : Cursor} {ts : List TrapOf} (hs : s.mem.wf = true) : (endTraps s c ts).mem.wf = true := by
  unfold endTraps
  dsimp only
  exact singleStep_wf (ite_else_wf takeTraps_wf (flushBranches_wf hs))

theorem perLane_wf {i : Instr} {h : Hdr} {s : State} {body : Cursor → State → Nat → LRes}
    (hb : ∀ c t l, t.mem.wf = true → (body c t l).Wf) (hs : s.mem.wf = true) : NextWf (perLane i h s body) := by
  unfold perLane
  split
  · exact done_wf hs
  · dsimp only
    split
    · exact done_wf (endTraps_wf (issuePath_wf hs))
    · exact done_wf (endTraps_wf (runLanes_wf (hb _) (issuePath_wf hs)))

theorem pathWait_wf {c : Cursor} {y : Why} (hs : s.mem.wf = true) : (pathWait s c y).mem.wf = true := by
  unfold pathWait
  dsimp only
  split
  · exact updWarp_wf (foldl_wf _ (fun _ _ ht => updThr_wf ht) _ hs)
  · exact foldl_wf _ (fun _ _ ht => updThr_wf ht) _ hs

theorem perLaneW_wf {i : Instr} {h : Hdr} {s : State} {need : Cursor → State → Nat → Option (Why × State)}
    {body : Cursor → State → Nat → LRes} (hn : ∀ c t l, t.mem.wf = true → AskWf (need c t l))
    (hb : ∀ c t l, t.mem.wf = true → (body c t l).Wf) (hs : s.mem.wf = true) : NextWf (perLaneW i h s need body) := by
  unfold perLaneW
  split
  · exact done_wf hs
  · dsimp only
    split
    · exact perLane_wf hb hs
    · split
      · rename_i e
        obtain ⟨l, -, hl⟩ := List.exists_of_findSome?_eq_some e
        exact done_wf (pathWait_wf (AskWf.of_eq hl (hn _ _ _ hs)))
      · exact perLane_wf hb hs

theorem perPath_wf {i : Instr} {h : Hdr} {s : State} {body : Cursor → List Nat → State → LRes}
    (hb : ∀ c ls t, t.mem.wf = true → (body c ls t).Wf) (hs : s.mem.wf = true) : NextWf (perPath i h s body) := by
  unfold perPath
  split
  · exact done_wf hs
  · rename_i c _
    have h1 : (issuePath s c h).mem.wf = true := issuePath_wf hs
    dsimp only
    split
    · exact done_wf (endTraps_wf h1)
    · split
      · exact done_wf (endTraps_wf h1)
      · split
        · exact done_wf (endTraps_wf h1)
        · split
          · rename_i e
            exact done_wf (endTraps_wf (foldl_wf _ (fun _ _ ht => completeLane_wf ht) _ (LRes.wf_of_eq e
              (hb _ _ _ h1))))
          · exact done_wf (endTraps_wf h1)
          · rename_i e
            exact done_wf (endTraps_wf (LRes.wf_of_eq e (hb _ _ _ h1)))
          · rename_i e
            exact done_wf (endTraps_wf (foldl_wf _ (fun _ _ ht => waitLane_wf ht) _ (LRes.wf_of_eq e (hb _ _ _ h1))))

theorem result_wf {i : Instr} {h : Hdr} {okTy : Bool} {d : Opd} {wide : Bool} {val : Cursor → State → Nat → Nat}
    (hs : s.mem.wf = true) :
    NextWf (result i h s okTy d wide val) := by
  unfold result
  refine perLane_wf (fun _ _ _ ht => ?_) hs
  split
  · exact LRes.ok_wf (dst_wf ht)
  · exact LRes.trap_wf

/-! ### Translation, the L1, loads and stores -/

theorem tlbPut_wf {core : Nat} {p : Page} (hs : s.mem.wf = true) : (tlbPut s core p).mem.wf = true := by
  unfold tlbPut
  dsimp only
  exact hs

theorem tcachePut_wf {die : Nat} {p : Page} (hs : s.mem.wf = true) : (tcachePut s die p).mem.wf = true := by
  unfold tcachePut
  dsimp only
  exact hs

theorem walk_wf {ctx va : Nat} (hs : s.mem.wf = true) : (walk s ctx va).1.mem.wf = true := by
  unfold walk
  dsimp only
  split
  · dsimp only
    exact foldl_wf _ (fun _ _ ht => l2Access_wf ht) _ hs
  · split
    all_goals
      dsimp only
      exact foldl_wf _ (fun _ _ ht => l2Access_wf ht) _ hs

theorem takeWalker_wf {core : Option Nat} {die ctx va size : Nat} (hs : s.mem.wf = true) :
    (takeWalker s core die ctx va size).mem.wf = true := by
  unfold takeWalker
  dsimp only
  split <;> exact hs

theorem translate_wf {core : Option Nat} {die ctx va : Nat} (hs : s.mem.wf = true) :
    (translate s core die ctx va).1.mem.wf = true := by
  unfold translate
  dsimp only
  split
  · exact hs
  · split
    · split
      · exact hs
      · dsimp only
        split
        · exact tlbPut_wf hs
        · exact hs
    · split
      · rename_i e
        have ht := wf_of_eq e (walk_wf hs)
        dsimp only
        exact takeWalker_wf ht
      · rename_i e
        have ht := wf_of_eq e (walk_wf hs)
        dsimp only
        split
        · exact tlbPut_wf (tcachePut_wf (takeWalker_wf ht))
        · exact tcachePut_wf (takeWalker_wf ht)

theorem watchHit_wf {core : Nat} {hit : Watch → Bool} (hs : s.mem.wf = true) :
    (watchHit s core hit).mem.wf = true := by
  unfold watchHit
  exact hs

theorem setL1_wf {core : Nat} {t : Tab L1Tag} (hs : s.mem.wf = true) : (setL1 s core t).mem.wf = true := by
  unfold setL1
  exact hs

theorem updTag_wf {core blk : Nat} {f : L1Tag → L1Tag} (hs : s.mem.wf = true) :
    (updTag s core blk f).mem.wf = true := by
  unfold updTag
  split
  · exact setL1_wf hs
  · exact hs

theorem shadowPlace_wf {t : Tenure} {line : Nat} (hs : s.mem.wf = true) : SomeWf (shadowPlace s t line) := by
  unfold shadowPlace
  split
  · exact SomeWf.some_wf hs
  · dsimp only
    split
    · exact SomeWf.some_wf (l2Alloc_wf hs)
    · exact SomeWf.none_wf

theorem shadowLine_wf {id : Nat} {vc : List Nat} {cs : List Host.Cell} {s : State} {line : Nat}
    (hs : s.mem.wf = true) :
    (shadowLine id vc cs s line).mem.wf = true := by
  unfold shadowLine
  dsimp only
  split
  · exact hs
  · split
    · rename_i e
      split at e
      · cases e
      · exact (SomeWf.of_eq e (shadowPlace_wf hs) :)
    · exact hs

theorem homeOrShadow_wf {gid : Nat} {cmd : Option Nat} {at_ : Nat} {vc : List Nat} {cs : List Host.Cell}
    (hs : s.mem.wf = true) :
    (homeOrShadow s gid cmd at_ vc cs).mem.wf = true := by
  unfold homeOrShadow
  dsimp only
  exact homeWriteAt_wf (foldl_wf _ (fun _ _ ht => foldl_wf _ (fun _ _ hu => shadowLine_wf hu) _ ht) _ hs)

theorem applyForward_wf {d i : Nat} (hs : s.mem.wf = true) : (applyForward s d i).mem.wf = true := by
  unfold applyForward
  dsimp only
  split <;> exact hs

theorem catchUp_wf {s : State} {d : Nat} {vc : List Nat} {n : Nat} (hs : s.mem.wf = true) :
    (catchUp s d vc n).mem.wf = true := by
  induction n generalizing s with
  | zero => exact hs
  | succ n ih =>
    unfold catchUp
    dsimp only
    split
    · exact ih (applyForward_wf hs)
    · exact hs

theorem ownSees_wf {core : Nat} {ks : List Nat} (hs : s.mem.wf = true) : (ownSees s core ks).mem.wf = true := by
  unfold ownSees
  dsimp only
  exact foldl_wf _ (fun _ _ ht => foldl_wf _ (fun _ _ hu => catchUp_wf hu) _ ht) _ hs

theorem dropSectors_wf {core : Nat} {gone : Nat → Bool} (hs : s.mem.wf = true) :
    (dropSectors s core gone).mem.wf = true := by
  unfold dropSectors
  dsimp only
  split
  · exact setL1_wf hs
  · exact watchHit_wf (setL1_wf hs)

theorem dropClean_wf {core : Nat} {ks : List Nat} (hs : s.mem.wf = true) : (dropClean s core ks).mem.wf = true := by
  unfold dropClean
  exact dropSectors_wf hs

theorem seeHome_wf {core : Nat} {ks : List Nat} (hs : s.mem.wf = true) : (seeHome s core ks).mem.wf = true := by
  unfold seeHome
  exact dropClean_wf (ownSees_wf hs)

theorem refreshOwn_wf {core b len : Nat} {ks : List Nat} {wrote : Bool} (hs : s.mem.wf = true) :
    (refreshOwn s core b len ks wrote).mem.wf = true := by
  unfold refreshOwn
  dsimp only
  split
  · exact watchHit_wf (dropSectors_wf hs)
  · exact dropSectors_wf hs

theorem l1Found_wf {core : Nat} {ks : List Nat} (hs : s.mem.wf = true) : (l1Found s core ks).mem.wf = true := by
  unfold l1Found
  dsimp only
  split <;> exact hs

theorem standFor_wf {line : Nat} {olds : List (List Nat)} (hs : s.mem.wf = true) :
    (standFor s line olds).mem.wf = true := by
  unfold standFor
  split <;> exact hs

theorem drainPart_wf {core : Nat} {slice : Nat → Nat} {g : List (Nat × Dirty)} (hs : s.mem.wf = true) :
    (drainPart core slice s g).mem.wf = true := by
  unfold drainPart
  split
  · exact hs
  · dsimp only
    exact ownSees_wf (standFor_wf (homeOrShadow_wf (ite_wf hs (l2Access_wf (countSlice_wf hs)))))

theorem drainTag_wf {core blk : Nat} {sel : Nat → Dirty → Bool} (hs : s.mem.wf = true) :
    (drainTag s core blk sel).mem.wf = true := by
  unfold drainTag
  split
  · exact hs
  · dsimp only
    exact ite_else_wf (fun h => foldl_wf _ (fun _ _ hu => drainPart_wf hu) _ (setL1_wf h)) (ite_wf hs (l1Found_wf hs))

theorem drainCore_wf {core : Nat} {sel : Nat → Dirty → Bool} (hs : s.mem.wf = true) :
    (drainCore s core sel).mem.wf = true := by
  unfold drainCore
  exact foldl_wf _ (fun _ _ ht => drainTag_wf ht) _ hs

theorem applyPosted_wf {sel : Posted → Bool} (hs : s.mem.wf = true) : (applyPosted s sel).mem.wf = true := by
  unfold applyPosted
  refine foldl_wf _ (fun _ _ ht => ?_) _ hs
  split
  · exact ht
  · split
    · dsimp only
      exact homeWrite_wf _ _ ht
    · exact ht

theorem drainUpTo_wf {core at_ : Nat} (hs : s.mem.wf = true) : (drainUpTo s core at_).mem.wf = true := by
  unfold drainUpTo
  exact applyPosted_wf (drainCore_wf hs)

theorem drainAll_wf {core : Nat} (hs : s.mem.wf = true) : (drainAll s core).mem.wf = true := by
  unfold drainAll
  exact applyPosted_wf (drainCore_wf hs)

theorem evictTag_wf {core blk : Nat} (hs : s.mem.wf = true) : (evictTag s core blk).mem.wf = true := by
  unfold evictTag
  dsimp only
  exact watchHit_wf (setL1_wf (drainTag_wf hs))

theorem l1Alloc_wf {core blk : Nat} {p : Page} (hs : s.mem.wf = true) : (l1Alloc s core blk p).mem.wf = true := by
  unfold l1Alloc
  split
  · exact setL1_wf hs
  · dsimp only
    exact setL1_wf (ite_wf hs (ite_else_wf evictTag_wf (ite_wf hs (l1Found_wf hs))))

theorem recallFrom_wf {core k : Nat} (hs : s.mem.wf = true) : (recallFrom s core k).mem.wf = true := by
  unfold recallFrom
  exact hs

theorem homeTouch_wf {p : Page} {k : Nat} {hint : BitVec 2} {write : Bool} (hs : s.mem.wf = true) :
    (homeTouch s p k hint write).mem.wf = true := by
  unfold homeTouch
  split
  · split
    · exact hostDrop_wf _ hs
    · exact hs
  · dsimp only
    split
    · exact l2Access_wf hs
    · exact hostFill_wf (l2Access_wf hs)

theorem viewTouch_wf {die : Nat} {p : Page} {k : Nat} {hint : BitVec 2} (hs : s.mem.wf = true) :
    (viewTouch s die p k hint).mem.wf = true := by
  unfold viewTouch
  dsimp only
  split
  · exact homeTouch_wf hs
  · split
    · exact l2Access_wf hs
    · split
      · dsimp only
        exact l2Access_wf (homeTouch_wf hs)
      · exact l2Access_wf (homeTouch_wf hs)

theorem l1Fill_wf {core gid : Nat} {p : Page} {k : Nat} {hint : BitVec 2} (hs : s.mem.wf = true) :
    (l1Fill s core gid p k hint).mem.wf = true := by
  unfold l1Fill
  dsimp only
  split
  · exact watchHit_wf (updTag_wf (l1Alloc_wf (foldl_wf _ (fun _ _ ht => viewTouch_wf ht) _ (recallFrom_wf hs))))
  · exact updTag_wf (l1Alloc_wf (foldl_wf _ (fun _ _ ht => viewTouch_wf ht) _ (recallFrom_wf hs)))

theorem privAcc_wf {w : WKey} {l o size : Nat} (hs : s.mem.wf = true) : (privAcc s w l o size).1.mem.wf = true := by
  unfold privAcc
  dsimp only
  split
  · exact hs
  · split
    · exact hs
    · split
      · exact hs
      · split
        all_goals
          rename_i e
          exact (wf_of_eq e (translate_wf hs) :)

theorem virtAcc_wf {w : WKey} {va size : Nat} (hs : s.mem.wf = true) : (virtAcc s w va size).1.mem.wf = true := by
  unfold virtAcc
  split
  · exact hs
  · split
    all_goals
      rename_i e
      exact (wf_of_eq e (translate_wf hs) :)

theorem resolve_wf {c : Cursor} {l : Nat} {a : AddrOps} {size : Nat} (hs : s.mem.wf = true) :
    (resolve s c l a size).1.mem.wf = true := by
  unfold resolve
  dsimp only
  split
  · split
    · exact hs
    · exact virtAcc_wf hs
  · split <;> exact hs
  · split <;> exact hs
  · split
    · exact hs
    · split
      · exact hs
      · exact privAcc_wf hs

theorem vaultOwn_wf {core : Nat} {ks : List Nat} (hs : s.mem.wf = true) : (vaultOwn s core ks).mem.wf = true := by
  unfold vaultOwn
  split
  · exact applyPosted_wf hs
  · exact hs

theorem countVault_wf {core k : Nat} (hs : s.mem.wf = true) : (countVault s core k).mem.wf = true := by
  unfold countVault
  dsimp only
  split <;> exact hs

theorem touchByte_wf {w : WKey} {gid : Nat} {p : Page} {hint : BitVec 2} {home : Bool} {k : Nat}
    (hs : s.mem.wf = true) :
    (touchByte s w gid p hint home k).mem.wf = true := by
  unfold touchByte
  split
  · exact hs
  · exact homeTouch_wf (recallFrom_wf hs)
  · exact updTag_wf hs
  · split
    · exact viewTouch_wf (recallFrom_wf hs)
    · exact l1Fill_wf hs

theorem loadBytes_wf {w : WKey} {l : Nat} {a : Acc} {hint : BitVec 2} {home : Bool} (hs : s.mem.wf = true) :
    (loadBytes s w l a hint home).1.mem.wf = true := by
  unfold loadBytes
  dsimp only
  split
  · exact hs
  · dsimp only
    exact countVault_wf (vaultOwn_wf hs)
  · exact hs
  · dsimp only
    exact ownAsks_wf (ite_else_wf seeHome_wf (ite_else_wf (fun h => hostAsks_wf _ h) (foldl_wf _
      (fun _ _ ht => touchByte_wf ht) _ hs)))

theorem post_wf {w : WKey} {l : Nat} {cs : List Host.Cell} {vault : Bool} {sset : Option Nat} {wait : Bool}
    (hs : s.mem.wf = true) :
    (post s w l cs vault sset wait).mem.wf = true := by
  unfold post
  dsimp only
  split <;> exact hs

theorem l1Heal_wf {core : Nat} {ks : List Nat} (hs : s.mem.wf = true) : (l1Heal s core ks).mem.wf = true := by
  unfold l1Heal
  dsimp only
  exact hs

theorem l1Store_wf {w : WKey} {p : Page} {hint : BitVec 2} {cs : List Host.Cell} (hs : s.mem.wf = true) :
    (l1Store s w p hint cs).mem.wf = true := by
  unfold l1Store
  dsimp only
  exact watchHit_wf (ite_else_wf l1Heal_wf (foldl_wf _ (fun _ _ ht => updTag_wf (l1Alloc_wf
    (recallFrom_wf ht))) _ hs))

theorem probe_wf {except : Option Nat} {lo len : Nat} (hs : s.mem.wf = true) :
    (probe s except lo len).mem.wf = true := by
  unfold probe
  dsimp only
  refine foldl_wf _ (fun _ _ ht => dropCopies_wf ht) _ (foldl_wf _ (fun _ _ ht => ?_) _ hs)
  split
  · exact ht
  · exact watchHit_wf (setL1_wf (drainCore_wf ht))

theorem holdStore_wf {w : WKey} {l gid : Nat} {cs : List Host.Cell} {atomic : Option
    (Option RedOp × Fmt × Nat × Nat × Opd)} {ord : Order} {sc : Scope} {strict : optParam Bool false}
    (hs : s.mem.wf = true) :
    (holdStore s w l gid cs atomic ord sc strict).mem.wf = true := by
  unfold holdStore
  split
  · exact hs
  · split
    · exact hs
    · dsimp only
      exact hs

theorem scrStore_wf {gid : Nat} {thr : Option Nat} {cs : List Host.Cell} (hs : s.mem.wf = true) :
    (scrStore s gid thr cs).mem.wf = true := by
  unfold scrStore
  dsimp only
  exact updGroup_wf (ite_wf hs hs)

theorem drainKeys_wf {core : Nat} {ks : List Nat} (hs : s.mem.wf = true) : (drainKeys s core ks).mem.wf = true := by
  unfold drainKeys
  split
  · exact drainCore_wf hs
  · exact hs

theorem storeBytes_wf {w : WKey} {l : Nat} {a : Acc} {hint : BitVec 2} {home : Bool} {bs : List Byte}
    (hs : s.mem.wf = true) :
    (storeBytes s w l a hint home bs).mem.wf = true := by
  unfold storeBytes
  dsimp only
  split
  · exact scrStore_wf hs
  · split
    · exact post_wf (countVault_wf (vaultOwn_wf hs))
    · exact post_wf (homeWrite_wf _ _ (countVault_wf (vaultOwn_wf hs)))
  · exact hs
  · split
    · split
      · exact hs
      · exact holdStore_wf (drainKeys_wf hs)
    · split
      · exact watchHit_wf (ite_else_wf post_wf (seeHome_wf (foldl_wf _ (fun _ _ ht => updTag_wf ht) _
          (homeOrShadow_wf (foldl_wf _ (fun _ _ ht => homeTouch_wf (recallFrom_wf ht)) _ (ite_then_wf drainKeys_wf
          (ite_wf hs (holdStore_wf (drainKeys_wf hs)))))))))
      · exact l1Store_wf (ite_wf hs (holdStore_wf (drainKeys_wf hs)))

theorem refetch_wf {old : Tab L1Tag} {core : Nat} {e : Nat × Watch} (hs : s.mem.wf = true) :
    (refetch old core s e).mem.wf = true := by
  unfold refetch
  dsimp only
  split
  · exact watchHit_wf (updTag_wf (l1Alloc_wf (ownSees_wf (foldl_wf _ (fun _ _ ht => viewTouch_wf ht) _
      (recallFrom_wf hs)))))
  · exact updTag_wf (l1Alloc_wf (ownSees_wf (foldl_wf _ (fun _ _ ht => viewTouch_wf ht) _ (recallFrom_wf hs))))

theorem acquireL1_wf {core : Nat} (hs : s.mem.wf = true) : (acquireL1 s core).mem.wf = true := by
  unfold acquireL1
  dsimp only
  exact foldl_wf _ (fun _ _ ht => refetch_wf ht) _ (setL1_wf hs)

theorem addRecord_wf {r : Release} (hs : s.mem.wf = true) : (addRecord s r).mem.wf = true := by
  unfold addRecord
  dsimp only
  split
  · exact hs
  · split
    · dsimp only
      exact drainUpTo_wf hs
    · exact hs

theorem addRecords_wf {core line slice : Nat} {foot seen : List (Nat × Nat)} {sys : Bool} (hs : s.mem.wf = true) :
    (addRecords s core line slice foot seen sys).mem.wf = true := by
  unfold addRecords
  dsimp only
  exact foldl_wf _ (fun _ _ ht => addRecord_wf ht) _ (addRecord_wf hs)

theorem addRelease_wf {w : WKey} {l : Nat} {x : Acc} {sys : Bool} (hs : s.mem.wf = true) :
    (addRelease s w l x sys).mem.wf = true := by
  unfold addRelease
  dsimp only
  exact addRecords_wf hs

theorem ackPosted_wf {is : Posted → Bool} (hs : s.mem.wf = true) : (ackPosted s is).mem.wf = true := by
  unfold ackPosted
  dsimp only
  refine foldl_wf _ (fun _ _ ht => ?_) _ (ite_wf (applyPosted_wf hs) hs)
  split <;> exact ht

theorem settlePosted_wf {w : WKey} {l : Nat} (hs : s.mem.wf = true) : (settlePosted s w l).mem.wf = true := by
  unfold settlePosted
  exact ackPosted_wf hs

theorem acquire_wf {w : WKey} {l : Nat} {sc : Scope} {ks : List Nat} (hs : s.mem.wf = true) :
    (acquire s w l sc ks).mem.wf = true := by
  unfold acquire
  split
  · exact hs
  · dsimp only
    exact acquireL1_wf (catchUp_wf (vcMerge_wf (updThr_wf hs)))

theorem releaseBefore_wf {w : WKey} {l : Nat} {sc : Scope} (hs : s.mem.wf = true) :
    (releaseBefore s w l sc).mem.wf = true := by
  unfold releaseBefore
  dsimp only
  split
  · exact vcTick_wf (vcMerge_wf (ite_wf (drainCore_wf hs) hs))
  · exact vcMerge_wf (ite_wf (drainCore_wf hs) hs)

/-! ### Fetch -/

theorem fetchAsk_wf {core line : Nat} {bs : List Byte} (hs : s.mem.wf = true) :
    (fetchAsk s core line bs).mem.wf = true := by
  unfold fetchAsk
  dsimp only
  split
  · exact hostAsks_wf _ hs
  · dsimp only
    exact hostAsks_wf _ hs

theorem fetchUse_wf {core line : Nat} (hs : s.mem.wf = true) : (fetchUse s core line).mem.wf = true := by
  unfold fetchUse
  split <;> exact hs

theorem icacheLine_wf {core : Nat} {p : Page} {line : Nat} (hs : s.mem.wf = true) :
    (icacheLine s core p line).1.mem.wf = true := by
  unfold icacheLine
  dsimp only
  split
  · split
    · dsimp only
      exact fetchUse_wf hs
    · dsimp only
      exact fetchAsk_wf (homeTouch_wf hs)
  · split
    · dsimp only
      exact fetchUse_wf hs
    · dsimp only
      split
      · exact fetchAsk_wf (homeTouch_wf (recallFrom_wf hs))
      · dsimp only
        exact homeTouch_wf (recallFrom_wf hs)

theorem fetchPage_wf {core ctx va : Nat} (hs : s.mem.wf = true) : (fetchPage s core ctx va).1.mem.wf = true := by
  unfold fetchPage
  split
  all_goals
    rename_i e
    exact (wf_of_eq e (translate_wf hs) :)

theorem fetchBytes_wf {s : State} {core ctx : Nat} {pc : W64} (hs : s.mem.wf = true) :
    (fetchBytes s core ctx pc).1.mem.wf = true := by
  unfold fetchBytes
  extract_lets a
  split
  · exact hs
  · split
    · rename_i e
      exact (wf_of_eq e (fetchPage_wf hs) :)
    · rename_i t p e
      have ht : t.mem.wf = true := wf_of_eq e (fetchPage_wf hs)
      extract_lets r
      have hr : r.1.mem.wf = true := by
        unfold r
        split
        · exact ht
        · exact fetchPage_wf ht
      clear_value r
      split
      · exact hr
      · extract_lets key l0 l1
        have hl : l1.1.mem.wf = true := icacheLine_wf (icacheLine_wf hr)
        split
        · exact hr
        · split
          · exact hl
          · split <;> exact hl

theorem markGone_wf {w : WKey} {pc : W64} {m : W32} (hs : s.mem.wf = true) : (markGone s w pc m).mem.wf = true := by
  unfold markGone
  exact updWarp_wf hs

theorem leaveAt_wf {w : WKey} {pc : W64} {bs : List Byte} {m : W32} (hs : s.mem.wf = true) :
    (leaveAt s w pc bs m).mem.wf = true := by
  unfold leaveAt
  split
  · exact markGone_wf hs
  · exact hs

theorem fetchPath_wf {q : Issue} (hs : s.mem.wf = true) : (fetchPath s q).1.mem.wf = true := by
  unfold fetchPath
  dsimp only
  split
  · exact hs
  · split
    · exact hs
    · split
      · rename_i e
        have ht := wf_of_eq e (fetchBytes_wf hs)
        split
        · dsimp only
          exact pathWait_wf ht
        · dsimp only
          exact takeTraps_wf (markGone_wf ht)
      · rename_i e
        have ht := wf_of_eq e (fetchBytes_wf hs)
        split
        · dsimp only
          split
          · exact ht
          · exact takeTraps_wf (leaveAt_wf ht)
        · split
          · dsimp only
            split
            · exact ht
            · exact takeTraps_wf (leaveAt_wf ht)
          · dsimp only
            exact takeTraps_wf (leaveAt_wf (ite_else_wf takeTraps_wf (ite_wf ht (leaveAt_wf ht))))
          · dsimp only
            exact endTraps_wf (issuePath_wf (leaveAt_wf (ite_else_wf takeTraps_wf (ite_wf ht (leaveAt_wf ht)))))

theorem execIssueVote_wf {core quad : Nat} (hs : s.mem.wf = true) : NextWf (execIssueVote core quad s) := by
  unfold execIssueVote
  dsimp only
  split
  · exact done_wf hs
  · split
    · exact done_wf hs
    · refine done_wf ?_
      dsimp only
      split
      all_goals
        split
        all_goals
          split
          · dsimp only
            exact updWarp_wf hs
          · exact updWarp_wf hs

/-! ### Control flow -/

theorem coveredWords_wf {s : State} {c : Cursor} {n : Nat} {pc : W64} (hs : s.mem.wf = true) :
    (coveredWords s c n pc).1.mem.wf = true := by
  induction n generalizing s c pc with
  | zero => exact hs
  | succ n ih =>
    unfold coveredWords
    split
    · rename_i e
      exact (wf_of_eq e (fetchBytes_wf hs) :)
    · rename_i e
      have ht := wf_of_eq e (fetchBytes_wf hs)
      split
      · exact ht
      · split
        · exact ht
        · dsimp only
          split
          · exact ht
          · split
            all_goals
              rename_i e'
              exact (wf_of_eq e' (ih ht) :)

theorem execPblk_wf {h : Hdr} {o : PblkOps} (hs : s.mem.wf = true) : NextWf (execPblk h o s) := by
  unfold execPblk
  split
  · exact done_wf hs
  · dsimp only
    split
    · exact done_wf (endTraps_wf (issuePath_wf hs))
    · split
      · rename_i e
        have ht := wf_of_eq e (coveredWords_wf (issuePath_wf hs))
        split
        · exact done_wf (pathWait_wf (coveredWords_wf hs))
        · exact done_wf (endTraps_wf (foldl_wf _ (fun _ _ hu => updThr_wf hu) _ ht))
      · rename_i e
        have ht := wf_of_eq e (coveredWords_wf (issuePath_wf hs))
        refine done_wf (endTraps_wf (foldl_wf _ (fun _ _ hu => completeLane_wf hu) _ ?_))
        dsimp only
        exact foldl_wf _ (fun _ _ hu => updThr_wf hu) _ ht

theorem setPc_wf {c : Cursor} {l : Nat} {pc : W64} (hs : s.mem.wf = true) : (setPc s c l pc).mem.wf = true := by
  unfold setPc
  dsimp only
  split
  · dsimp only
    exact updThr_wf hs
  · exact updThr_wf hs

theorem execJmpr_wf {h : Hdr} {a : Opd} (hs : s.mem.wf = true) : NextWf (execJmpr h a s) := by
  unfold execJmpr
  refine perLane_wf (fun _ _ _ ht => ?_) hs
  dsimp only
  split
  · exact LRes.trap_wf
  · exact LRes.ok_wf (setPc_wf ht)

theorem privCheck_wf {c : Cursor} {l o size : Nat} {store : Bool} (hs : s.mem.wf = true) :
    (privCheck s c l o size store).1.mem.wf = true := by
  unfold privCheck
  split
  · rename_i e
    exact (wf_of_eq e (privAcc_wf hs) :)
  · rename_i e
    have ht := wf_of_eq e (privAcc_wf hs)
    split
    · exact ht
    · split <;> exact ht

theorem push_wf {c : Cursor} {l : Nat} {ret : W64} (hs : s.mem.wf = true) : (push s c l ret).1.mem.wf = true := by
  unfold push
  split
  · rename_i e
    exact (wf_of_eq e (privCheck_wf hs) :)
  · rename_i e
    have ht := wf_of_eq e (privCheck_wf hs)
    dsimp only
    split
    · rename_i e₂
      exact (wf_of_eq e₂ (privCheck_wf (loadBytes_wf ht)) :)
    · rename_i e₂
      have ht₂ := wf_of_eq e₂ (privCheck_wf (loadBytes_wf ht))
      dsimp only
      exact storeBytes_wf (storeBytes_wf ht₂)

theorem pop_wf {c : Cursor} {l : Nat} (hs : s.mem.wf = true) : (pop s c l).1.mem.wf = true := by
  unfold pop
  split
  · rename_i e
    exact (wf_of_eq e (privCheck_wf hs) :)
  · rename_i e
    have ht := wf_of_eq e (privCheck_wf hs)
    dsimp only
    split
    · dsimp only
      exact loadBytes_wf ht
    · split
      · rename_i e₂
        exact (wf_of_eq e₂ (privCheck_wf (loadBytes_wf ht)) :)
      · rename_i e₂
        have ht₂ := wf_of_eq e₂ (privCheck_wf (loadBytes_wf ht))
        split
        · dsimp only
          exact loadBytes_wf ht₂
        · dsimp only
          exact storeBytes_wf (loadBytes_wf ht₂)

theorem execCall_wf {h : Hdr} {off : W32} (hs : s.mem.wf = true) : NextWf (execCall h off s) := by
  unfold execCall
  refine perLane_wf (fun _ _ _ ht => ?_) hs
  split
  · exact LRes.trap_wf
  · rename_i e
    have ht₂ := wf_of_eq e (push_wf ht)
    exact LRes.ok_wf (setPc_wf ht₂)

theorem execCallr_wf {h : Hdr} {a : Opd} (hs : s.mem.wf = true) : NextWf (execCallr h a s) := by
  unfold execCallr
  refine perLane_wf (fun _ _ _ ht => ?_) hs
  dsimp only
  split
  · exact LRes.trap_wf
  · split
    · exact LRes.trap_wf
    · rename_i e
      have ht₂ := wf_of_eq e (push_wf ht)
      exact LRes.ok_wf (setPc_wf ht₂)

theorem execRet_wf {h : Hdr} (hs : s.mem.wf = true) : NextWf (execRet h s) := by
  unfold execRet
  refine perLane_wf (fun _ _ _ ht => ?_) hs
  split
  · exact LRes.trap_wf
  · rename_i e
    have ht₂ := wf_of_eq e (pop_wf ht)
    exact LRes.ok_wf (setPc_wf ht₂)

theorem execYield_wf {h : Hdr} (hs : s.mem.wf = true) : NextWf (execYield h s) := by
  unfold execYield
  dsimp only
  refine perLane_wf (fun _ _ _ ht => LRes.ok_wf ht) ?_
  split
  · exact foldl_wf _ (fun _ _ ht => updThr_wf ht) _ hs
  · exact hs

theorem execTret_wf {h : Hdr} {nx : Bool} (hs : s.mem.wf = true) : NextWf (execTret h nx s) := by
  unfold execTret
  refine perLane_wf (fun _ _ _ ht => ?_) hs
  split
  · exact LRes.ok_wf (handlerReturn_wf ht)
  · exact LRes.trap_wf

/-! ### Loads, stores, fences and line maintenance -/

theorem loadAcc_wf {c : Cursor} {l : Nat} {a : AddrOps} {size : Nat} (hs : s.mem.wf = true) :
    (loadAcc s c l a size).1.mem.wf = true := by
  unfold loadAcc
  split
  · rename_i e
    exact (wf_of_eq e (resolve_wf hs) :)
  · rename_i e
    have ht := wf_of_eq e (resolve_wf hs)
    split
    · exact ht
    · split <;> exact ht

theorem loadFor_wf {c : Cursor} {l : Nat} {x : Acc} {hint : BitVec 2} {home : Bool} (hs : s.mem.wf = true) :
    (loadFor s c l x hint home).1.mem.wf = true := by
  unfold loadFor
  dsimp only
  split
  · exact loadBytes_wf hs
  · dsimp only
    exact ite_else_wf updThr_wf (loadBytes_wf hs)

theorem dstFmt_wf {c : Cursor} {l : Nat} {d : Opd} {f : Fmt} {v : Nat} (hs : s.mem.wf = true) :
    (dstFmt s c l d f v).mem.wf = true := by
  unfold dstFmt
  exact dst_wf hs

theorem accNeed_wf {ok : Bool} {r : State × Except (Nat × W64) Acc} {w : WKey} {l : Nat} (hs : s.mem.wf = true) :
    AskWf (accNeed ok r w l s) := by
  unfold accNeed
  split
  · exact AskWf.none_wf
  · split
    · exact AskWf.none_wf
    · exact AskWf.map_wf hs

theorem execLd_wf {h : Hdr} {o : LdOps} (hs : s.mem.wf = true) : NextWf (execLd h o s) := by
  unfold execLd
  refine perLaneW_wf (fun _ _ _ ht => accNeed_wf ht) (fun _ _ _ ht => ?_) hs
  split
  · exact LRes.trap_wf
  · split
    · exact LRes.trap_wf
    · rename_i e
      have ht₂ := wf_of_eq e (loadAcc_wf ht)
      dsimp only
      exact LRes.ok_wf (dstFmt_wf (loadFor_wf ht₂))

theorem execLdq_wf {h : Hdr} {o : LdqOps} (hs : s.mem.wf = true) : NextWf (execLdq h o s) := by
  unfold execLdq
  refine perLaneW_wf (fun _ _ _ ht => accNeed_wf ht) (fun _ _ _ ht => ?_) hs
  split
  · exact LRes.trap_wf
  · rename_i e
    have ht₂ := wf_of_eq e (loadAcc_wf ht)
    dsimp only
    exact LRes.ok_wf (foldl_wf _ (fun _ _ hu => dstAt_wf hu) _ (loadFor_wf ht₂))

theorem drainNeed_wf {gid : Nat} {ds : List (Nat × Nat)} (hs : s.mem.wf = true) : AskWf (drainNeed s gid ds) := by
  unfold drainNeed
  dsimp only
  split
  · exact AskWf.none_wf
  · exact AskWf.some_wf hs

theorem relNeed_wf {w : WKey} {l : Nat} (hs : s.mem.wf = true) : AskWf (relNeed s w l) := by
  unfold relNeed
  split
  · exact AskWf.some_wf hs
  · exact drainNeed_wf hs

theorem acqNeed_wf {c : Cursor} {sc : Scope} {x : Acc} (hs : s.mem.wf = true) : AskWf (acqNeed s c sc x) := by
  unfold acqNeed
  split
  · exact AskWf.none_wf
  · exact drainNeed_wf hs

theorem execLdacq_wf {h : Hdr} {o : LdOps} (hs : s.mem.wf = true) : NextWf (execLdacq h o s) := by
  unfold execLdacq
  refine perLaneW_wf ?_ ?_ hs
  · intro _ _ _ ht
    split
    · exact AskWf.none_wf
    · split
      · exact AskWf.none_wf
      · rename_i e
        have ht₂ := wf_of_eq e (loadAcc_wf ht)
        split
        · exact AskWf.some_wf ht₂
        · exact acqNeed_wf ht₂
  · intro _ _ _ ht
    split
    · exact LRes.trap_wf
    · split
      · exact LRes.trap_wf
      · rename_i e
        have ht₂ := wf_of_eq e (loadAcc_wf ht)
        dsimp only
        exact LRes.ok_wf (dstFmt_wf (acquire_wf (loadFor_wf ht₂)))

theorem storeAcc_wf {c : Cursor} {l : Nat} {a : AddrOps} {size : Nat} (hs : s.mem.wf = true) :
    (storeAcc s c l a size).1.mem.wf = true := by
  unfold storeAcc
  split
  · rename_i e
    exact (wf_of_eq e (resolve_wf hs) :)
  · rename_i e
    have ht := wf_of_eq e (resolve_wf hs)
    split
    · exact ht
    · split
      · exact ht
      · split <;> exact ht

theorem execSt_wf {h : Hdr} {o : StOps} (hs : s.mem.wf = true) : NextWf (execSt h o s) := by
  unfold execSt
  refine perLaneW_wf (fun _ _ _ ht => accNeed_wf ht) (fun _ _ _ ht => ?_) hs
  split
  · exact LRes.trap_wf
  · split
    · exact LRes.trap_wf
    · rename_i e
      have ht₂ := wf_of_eq e (storeAcc_wf ht)
      exact LRes.ok_wf (storeBytes_wf ht₂)

theorem execStq_wf {h : Hdr} {o : StqOps} (hs : s.mem.wf = true) : NextWf (execStq h o s) := by
  unfold execStq
  refine perLaneW_wf (fun _ _ _ ht => accNeed_wf ht) (fun _ _ _ ht => ?_) hs
  split
  · exact LRes.trap_wf
  · rename_i e
    have ht₂ := wf_of_eq e (storeAcc_wf ht)
    exact LRes.ok_wf (storeBytes_wf ht₂)

theorem execStrel_wf {h : Hdr} {o : StOps} (hs : s.mem.wf = true) : NextWf (execStrel h o s) := by
  unfold execStrel
  refine perLaneW_wf (fun _ _ _ ht => accNeed_wf ht) (fun _ _ _ ht => ?_) hs
  split
  · exact LRes.trap_wf
  · split
    · exact LRes.trap_wf
    · rename_i e
      have ht₂ := wf_of_eq e (storeAcc_wf ht)
      dsimp only
      exact LRes.ok_wf (ite_then_wf addRelease_wf (storeBytes_wf (releaseBefore_wf ht₂)))

theorem fenceNeed_wf {c : Cursor} {ord : Order} {sc : Scope} {l : Nat} (hs : s.mem.wf = true) :
    AskWf (fenceNeed s c ord sc l) := by
  unfold fenceNeed
  split
  · exact AskWf.some_wf hs
  · split
    · exact AskWf.some_wf hs
    · split
      · exact drainNeed_wf hs
      · exact AskWf.none_wf

theorem fence_wf {w : WKey} {l : Nat} {ord : Order} {sc : Scope} (hs : s.mem.wf = true) :
    (fence s w l ord sc).mem.wf = true := by
  unfold fence
  dsimp only
  split
  · split
    · exact updThr_wf (ite_wf hs (ite_then_wf vcTick_wf (vcMerge_wf (drainAll_wf (settlePosted_wf hs)))))
    · split
      · exact hs
      · split
        · exact vcTick_wf (settlePosted_wf hs)
        · exact settlePosted_wf hs
  · split
    · exact acquire_wf (updThr_wf (ite_wf hs (ite_then_wf vcTick_wf (vcMerge_wf (drainAll_wf (settlePosted_wf hs))))))
    · split
      · exact hs
      · split
        · exact vcTick_wf (settlePosted_wf hs)
        · exact settlePosted_wf hs

theorem prefPage_wf {core gid va : Nat} {p : Page} {hint : BitVec 2} {l2 user : Bool} (hs : s.mem.wf = true) :
    (prefPage s core gid va p hint l2 user).mem.wf = true := by
  unfold prefPage
  dsimp only
  split
  · exact hs
  · split
    · exact foldl_wf _ (fun _ _ ht => homeTouch_wf ht) _ (recallFrom_wf hs)
    · exact ite_wf hs (l1Fill_wf hs)

theorem execPref_wf {h : Hdr} {o : PrefOps} (hs : s.mem.wf = true) : NextWf (execPref h o s) := by
  unfold execPref
  refine perLane_wf (fun _ _ _ ht => ?_) hs
  dsimp only
  split
  · exact LRes.ok_wf ht
  · split
    · exact LRes.ok_wf (prefPage_wf ht)
    · exact LRes.ok_wf ht

theorem flushLine_wf {k : Nat} (hs : s.mem.wf = true) : (flushLine s k).mem.wf = true := by
  unfold flushLine
  exact foldl_wf _ (fun _ _ ht => drainCore_wf ht) _ hs

theorem discardLine_wf {k : Nat} (hs : s.mem.wf = true) : (discardLine s k).mem.wf = true := by
  unfold discardLine
  dsimp only
  exact probe_wf hs

theorem rangeLine_wf {inval sys : Bool} {gid : Nat} {p : Page} {k : Nat} (hs : s.mem.wf = true) :
    (rangeLine inval sys gid p s k).mem.wf = true := by
  unfold rangeLine
  split
  · exact hs
  · dsimp only
    split
    · split
      · exact hostDrop_wf _ (discardLine_wf (hostWriteBack_wf _ (flushLine_wf hs)))
      · exact discardLine_wf (flushLine_wf hs)
    · split
      · exact hostWriteBack_wf _ (flushLine_wf hs)
      · exact flushLine_wf hs

theorem overRange_wf {s : State} {c : Cursor} {bad : Page → State → Nat → Nat → Option Nat}
    {f : Page → State → Nat → State × Nat}
    {n va cnt : Nat} (hf : ∀ p t k, t.mem.wf = true → (f p t k).1.mem.wf = true) (hs : s.mem.wf = true) :
    (overRange s c bad f n va cnt).1.mem.wf = true := by
  induction n generalizing s va cnt with
  | zero => exact hs
  | succ n ih =>
    unfold overRange
    dsimp only
    split
    · rename_i e
      exact (wf_of_eq e (virtAcc_wf hs) :)
    · rename_i e
      have ht := wf_of_eq e (virtAcc_wf hs)
      split
      · exact ht
      · exact ht
      · split
        · exact ht
        · exact ih (hf _ _ _ ht)

theorem rangeLane_wf {inval : Bool} {o : RangeOps} {c : Cursor} {l : Nat} (hs : s.mem.wf = true) :
    (rangeLane inval o c s l).Wf := by
  unfold rangeLane
  dsimp only
  split
  · refine LRes.fail_wf (ownAsks_wf (overRange_wf (fun _ _ _ ht => ?_) (settlePosted_wf hs)))
    dsimp only
    exact rangeLine_wf ht
  · refine LRes.ok_wf (ownAsks_wf (overRange_wf (fun _ _ _ ht => ?_) (settlePosted_wf hs)))
    dsimp only
    exact rangeLine_wf ht

theorem rangeNeed_wf {c : Cursor} {l : Nat} (hs : s.mem.wf = true) : AskWf (rangeNeed s c l) := by
  unfold rangeNeed
  split
  · exact AskWf.some_wf hs
  · exact AskWf.none_wf

theorem pinLine_wf {p : Page} {k : Nat} (hs : s.mem.wf = true) : (pinLine p s k).1.mem.wf = true := by
  unfold pinLine
  split
  · exact hs
  · dsimp only
    split
    · exact hs
    · split
      · exact hs
      · split
        all_goals
          dsimp only
          exact homeTouch_wf hs

theorem unpinLine_wf {p : Page} {k : Nat} (hs : s.mem.wf = true) : (unpinLine p s k).1.mem.wf = true := by
  unfold unpinLine
  dsimp only
  split
  · split <;> exact hs
  · exact hs

theorem pinLane_wf {f : Page → State → Nat → State × Nat} {o : PinOps} {c : Cursor} {s : State} {l : Nat}
    (hf : ∀ p t k, t.mem.wf = true → (f p t k).1.mem.wf = true) (hs : s.mem.wf = true) : (pinLane f o c s l).Wf := by
  unfold pinLane
  dsimp only
  split
  · rename_i e
    exact LRes.fail_wf (wf_of_eq e (overRange_wf hf hs))
  · rename_i e
    exact LRes.ok_wf (dst_wf (wf_of_eq e (overRange_wf hf hs)))

theorem execMarm_wf {h : Hdr} {o : AddrOps} (hs : s.mem.wf = true) : NextWf (execMarm h o s) := by
  unfold execMarm
  refine perLane_wf (fun _ _ _ ht => ?_) hs
  split
  · exact LRes.trap_wf
  · split
    · exact LRes.trap_wf
    · rename_i e
      have ht₂ := wf_of_eq e (loadAcc_wf ht)
      split
      · exact LRes.trap_wf
      · dsimp only
        split
        · exact LRes.trap_wf
        · exact LRes.ok_wf (updThr_wf (ite_wf (updTag_wf ht₂) (l1Fill_wf ht₂)))

theorem endSleep_wf {w : WKey} {l : Nat} {d : Opd} {reason : Nat} (hs : s.mem.wf = true) :
    (endSleep s w l d reason).mem.wf = true := by
  unfold endSleep
  exact updThr_wf (wakeDst_wf hs)

theorem execMwait_wf {h : Hdr} {d : Opd} (hs : s.mem.wf = true) : NextWf (execMwait h d s) := by
  unfold execMwait
  refine perLane_wf (fun _ _ _ ht => ?_) hs
  split
  · exact LRes.ok_wf (dst_wf ht)
  · split
    · exact LRes.ok_wf (updThr_wf (dst_wf ht))
    · exact LRes.ok_wf (updThr_wf ht)

theorem execMwaitWake_wf {w : WKey} {lane : Nat} (hs : s.mem.wf = true) : NextWf (execMwaitWake w lane s) := by
  unfold execMwaitWake
  dsimp only
  split
  · exact done_wf (ite_wf (endSleep_wf hs) hs)
  · exact done_wf hs

theorem execMwaitTimeout_wf {w : WKey} {lane : Nat} (hs : s.mem.wf = true) : NextWf (execMwaitTimeout w lane s) := by
  unfold execMwaitTimeout
  dsimp only
  split
  · exact done_wf (ite_wf (endSleep_wf hs) hs)
  · exact done_wf hs

/-! ### Atomics -/

theorem atomAcc_wf {c : Cursor} {l : Nat} {a : AddrOps} {size : Nat} {sc : Scope} (hs : s.mem.wf = true) :
    (atomAcc s c l a size sc).1.mem.wf = true := by
  unfold atomAcc
  split
  · exact hs
  · split
    · rename_i e
      exact (wf_of_eq e (resolve_wf hs) :)
    · rename_i e
      have ht := wf_of_eq e (resolve_wf hs)
      split
      · exact ht
      · split
        · exact ht
        · split
          · exact ht
          · split <;> exact ht

theorem ownNeed_wf {core : Nat} {x : Acc} (hs : s.mem.wf = true) : AskWf (ownNeed s core x) := by
  unfold ownNeed
  dsimp only
  split
  · exact AskWf.some_wf (ite_wf hs hs)
  · exact AskWf.none_wf

theorem takeOwnership_wf {core : Nat} {p : Page} {k : Nat} (hs : s.mem.wf = true) :
    (takeOwnership s core p k).mem.wf = true := by
  unfold takeOwnership
  dsimp only
  refine ownSees_wf (drainCore_wf ?_)
  split
  · exact hs
  · exact probe_wf hs

theorem atomPlace_wf {w : WKey} {x : Acc} {hint : BitVec 2} (hs : s.mem.wf = true) :
    (atomPlace s w x hint).mem.wf = true := by
  unfold atomPlace
  split
  · split
    · exact vaultOwn_wf hs
    · exact hs
  · dsimp only
    split
    · exact takeOwnership_wf (homeTouch_wf hs)
    · exact ite_then_wf hostFill_wf (recallFrom_wf (drainKeys_wf (homeTouch_wf hs)))

theorem atomLeave_wf {w : WKey} {x : Acc} {wrote : Bool} (hs : s.mem.wf = true) :
    (atomLeave s w x wrote).mem.wf = true := by
  unfold atomLeave
  split
  · exact hs
  · dsimp only
    exact refreshOwn_wf (seeHome_wf (ite_wf (hostDrop_wf _ hs) hs))

theorem atomWrite_wf {w : WKey} {l : Nat} {x : Acc} {bs : List Byte} (hs : s.mem.wf = true) :
    (atomWrite s w l x bs).mem.wf = true := by
  unfold atomWrite
  dsimp only
  split
  · exact scrStore_wf hs
  · exact homeWrite_wf _ _ hs
  · exact homeOrShadow_wf hs

theorem atomLane_wf {op : Option RedOp} {f : Fmt} {size : Nat} {x : Acc} {ord : Order} {sc0 : Scope} {hint : BitVec 2}
    {la : Nat} {d : Opd} {v new : Nat} {c : Cursor} {l : Nat} (hs : s.mem.wf = true) :
    (atomLane op f size x ord sc0 hint la d v new c s l).mem.wf = true := by
  unfold atomLane
  extract_lets sc gid s1 i t1 s2 old nv s3 s4 s5 s6
  have h1 : s1.mem.wf = true := ite_then_wf releaseBefore_wf hs
  split
  · exact updThr_wf (holdStore_wf (drainKeys_wf h1))
  · clear_value nv
    have h3 : s3.mem.wf = true := by
      unfold s3
      split
      · exact atomWrite_wf (atomPlace_wf h1)
      · exact atomPlace_wf h1
    exact dstFmt_wf (ite_then_wf acquire_wf (ite_then_wf addRelease_wf (atomLeave_wf h3)))

theorem atomNeed_wf {c : Cursor} {l : Nat} {a : AddrOps} {size : Nat} {ord : Order} {sc : Scope}
    (hs : s.mem.wf = true) :
    AskWf (atomNeed s c l a size ord sc) := by
  unfold atomNeed
  split
  · exact AskWf.none_wf
  · rename_i e
    have ht := wf_of_eq e (atomAcc_wf hs)
    split
    · exact AskWf.some_wf ht
    · split
      · rename_i e₂
        exact AskWf.congr_wf e₂ (ownNeed_wf ht)
      · split
        · exact acqNeed_wf ht
        · exact AskWf.none_wf

theorem redLane_wf {o : AtomOps} {h : Hdr} {c : Cursor} {l : Nat} (hs : s.mem.wf = true) :
    (redLane o h c s l).Wf := by
  unfold redLane
  split
  · exact LRes.trap_wf
  · split
    · exact LRes.trap_wf
    · rename_i e
      have ht := wf_of_eq e (atomAcc_wf hs)
      exact LRes.ok_wf (atomLane_wf ht)

theorem execAtom_wf {h : Hdr} {o : AtomOps} (hs : s.mem.wf = true) : NextWf (execAtom h o s) := by
  unfold execAtom
  refine perLaneW_wf (fun _ _ _ ht => ?_) (fun _ _ _ ht => redLane_wf ht) hs
  split
  · exact AskWf.none_wf
  · exact atomNeed_wf ht

theorem execRed_wf {h : Hdr} {o : AtomOps} (hs : s.mem.wf = true) : NextWf (execRed h o s) := by
  unfold execRed
  refine perLaneW_wf (fun _ _ _ ht => ?_) (fun _ _ _ ht => redLane_wf ht) hs
  split
  · exact AskWf.none_wf
  · exact atomNeed_wf ht

theorem execAcas_wf {h : Hdr} {o : AcasOps} (hs : s.mem.wf = true) : NextWf (execAcas h o s) := by
  unfold execAcas
  refine perLaneW_wf ?_ ?_ hs
  · intro _ _ _ ht
    split
    · exact AskWf.none_wf
    · exact atomNeed_wf ht
  · intro _ _ _ ht
    split
    · exact LRes.trap_wf
    · split
      · exact LRes.trap_wf
      · rename_i e
        have ht₂ := wf_of_eq e (atomAcc_wf ht)
        dsimp only
        exact LRes.ok_wf (atomLane_wf ht₂)

theorem execOwnershipRecall_wf {block : Nat} (hs : s.mem.wf = true) : NextWf (execOwnershipRecall block s) := by
  unfold execOwnershipRecall
  dsimp only
  exact done_wf hs

theorem execOwnershipGrant_wf {block : Nat} (hs : s.mem.wf = true) : NextWf (execOwnershipGrant block s) := by
  unfold execOwnershipGrant
  split <;> exact done_wf hs

/-! ### Barriers, exits and frames of a group -/

theorem andThen_wf {o : Host.Outcome State Fault Refusal} {f : State → State}
    (hf : ∀ t, t.mem.wf = true → (f t).mem.wf = true) (ho : NextWf o) : NextWf (andThen o f) := by
  cases o with
  | next s => exact done_wf (hf s (ho s rfl))
  | fault _ => exact ho
  | refused _ => exact ho

theorem drainSeen_wf {w : WKey} {ls : List Nat} (hs : s.mem.wf = true) : (drainSeen s w ls).mem.wf = true := by
  unfold drainSeen
  exact foldl_wf _ (fun _ _ ht => drainUpTo_wf ht) _ hs

theorem pkgRelease_wf {core : Nat} (hs : s.mem.wf = true) : (pkgRelease s core).mem.wf = true := by
  unfold pkgRelease
  dsimp only
  exact vcTick_wf (drainAll_wf hs)

theorem pkgAcquire_wf {core : Nat} (hs : s.mem.wf = true) : (pkgAcquire s core).mem.wf = true := by
  unfold pkgAcquire
  dsimp only
  exact acquireL1_wf (catchUp_wf (vcMerge_wf hs))

theorem pathRelease_wf {w : WKey} {ls : List Nat} (hs : s.mem.wf = true) : (pathRelease s w ls).mem.wf = true := by
  unfold pathRelease
  exact pkgRelease_wf (foldl_wf _ (fun _ _ ht => vcMerge_wf ht) _ (drainSeen_wf hs))

theorem sysAccess_wf {die ctx va n : Nat} {store win : Bool} (hs : s.mem.wf = true) :
    (sysAccess s die ctx va n store win).1.mem.wf = true := by
  unfold sysAccess
  split
  · exact hs
  · split
    · rename_i e
      exact (wf_of_eq e (translate_wf hs) :)
    · rename_i e
      have ht := wf_of_eq e (translate_wf hs)
      split
      · exact ht
      · split <;> exact ht

theorem mapFailure_wf {die ctx code : Nat} {addr : W64} (hs : s.mem.wf = true) :
    (mapFailure s die ctx code addr).mem.wf = true := by
  unfold mapFailure
  split
  · exact hs
  · exact updCtx_wf (postFault_wf hs)

theorem frameBit_wf {die ctx f : Nat} {on : Bool} (hs : s.mem.wf = true) :
    (frameBit s die ctx f on).1.mem.wf = true := by
  unfold frameBit
  dsimp only
  split
  · rename_i e
    have ht := wf_of_eq e (sysAccess_wf hs)
    dsimp only
    exact mapFailure_wf ht
  · rename_i e
    have ht := wf_of_eq e (sysAccess_wf hs)
    dsimp only
    exact updCtx_wf (homeWrite_wf _ _ (probe_wf ht))

theorem clearFrames_wf {s : State} {die ctx fuel f n : Nat} {acc : List Nat} (hs : s.mem.wf = true) :
    (clearFrames s die ctx fuel f n acc).1.mem.wf = true := by
  induction fuel generalizing s f n acc with
  | zero => exact hs
  | succ fuel ih =>
    unfold clearFrames
    split
    · exact hs
    · split
      · exact hs
      · dsimp only
        split
        · rename_i e
          exact mapFailure_wf (wf_of_eq e (sysAccess_wf hs))
        · rename_i e
          have ht := wf_of_eq e (sysAccess_wf hs)
          split <;> exact ih (updCtx_wf (probe_wf ht))

theorem takeFrames_wf {die ctx n : Nat} (hs : s.mem.wf = true) : (takeFrames s die ctx n).1.mem.wf = true := by
  unfold takeFrames
  dsimp only
  split
  · exact hs
  · split
    · rename_i e
      exact (wf_of_eq e (clearFrames_wf hs) :)
    · rename_i e
      have ht := wf_of_eq e (clearFrames_wf hs)
      dsimp only
      exact foldl_wf _ (fun _ _ hu => frameBit_wf hu) _ ht

theorem updGroupThreads_wf {gid : Nat} {p : Thread → Bool} {f : Thread → Thread} (hs : s.mem.wf = true) :
    (updGroupThreads s gid p f).mem.wf = true := by
  unfold updGroupThreads
  exact hs

theorem releaseWaiters_wf {gid : Nat} {b : BarKind} (hs : s.mem.wf = true) :
    (releaseWaiters s gid b).mem.wf = true := by
  unfold releaseWaiters
  exact updGroupThreads_wf hs

theorem barCheck_wf {gid : Nat} (hs : s.mem.wf = true) : (barCheck s gid).mem.wf = true := by
  unfold barCheck
  split
  · exact hs
  · split
    · exact updGroup_wf (releaseWaiters_wf hs)
    · exact hs

theorem execBar_wf {h : Hdr} (hs : s.mem.wf = true) : NextWf (execBar h s) := by
  unfold execBar
  refine perPath_wf (fun _ _ _ ht => ?_) hs
  split
  · exact LRes.trap_wf
  · dsimp only
    exact LRes.ok_wf (barCheck_wf (foldl_wf _ (fun _ _ hu => updThr_wf hu) _ (updGroup_wf ht)))

theorem nbarLane_wf {o : NbarOps} {c : Cursor} {l : Nat} (hs : s.mem.wf = true) : (nbarLane o c s l).Wf := by
  unfold nbarLane
  dsimp only
  split
  · split
    · exact LRes.trap_wf
    · split
      · exact LRes.trap_wf
      · split
        all_goals
          split
          · exact LRes.trap_wf
          · split
            all_goals
              split
              · exact LRes.ok_wf (updGroup_wf (releaseWaiters_wf (updThr_wf hs)))
              · exact LRes.ok_wf (updGroup_wf (updThr_wf hs))
  · exact LRes.trap_wf

theorem superstepCheck_wf {n : Nat} (hs : s.mem.wf = true) : (superstepCheck s n).mem.wf = true := by
  unfold superstepCheck
  dsimp only
  split
  · dsimp only
    exact foldl_wf _ (fun _ _ ht => updGroup_wf (updGroupThreads_wf ht)) _ (foldl_wf _
      (fun _ _ ht => pkgAcquire_wf ht) _ (foldl_wf _ (fun _ _ ht => pkgRelease_wf ht) _ (foldl_wf _
      (fun _ _ ht => foldl_wf _ (fun _ _ hu => pathRelease_wf hu) _ ht) _ hs)))
  · exact hs

theorem ssbArrive_wf {gid : Nat} (hs : s.mem.wf = true) : (ssbArrive s gid).mem.wf = true := by
  unfold ssbArrive
  split
  · exact hs
  · dsimp only
    split
    · refine superstepCheck_wf ?_
      split
      · exact updGroup_wf hs
      · exact hs
    · split
      · exact updGroup_wf hs
      · exact hs

theorem execSsb_wf {h : Hdr} (hs : s.mem.wf = true) : NextWf (execSsb h s) := by
  unfold execSsb
  refine perPath_wf (fun _ _ _ ht => ?_) hs
  split
  · exact LRes.trap_wf
  · dsimp only
    exact LRes.ok_wf (ssbArrive_wf (foldl_wf _ (fun _ _ hu => updThr_wf hu) _ ht))

theorem execBarrierDeadlock_wf {gid : Nat} (hs : s.mem.wf = true) : NextWf (execBarrierDeadlock gid s) := by
  unfold execBarrierDeadlock
  split
  · exact done_wf hs
  · split
    · exact done_wf hs
    · dsimp only
      exact done_wf (foldl_wf _ (fun _ _ ht => takeTraps_wf ht) _ (updGroupThreads_wf (updGroup_wf hs)))

theorem warpExit_wf {w : WKey} (hs : s.mem.wf = true) : (warpExit s w).mem.wf = true := by
  unfold warpExit
  split
  · exact hs
  · split
    · exact hs
    · dsimp only
      split
      · refine updGroup_wf ?_
        dsimp only
        exact disown_wf (frameBit_wf hs)
      · split
        · refine due_wf (updGroup_wf (updGroup_wf ?_))
          dsimp only
          exact disown_wf (frameBit_wf hs)
        · refine barCheck_wf (updGroup_wf ?_)
          dsimp only
          exact disown_wf (frameBit_wf hs)

theorem afterExit_wf {w : WKey} (hs : s.mem.wf = true) : (afterExit s w).mem.wf = true := by
  unfold afterExit
  dsimp only
  split
  · split
    · exact warpExit_wf hs
    · exact ssbArrive_wf (warpExit_wf hs)
  · exact warpExit_wf hs

theorem execExit_wf {h : Hdr} (hs : s.mem.wf = true) : NextWf (execExit h s) := by
  unfold execExit
  refine andThen_wf (fun _ ht => ?_) (perLane_wf (fun _ _ _ ht => LRes.ok_wf (updThr_wf ht)) hs)
  split
  · exact afterExit_wf ht
  · exact ht

theorem execExitComplete_wf {w : WKey} {lane : Nat} (hs : s.mem.wf = true) : NextWf (execExitComplete w lane s) := by
  unfold execExitComplete
  dsimp only
  split
  · exact done_wf (afterExit_wf (updThr_wf hs))
  · exact done_wf hs

/-! ### Queues of a die -/

theorem ovSettle1_wf {die lv : Nat} (hs : s.mem.wf = true) : (ovSettle1 s die lv).mem.wf = true := by
  unfold ovSettle1
  refine foldl_wf _ (fun _ _ ht => ?_) _ hs
  dsimp only
  split
  · exact ht
  · split
    · split
      · exact updSched_wf (devCheck_wf ht)
      · exact ht
    · split
      · exact ht
      · exact updSched_wf (devWrite_wf _ _ ht)

theorem ovSettle_wf {die : Nat} (hs : s.mem.wf = true) : (ovSettle s die).mem.wf = true := by
  unfold ovSettle
  split
  · exact hs
  · exact foldl_wf _ (fun _ _ ht => ovSettle1_wf ht) _ hs

theorem enqueue_wf {die : Nat} {q : Queued} (hs : s.mem.wf = true) : (enqueue s die q).mem.wf = true := by
  unfold enqueue
  dsimp only
  exact ovSettle_wf (updSched_wf hs)

theorem heldPump_wf {s : State} {die ctx n : Nat} (hs : s.mem.wf = true) : (heldPump s die ctx n).mem.wf = true := by
  induction n generalizing s with
  | zero => exact hs
  | succ n ih =>
    unfold heldPump
    dsimp only
    split
    · exact hs
    · split
      · exact hs
      · split
        · rename_i e
          have ht := wf_of_eq e (sysAccess_wf hs)
          split
          · exact ht
          · exact updCtx_wf (postFault_wf ht)
        · rename_i e
          exact ih (updCtx_wf (homeWrite_wf _ _ (wf_of_eq e (sysAccess_wf hs))))

theorem pushRcd_wf {die ctx : Nat} {r : Rcd} {byThread : Option Nat} (hs : s.mem.wf = true) :
    (pushRcd s die ctx r byThread).mem.wf = true := by
  unfold pushRcd
  split
  · dsimp only
    exact heldPump_wf (updCtx_wf hs)
  · dsimp only
    split
    · exact enqueue_wf hs
    · exact updSched_wf hs

theorem retryPush_wf {die : Nat} {q : Queued} (hs : s.mem.wf = true) : (retryPush die s q).mem.wf = true := by
  unfold retryPush
  split
  · exact enqueue_wf hs
  · exact updSched_wf hs

theorem execHeldListPushRetry_wf {ctx : Nat} (hs : s.mem.wf = true) : NextWf (execHeldListPushRetry ctx s) := by
  unfold execHeldListPushRetry
  dsimp only
  exact done_wf (heldPump_wf hs)

theorem ageLevel_wf {die lv : Nat} (hs : s.mem.wf = true) : (ageLevel s die lv).mem.wf = true := by
  unfold ageLevel
  refine foldl_wf _ (fun _ _ ht => ?_) _ hs
  dsimp only
  split
  · exact ovSettle_wf (updSched_wf (updSched_wf ht))
  · exact ht

/-! ### Tensor descriptors -/

theorem tidCheck_wf {ctx n : Nat} (hs : s.mem.wf = true) : (tidCheck s ctx n).mem.wf = true := by
  unfold tidCheck
  exact devCheck_wf hs

theorem translateRuns_wf {core : Option Nat} {die ctx : Nat} {user : Bool} {runs : List (Nat × Nat)}
    (hs : s.mem.wf = true) :
    (translateRuns s core die ctx user runs).1.mem.wf = true := by
  unfold translateRuns
  refine foldl_fst_wf _ (fun _ _ hs₂ => ?_) _ hs
  split
  · exact hs₂
  · split
    · exact hs₂
    · split
      · exact hs₂
      · split
        · rename_i e
          exact (wf_of_eq e (translate_wf hs₂) :)
        · rename_i e
          have ht := wf_of_eq e (translate_wf hs₂)
          split <;> exact ht

/-! ### Tenure -/

theorem wakeDstFmt_wf {w : WKey} {l : Nat} {d : Opd} {f : Fmt} {v : Nat} (hs : s.mem.wf = true) :
    (wakeDstFmt s w l d f v).mem.wf = true := by
  unfold wakeDstFmt
  dsimp only
  split
  · split
    · exact updThr_wf (wakeDst_wf hs)
    · exact updWarp_wf (wakeDst_wf hs)
    · exact wakeDst_wf hs
  · exact wakeDst_wf hs

theorem heldSeen_wf {h : HeldStore} (hs : s.mem.wf = true) : (heldSeen s h).mem.wf = true := by
  unfold heldSeen
  split
  · exact foldl_wf _ (fun _ _ ht => refreshOwn_wf ht) _ (ownSees_wf hs)
  · exact hs

theorem heldOrder_wf {s : State} {h : HeldStore} {k : State → State} (hk : ∀ t, t.mem.wf = true → (k t).mem.wf = true)
    (hs : s.mem.wf = true) : (heldOrder s h k).mem.wf = true := by
  unfold heldOrder
  extract_lets line read t
  have ht : t.mem.wf = true := by
    unfold t
    split
    · exact addRecords_wf hs
    · exact hs
  split
  · exact ht
  · split
    · exact hk _ (acquire_wf (foldl_wf _ (fun _ _ hu => drainUpTo_wf hu) _ ht))
    · exact hk _ ht

theorem ackHeld_wf {h : HeldStore} (hs : s.mem.wf = true) : (ackHeld s h).mem.wf = true := by
  unfold ackHeld
  split <;> exact hs

theorem applyHeld_wf {h : HeldStore} (hs : s.mem.wf = true) : (applyHeld s h).mem.wf = true := by
  unfold applyHeld
  split
  · exact ackHeld_wf (heldSeen_wf (homeOrShadow_wf hs))
  · dsimp only
    refine heldOrder_wf (fun _ ht => updThr_wf (wakeDstFmt_wf ht)) ?_
    split
    · exact heldSeen_wf (homeOrShadow_wf hs)
    · exact hs

theorem applyHeldAll_wf {held : List HeldStore} (hs : s.mem.wf = true) : (applyHeldAll s held).mem.wf = true := by
  unfold applyHeldAll
  refine foldl_wf _ (fun _ _ ht => ?_) _ hs
  split
  · exact ht
  · exact applyHeld_wf ht

theorem resumeLane_wf {w : WKey} {l : Nat} {ends : Bool} (hs : s.mem.wf = true) :
    (resumeLane s w l ends).mem.wf = true := by
  unfold resumeLane
  dsimp only
  exact updThr_wf (ite_wf (updGroup_wf hs) hs)

theorem updHandle_wf {gid n : Nat} {f : Handle → Handle} (hs : s.mem.wf = true) :
    (updHandle s gid n f).mem.wf = true := by
  unfold updHandle
  exact updGroup_wf hs

theorem drainBehind_wf {core : Nat} {foot : List (Nat × Nat)} (hs : s.mem.wf = true) :
    (drainBehind s core foot).mem.wf = true := by
  unfold drainBehind
  dsimp only
  exact foldl_wf _ (fun _ _ ht => drainUpTo_wf ht) _ hs

theorem clearFoot_wf {core : Nat} {foot : List (Nat × Nat)} (hs : s.mem.wf = true) :
    (clearFoot s core foot).mem.wf = true := by
  unfold clearFoot
  exact foldl_wf _ (fun _ _ ht => recallFrom_wf (probe_wf ht)) _ hs

theorem grantAcquire_wf {w : WKey} {sc : Scope} {foot : List (Nat × Nat)} {l : Nat} (hs : s.mem.wf = true) :
    (grantAcquire s w sc foot l).mem.wf = true := by
  unfold grantAcquire
  exact acquire_wf hs

theorem cmdAcquire_wf {t : Tenure} (hs : s.mem.wf = true) : (cmdAcquire s t).mem.wf = true := by
  unfold cmdAcquire
  split
  · exact hs
  · dsimp only
    exact acquireL1_wf (catchUp_wf (vcMerge_wf hs))

theorem grantEntry_wf {e : Nat × Tenure} (hs : s.mem.wf = true) : (grantEntry s e).mem.wf = true := by
  unfold grantEntry
  dsimp only
  split
  · refine foldl_wf _ (fun _ _ ht => resumeLane_wf (grantAcquire_wf ht)) _ (updHandle_wf (countSlice_wf ?_))
    dsimp only
    exact ite_then_wf clearFoot_wf (drainBehind_wf hs)
  · refine cmdAcquire_wf (countSlice_wf ?_)
    dsimp only
    split
    · exact clearFoot_wf (drainBehind_wf hs)
    · exact drainBehind_wf hs

theorem grantAll_wf {s : State} {die n : Nat} (hs : s.mem.wf = true) : (grantAll s die n).mem.wf = true := by
  induction n generalizing s with
  | zero => exact hs
  | succ n ih =>
    unfold grantAll
    dsimp only
    split
    · exact hs
    · exact ih (foldl_wf _ (fun _ _ ht => grantEntry_wf ht) _ hs)

theorem tenureRelease_wf {t : Tenure} (hs : s.mem.wf = true) : (tenureRelease s t).mem.wf = true := by
  unfold tenureRelease
  dsimp only
  split
  · exact addRecords_wf (ite_then_wf vcTick_wf (ite_wf (drainCore_wf hs) hs))
  · split
    · exact vcTick_wf (ite_wf (drainCore_wf hs) hs)
    · split
      · exact drainCore_wf hs
      · exact hs

theorem dropShadows_wf {lines : List Nat} (hs : s.mem.wf = true) : (dropShadows s lines).mem.wf = true := by
  unfold dropShadows
  refine foldl_wf _ (fun _ _ ht => ?_) _ hs
  split <;> exact ht

theorem endTenure_wf {e : Nat × Tenure} (hs : s.mem.wf = true) : (endTenure s e).mem.wf = true := by
  unfold endTenure
  dsimp only
  exact tenureRelease_wf (applyHeldAll_wf (dropShadows_wf (ownSees_wf (foldl_wf _
    (fun _ _ ht => homeOrShadow_wf ht) _ (homeOrShadow_wf hs)))))

theorem releaseTenure_wf {id : Nat} {sc : Scope} {toBound : Bool} {seen : List (Nat × Nat)} (hs : s.mem.wf = true) :
    (releaseTenure s id sc toBound seen).mem.wf = true := by
  unfold releaseTenure
  split
  · exact hs
  · dsimp only
    split
    · exact hs
    · exact endTenure_wf hs

theorem drainFoot_wf {t : Tenure} (hs : s.mem.wf = true) : (drainFoot s t).mem.wf = true := by
  unfold drainFoot
  exact drainCore_wf hs

theorem execTenureDrainAck_wf {die : Nat} (hs : s.mem.wf = true) : NextWf (execTenureDrainAck die s) := by
  unfold execTenureDrainAck
  dsimp only
  split
  · exact done_wf hs
  · split
    · exact done_wf (drainFoot_wf hs)
    · exact done_wf (foldl_wf _ (fun _ _ ht => resumeLane_wf ht) _ (ite_then_wf updHandle_wf (endTenure_wf
        (drainFoot_wf hs))))

theorem retryWaits_wf {id : Nat} (hs : s.mem.wf = true) : (retryWaits s id).mem.wf = true := by
  unfold retryWaits
  split
  · exact hs
  · exact foldl_wf _ (fun _ _ hu => foldl_wf _ (fun _ _ hv => shadowLine_wf hv) _ hu) _ hs

theorem execSpillRetry_wf {die : Nat} (hs : s.mem.wf = true) : NextWf (execSpillRetry die s) := by
  unfold execSpillRetry
  dsimp only
  refine done_wf ?_
  split
  all_goals
    dsimp only
    exact foldl_wf _ (fun _ _ ht => retryWaits_wf ht) _ hs

theorem closeTenure_wf {id : Nat} (hs : s.mem.wf = true) : (closeTenure s id).mem.wf = true := by
  unfold closeTenure
  split
  · exact hs
  · split
    · exact hs
    · dsimp only
      exact endTenure_wf (ite_wf (drainFoot_wf hs) hs)

theorem closeHandles_wf {gid : Nat} (hs : s.mem.wf = true) : (closeHandles s gid).mem.wf = true := by
  unfold closeHandles
  dsimp only
  refine foldl_wf _ (fun _ _ ht => ?_) _ hs
  split
  · exact closeTenure_wf ht
  · exact ht

theorem execThopen_wf {h : Hdr} {o : ThopenOps} {s : State} (hs : s.mem.wf = true) : NextWf (execThopen h o s) := by
  unfold execThopen
  refine perPath_wf (fun _ _ _ ht => ?_) hs
  extract_lets n
  split
  · exact LRes.trap_wf
  · split
    · exact LRes.trap_wf
    · split
      · exact LRes.trap_wf
      · exact LRes.ok_wf (updHandle_wf (tidCheck_wf ht))

theorem footprint_wf {c : Cursor} {h : Handle} (hs : s.mem.wf = true) : (footprint s c h).1.mem.wf = true := by
  unfold footprint
  split
  all_goals
    rename_i e
    exact (wf_of_eq e (translateRuns_wf hs) :)

theorem retractTry_wf {e : Nat × Tenure} (hs : s.mem.wf = true) : (retractTry s e).mem.wf = true := by
  unfold retractTry
  split
  · exact hs
  · dsimp only
    split
    · exact foldl_wf _ (fun _ _ ht => updThr_wf ht) _ (updHandle_wf (endTenure_wf hs))
    · exact updHandle_wf (endTenure_wf hs)

theorem enterTenure_wf {me : Nat × Tenure} (hs : s.mem.wf = true) : (enterTenure s me).mem.wf = true := by
  unfold enterTenure
  exact foldl_wf _ (fun _ _ ht => retractTry_wf ht) _ hs

theorem execTenr_wf {h : Hdr} {o : TenrOps} (hs : s.mem.wf = true) : NextWf (execTenr h o s) := by
  unfold execTenr
  refine perPath_wf (fun _ _ _ ht => ?_) hs
  dsimp only
  split
  · exact LRes.trap_wf
  · split
    · exact LRes.trap_wf
    · split
      · exact LRes.trap_wf
      · rename_i e
        have ht₂ := wf_of_eq e (footprint_wf ht)
        split
        · exact LRes.trap_wf
        · split
          · refine LRes.ok_wf (foldl_wf _ (fun _ _ hu => dstP_wf hu) _ ?_)
            split
            · refine foldl_wf _ (fun _ _ hu => grantAcquire_wf hu) _ (grantEntry_wf (updHandle_wf ?_))
              dsimp only
              exact enterTenure_wf ht₂
            · exact ht₂
          · refine LRes.wait_wf (updHandle_wf (updHandle_wf ?_))
            dsimp only
            exact enterTenure_wf ht₂

theorem releasePath_wf {w : WKey} {ls : List Nat} (hs : s.mem.wf = true) : (releasePath s w ls).1.mem.wf = true := by
  unfold releasePath
  dsimp only
  exact foldl_wf _ (fun _ _ ht => vcMerge_wf ht) _ hs

theorem releaseHandle_wf {close : Bool} {sc : Scope} {a : Opd} {c : Cursor} (hs : s.mem.wf = true) :
    (releaseHandle close sc a c s).Wf := by
  unfold releaseHandle
  dsimp only
  split
  · exact LRes.trap_wf
  · split
    · exact LRes.trap_wf
    · split
      · exact LRes.trap_wf
      · split
        · exact LRes.wait_wf (releaseTenure_wf (releasePath_wf hs))
        · exact LRes.ok_wf (updHandle_wf (releaseTenure_wf (releasePath_wf hs)))
        · exact LRes.ok_wf (updHandle_wf hs)

theorem splitTenure_wf {gid src dst d k : Nat} (hs : s.mem.wf = true) :
    (splitTenure s gid src dst d k).mem.wf = true := by
  unfold splitTenure
  split
  · exact hs
  · dsimp only
    split
    · exact updHandle_wf (updHandle_wf hs)
    · dsimp only
      exact updHandle_wf (updHandle_wf hs)

theorem execTsplit_wf {h : Hdr} {o : TsplitOps} (hs : s.mem.wf = true) : NextWf (execTsplit h o s) := by
  unfold execTsplit
  refine perPath_wf (fun _ _ _ ht => ?_) hs
  dsimp only
  split
  · exact LRes.trap_wf
  · split
    · exact LRes.trap_wf
    · split
      · exact LRes.trap_wf
      · split
        all_goals
          split
          · exact LRes.trap_wf
          · exact LRes.ok_wf (splitTenure_wf ht)

/-! ### Agents of the device -/

theorem Agent.pages_wf {a : Agent} {vas : List Nat} (hs : s.mem.wf = true) :
    (Agent.pages a s vas).1.mem.wf = true := by
  unfold Agent.pages
  refine foldl_fst_wf _ (fun _ _ hs₂ => ?_) _ hs
  split
  · exact hs₂
  · dsimp only
    exact translate_wf hs₂

theorem Agent.touch_wf {a : Agent} {ps : PageMap} {vas : List Nat} {store : Bool} (hs : s.mem.wf = true) :
    (Agent.touch a s ps vas store).mem.wf = true := by
  unfold Agent.touch
  dsimp only
  exact cmdAsks_wf (ite_else_wf (fun h => hostAsks_wf _ h) (foldl_wf _ (fun _ _ ht => homeTouch_wf
    (recallFrom_wf ht)) _ hs))

theorem Agent.read_wf {a : Agent} {ps : PageMap} {vas : List Nat} (hs : s.mem.wf = true) :
    (Agent.read a s ps vas).1.mem.wf = true := by
  unfold Agent.read
  dsimp only
  exact Agent.touch_wf hs

theorem writeFor_wf {die gid cmd : Nat} {cs : List Host.Cell} (hs : s.mem.wf = true) :
    (writeFor s die gid cmd cs).mem.wf = true := by
  unfold writeFor
  dsimp only
  refine homeOrShadow_wf (foldl_wf _ (fun _ _ ht => ?_) _ hs)
  split <;> exact ht

theorem Agent.write_wf {a : Agent} {ps : PageMap} {cs : List (Nat × Byte)} (hs : s.mem.wf = true) :
    (Agent.write a s ps cs).mem.wf = true := by
  unfold Agent.write
  dsimp only
  exact cmdAsks_wf (writeFor_wf (Agent.touch_wf hs))

theorem Agent.storeAt_wf {a : Agent} {va : Nat} {bs : List Byte} (hs : s.mem.wf = true) :
    (Agent.storeAt a s va bs).1.mem.wf = true := by
  unfold Agent.storeAt
  dsimp only
  split
  · dsimp only
    exact Agent.pages_wf hs
  · dsimp only
    exact Agent.write_wf (Agent.pages_wf hs)

theorem Agent.blocks_wf {a : Agent} {x : Tile} (hs : s.mem.wf = true) : (Agent.blocks a s x).1.mem.wf = true := by
  unfold Agent.blocks
  dsimp only
  exact Agent.pages_wf hs

theorem Agent.request_wf {a : Agent} {sc : Scope} {w : WKey} {tiles : List Tile} (hs : s.mem.wf = true) :
    (Agent.request a s sc w tiles).mem.wf = true := by
  unfold Agent.request
  refine foldl_wf _ (fun _ _ ht => ?_) _ hs
  dsimp only
  refine foldl_wf _ (fun _ _ hu => ?_) _ (Agent.blocks_wf ht)
  dsimp only
  exact enterTenure_wf hu

theorem releaseCmd_wf {cmd : Nat} {sc : Scope} (hs : s.mem.wf = true) : (releaseCmd s cmd sc).mem.wf = true := by
  unfold releaseCmd
  dsimp only
  refine foldl_wf _ (fun _ _ ht => ?_) _ hs
  split
  · exact ht
  · split
    · exact ht
    · exact endTenure_wf ht

theorem cmdRelease_wf {die : Nat} {rel : Bool} {sc : Scope} (hs : s.mem.wf = true) :
    (cmdRelease s die rel sc).mem.wf = true := by
  unfold cmdRelease
  split
  · exact vcTick_wf hs
  · exact hs

theorem observe_wf {w : WKey} {l : Nat} (hs : s.mem.wf = true) : (observe s w l).mem.wf = true := by
  unfold observe
  dsimp only
  exact acquire_wf (updThr_wf hs)

/-! ### Matrix engines and tile tasks -/

theorem updEngine_wf {core : Nat} {f : Engine → Engine} (hs : s.mem.wf = true) :
    (updEngine s core f).mem.wf = true := by
  unfold updEngine
  exact hs

theorem updHead_wf {core : Nat} {f : ECmd → ECmd} (hs : s.mem.wf = true) : (updHead s core f).mem.wf = true := by
  unfold updHead
  exact updEngine_wf hs

theorem freeEngine_wf {core : Nat} (hs : s.mem.wf = true) : (freeEngine s core).mem.wf = true := by
  unfold freeEngine
  dsimp only
  exact updEngine_wf hs

theorem setAcc_wf {core a : Nat} {t : Tab W32} (hs : s.mem.wf = true) : (setAcc s core a t).mem.wf = true := by
  unfold setAcc
  exact updEngine_wf hs

theorem setRow_wf {core a m : Nat} {row : List Nat} (hs : s.mem.wf = true) :
    (setRow s core a m row).mem.wf = true := by
  unfold setRow
  dsimp only
  exact setAcc_wf hs

theorem readScales_wf {core : Nat} {a : Agent} {ps : PageMap} {vas : List Nat} (hs : s.mem.wf = true) :
    (readScales s core a ps vas).1.mem.wf = true := by
  unfold readScales
  dsimp only
  exact foldl_wf _ (fun _ _ ht => updEngine_wf ht) _ (Agent.touch_wf hs)

theorem runStep_wf {core : Nat} {x : ECmd} (hs : s.mem.wf = true) : (runStep s core x).1.mem.wf = true := by
  unfold runStep
  dsimp only
  split
  · dsimp only
    exact Agent.pages_wf hs
  · split
    · dsimp only
      exact Agent.pages_wf hs
    · split
      · dsimp only
        exact setAcc_wf (readScales_wf (Agent.touch_wf (Agent.pages_wf hs)))
      · dsimp only
        exact setRow_wf (readScales_wf (Agent.touch_wf (Agent.pages_wf hs)))
      · dsimp only
        exact Agent.write_wf (readScales_wf (Agent.touch_wf (Agent.pages_wf hs)))
      · dsimp only
        exact Agent.write_wf (readScales_wf (Agent.touch_wf (Agent.pages_wf hs)))
      · dsimp only
        refine setAcc_wf ?_
        dsimp only
        exact readScales_wf (Agent.touch_wf (Agent.pages_wf hs))

theorem unpend_wf {x : ECmd} (hs : s.mem.wf = true) : (unpend s x).mem.wf = true := by
  unfold unpend
  exact foldl_wf _ (fun _ _ ht => updThr_wf ht) _ hs

theorem showHead_wf {core : Nat} (hs : s.mem.wf = true) : (showHead s core).mem.wf = true := by
  unfold showHead
  exact updEngine_wf hs

theorem discardAll_wf {core : Nat} (hs : s.mem.wf = true) : (discardAll s core).mem.wf = true := by
  unfold discardAll
  dsimp only
  exact updEngine_wf (foldl_wf _ (fun _ _ ht => unpend_wf (releaseCmd_wf ht)) _ hs)

theorem setTasks_wf {die : Nat} {f : Tab Task → Tab Task} (hs : s.mem.wf = true) :
    (setTasks s die f).mem.wf = true := by
  unfold setTasks
  exact hs

theorem finishTask_wf {die idx code : Nat} (hs : s.mem.wf = true) : (finishTask s die idx code).mem.wf = true := by
  unfold finishTask
  split
  · exact hs
  · dsimp only
    split
    · exact setTasks_wf (ite_else_wf Agent.storeAt_wf (cmdRelease_wf (ite_then_wf releaseCmd_wf
        (ite_wf (markSoft_wf hs) hs))))
    · dsimp only
      exact setTasks_wf (ite_else_wf Agent.storeAt_wf (cmdRelease_wf (ite_then_wf releaseCmd_wf
        (ite_wf (markSoft_wf hs) hs))))

theorem spillTask_wf {core idx : Nat} {x : ECmd} {st : Nat} (hs : s.mem.wf = true) :
    (spillTask s core idx x st).mem.wf = true := by
  unfold spillTask
  dsimp only
  exact freeEngine_wf (setTasks_wf (devWrite_wf _ _ hs))

theorem parkBehind_wf {x : ECmd} {va code : Nat} (hs : s.mem.wf = true) : (parkBehind s x va code).mem.wf = true := by
  unfold parkBehind
  dsimp only
  split
  · exact foldl_wf _ (fun _ _ ht => updThr_wf ht) _ hs
  · exact noteTraps_wf (foldl_wf _ (fun _ _ ht => updThr_wf ht) _ hs)

theorem stepFails_wf {core : Nat} {x : ECmd} {va code : Nat} (hs : s.mem.wf = true) :
    (stepFails s core x va code).mem.wf = true := by
  unfold stepFails
  dsimp only
  split
  · split
    · exact postFault_wf (spillTask_wf hs)
    · exact finishTask_wf (freeEngine_wf hs)
  · split
    · exact postFault_wf (parkBehind_wf (updEngine_wf (updHead_wf hs)))
    · exact takeTraps_wf (discardAll_wf hs)

theorem headDone_wf {core : Nat} {x : ECmd} (hs : s.mem.wf = true) : (headDone s core x).mem.wf = true := by
  unfold headDone
  split
  · exact finishTask_wf (freeEngine_wf hs)
  · dsimp only
    exact showHead_wf (updEngine_wf (foldl_wf _ (fun _ _ ht => updThr_wf ht) _ (unpend_wf (cmdRelease_wf
      (releaseCmd_wf hs)))))

theorem startHead_wf {core : Nat} {x : ECmd} (hs : s.mem.wf = true) : (startHead s core x).mem.wf = true := by
  unfold startHead
  dsimp only
  refine updHead_wf (free_wf ?_)
  dsimp only
  exact updEngine_wf (ite_wf (drainAll_wf hs) hs)

theorem stopForSave_wf {core : Nat} (hs : s.mem.wf = true) : (stopForSave s core).mem.wf = true := by
  unfold stopForSave
  exact ite_wf (updEngine_wf hs) hs

theorem execEngineStep_wf {core : Nat} (hs : s.mem.wf = true) : NextWf (execEngineStep core s) := by
  unfold execEngineStep
  split
  · exact done_wf hs
  · split
    · exact done_wf hs
    · split
      · split
        · dsimp only
          exact done_wf (pushRcd_wf (spillTask_wf hs))
        · split
          · exact done_wf (startHead_wf hs)
          · split
            · exact done_wf (headDone_wf hs)
            · split
              · rename_i e
                have ht := wf_of_eq e (runStep_wf hs)
                exact done_wf (stepFails_wf ht)
              · rename_i e
                have ht := wf_of_eq e (runStep_wf hs)
                dsimp only
                exact done_wf (updHead_wf (free_wf ht))
      · split
        · exact done_wf (startHead_wf hs)
        · split
          · exact done_wf (stopForSave_wf (headDone_wf hs))
          · split
            · rename_i e
              have ht := wf_of_eq e (runStep_wf hs)
              exact done_wf (stepFails_wf ht)
            · rename_i e
              have ht := wf_of_eq e (runStep_wf hs)
              dsimp only
              split
              · exact done_wf (stopForSave_wf (headDone_wf (stopForSave_wf (showHead_wf (updHead_wf (free_wf ht))))))
              · exact done_wf (stopForSave_wf (showHead_wf (updHead_wf (free_wf ht))))

theorem execMrsv_wf {h : Hdr} {d : Opd} (hs : s.mem.wf = true) : NextWf (execMrsv h d s) := by
  unfold execMrsv
  refine perPath_wf (fun _ _ _ ht => ?_) hs
  dsimp only
  exact LRes.ok_wf (foldl_wf _ (fun _ _ hu => dstP_wf hu) _ (ite_wf (updEngine_wf ht) ht))

theorem execMrel_wf {h : Hdr} (hs : s.mem.wf = true) : NextWf (execMrel h s) := by
  unfold execMrel
  refine perPath_wf (fun _ _ _ ht => ?_) hs
  dsimp only
  split
  · exact LRes.trap_wf
  · split
    · exact LRes.ok_wf (freeEngine_wf ht)
    · exact LRes.wait_wf ht

theorem pairAcc_wf {c : Cursor} {l : Nat} {a : Opd} {size : Nat} {store : Bool} (hs : s.mem.wf = true) :
    (pairAcc s c l a size store).1.mem.wf = true := by
  rw [pairAcc]
  split
  · exact hs
  · split
    · rename_i e
      exact (wf_of_eq e (virtAcc_wf hs) :)
    · rename_i e
      have ht := wf_of_eq e (virtAcc_wf hs)
      split
      · exact ht
      · split
        · exact ht
        · split <;> exact ht

theorem execTidset_wf {h : Hdr} {tx : BitVec 10} {a : Opd} (hs : s.mem.wf = true) : NextWf (execTidset h tx a s) := by
  unfold execTidset
  refine perLane_wf (fun _ _ _ ht => ?_) hs
  split
  · exact LRes.trap_wf
  · rename_i e
    have ht₂ := wf_of_eq e (pairAcc_wf ht)
    dsimp only
    split
    · exact LRes.trap_wf
    · split
      · exact LRes.trap_wf
      · exact LRes.ok_wf (devWrite_wf _ _ (loadBytes_wf ht₂))

theorem execTidget_wf {h : Hdr} {tx : BitVec 10} {a : Opd} (hs : s.mem.wf = true) : NextWf (execTidget h tx a s) := by
  unfold execTidget
  refine perLane_wf (fun _ _ _ ht => ?_) hs
  dsimp only
  split
  · exact LRes.trap_wf
  · rename_i e
    have ht₂ := wf_of_eq e (pairAcc_wf (tidCheck_wf ht))
    exact LRes.ok_wf (storeBytes_wf ht₂)

theorem execScaleb_wf {h : Hdr} {tx : BitVec 10} {a : Opd} (hs : s.mem.wf = true) : NextWf (execScaleb h tx a s) := by
  unfold execScaleb
  refine perLane_wf (fun _ _ _ ht => ?_) hs
  dsimp only
  split
  · exact LRes.trap_wf
  · split
    · exact LRes.trap_wf
    · exact LRes.ok_wf (devWrite_wf _ _ (tidCheck_wf ht))

theorem issueTile_wf {la : BitVec 4} {dests ids : List Nat} {build : State → ECmd} {c : Cursor} {act : List Nat}
    {s : State}
    (hs : s.mem.wf = true) : (issueTile la dests ids build c act s).Wf := by
  unfold issueTile
  extract_lets gid e x0 x a s1 s2 s3 s4 s5
  have h1 : s1.mem.wf = true := hs
  have h2 : s2.mem.wf = true := ite_then_wf Agent.request_wf h1
  have h3 : s3.mem.wf = true := ite_then_wf drainSeen_wf h2
  have h5 : s5.mem.wf = true := ite_then_wf showHead_wf (updEngine_wf h3)
  split
  · exact LRes.trap_wf
  · split
    · exact LRes.trap_wf
    · split
      · exact LRes.trap_wf
      · split
        · exact LRes.trap_wf
        · split
          · exact LRes.trap_wf
          · split
            · exact LRes.wait_wf hs
            · exact LRes.ok_wf (foldl_wf _ (fun _ _ ht => updThr_wf ht) _ h5)

theorem execTmma_wf {h : Hdr} {o : TileOps} (hs : s.mem.wf = true) : NextWf (execTmma h o s) := by
  unfold execTmma
  refine perPath_wf (fun _ _ _ ht => ?_) hs
  dsimp only
  exact issueTile_wf (tidCheck_wf ht)

theorem execTcvt_wf {h : Hdr} {o : TileOps} (hs : s.mem.wf = true) : NextWf (execTcvt h o s) := by
  unfold execTcvt
  refine perPath_wf (fun _ _ _ ht => ?_) hs
  dsimp only
  exact issueTile_wf (tidCheck_wf ht)

theorem taskNeed_wf {c : Cursor} {n : Nat} (hs : s.mem.wf = true) : AskWf (taskNeed c s n) := by
  unfold taskNeed
  split
  · exact AskWf.some_wf hs
  · exact AskWf.none_wf

theorem ttaskLane_wf {d a : Opd} {c : Cursor} {l : Nat} (hs : s.mem.wf = true) : (ttaskLane d a c s l).Wf := by
  generalize e : ttaskLane d a = f
  delta ttaskLane at e
  refine LRes.wf_of_fun e ?_
  split
  · exact LRes.trap_wf
  · rename_i e
    have ht := wf_of_eq e (pairAcc_wf hs)
    split
    · exact LRes.trap_wf
    · dsimp only
      split
      · exact LRes.trap_wf
      · refine LRes.ok_wf (dst_wf (pushRcd_wf (setTasks_wf ?_)))
        dsimp only
        split
        · exact drainSeen_wf (loadBytes_wf ht)
        · exact loadBytes_wf ht

theorem execTwaitk_wf {h : Hdr} {d a : Opd} (hs : s.mem.wf = true) : NextWf (execTwaitk h d a s) := by
  unfold execTwaitk
  refine perPath_wf (fun _ _ _ ht => ?_) hs
  dsimp only
  split
  · exact LRes.trap_wf
  · split
    · split
      all_goals
        split
        · exact LRes.ok_wf (foldl_wf _ (fun _ _ hu => observe_wf (dst_wf hu)) _ ht)
        · exact LRes.wait_wf ht
    · split
      · exact LRes.wait_wf ht
      · exact LRes.ok_wf (foldl_wf _ (fun _ _ hu => observe_wf (dst_wf hu)) _ ht)

theorem grantTask_wf {s : State} {core idx : Nat} (hs : s.mem.wf = true) : (grantTask s core idx).mem.wf = true := by
  unfold grantTask
  extract_lets die s1 bs acc s2
  have h2 : s2.mem.wf = true := setAcc_wf (devCheck_wf hs)
  clear_value s2
  split
  · exact hs
  · split
    · exact updEngine_wf (setTasks_wf h2)
    · extract_lets mma s3 ent sc x0 x a s4 s5
      have h4 : s4.mem.wf = true := (tidCheck_wf hs :)
      have h5 : s5.mem.wf = true := ite_then_wf Agent.request_wf h4
      split
      · exact finishTask_wf h4
      · split
        · exact finishTask_wf h4
        · exact updEngine_wf (setTasks_wf h5)

/-! ### Copies and channels -/

theorem updCoal_wf {core : Nat} {f : List CCmd → List CCmd} (hs : s.mem.wf = true) :
    (updCoal s core f).mem.wf = true := by
  unfold updCoal
  exact hs

theorem updCtab_wf {die : Nat} {f : Tab CCmd → Tab CCmd} (hs : s.mem.wf = true) :
    (updCtab s die f).mem.wf = true := by
  unfold updCtab
  exact hs

theorem putWord_wf {gid o v : Nat} (hs : s.mem.wf = true) : (putWord s gid o v).mem.wf = true := by
  unfold putWord
  exact scrStore_wf hs

theorem localWrite_wf {x : CCmd} {vlt : Bool} {die : Nat} {cs : List Host.Cell} (hs : s.mem.wf = true) :
    (localWrite s x vlt die cs).mem.wf = true := by
  unfold localWrite
  split
  · exact homeWrite_wf _ _ (countVault_wf hs)
  · exact scrStore_wf hs

theorem awaitHost_wf {core id : Nat} {got : Tab Byte} (hs : s.mem.wf = true) :
    (awaitHost s core id got).mem.wf = true := by
  unfold awaitHost
  exact updCoal_wf hs

theorem runAcopy_wf {s : State} {core : Nat} {x : CCmd} (hs : s.mem.wf = true) :
    (runAcopy s core x).1.mem.wf = true := by
  unfold runAcopy
  extract_lets a here all s1 srcs dsts rds wrs r bad get s2 cs s3
  have h1 : s1.mem.wf = true := ite_wf (drainAll_wf hs) hs
  have hr : r.1.mem.wf = true := Agent.pages_wf h1
  have h2 : s2.mem.wf = true := ite_wf (Agent.touch_wf hr) hr
  have h3 : s3.mem.wf = true := ite_wf (Agent.write_wf h2) (localWrite_wf h2)
  split
  · exact hr
  · split
    · exact awaitHost_wf h2
    · exact updCoal_wf h3

theorem runLoad_wf {core : Nat} {x : CCmd} {c : Nat} (hs : s.mem.wf = true) :
    (runLoad s core x c).1.mem.wf = true := by
  unfold runLoad
  dsimp only
  split
  · dsimp only
    exact Agent.pages_wf hs
  · split
    · split
      · dsimp only
        exact awaitHost_wf (Agent.touch_wf (Agent.pages_wf hs))
      · dsimp only
        exact localWrite_wf (Agent.touch_wf (Agent.pages_wf hs))
    · split
      · dsimp only
        exact awaitHost_wf (Agent.pages_wf hs)
      · dsimp only
        exact localWrite_wf (Agent.pages_wf hs)

theorem runStore_wf {core : Nat} {x : CCmd} {c : Nat} (hs : s.mem.wf = true) :
    (runStore s core x c).1.mem.wf = true := by
  unfold runStore
  dsimp only
  split
  · dsimp only
    exact Agent.pages_wf hs
  · dsimp only
    exact Agent.write_wf (Agent.pages_wf hs)

theorem combineAt_wf {die : Nat} {x : CCmd} {ks : List Nat} {v : Nat} (hs : s.mem.wf = true) :
    (combineAt s die x ks v).mem.wf = true := by
  unfold combineAt
  dsimp only
  split
  · exact hs
  · exact homeOrShadow_wf hs

theorem runCombine_wf {core : Nat} {x : CCmd} {c : Nat} (hs : s.mem.wf = true) :
    (runCombine s core x c).1.mem.wf = true := by
  unfold runCombine
  dsimp only
  split
  · dsimp only
    exact Agent.pages_wf hs
  · dsimp only
    exact foldl_wf _ (fun _ _ ht => combineAt_wf ht) _ (Agent.touch_wf (Agent.pages_wf hs))

theorem runChunk_wf {core : Nat} {x : CCmd} (hs : s.mem.wf = true) : (runChunk s core x).1.mem.wf = true := by
  unfold runChunk
  split
  · exact runAcopy_wf hs
  · split
    · exact runStore_wf hs
    · exact runLoad_wf hs
  · exact runCombine_wf hs

theorem updCopy_wf {core id : Nat} {f : CCmd → CCmd} (hs : s.mem.wf = true) :
    (updCopy s core id f).mem.wf = true := by
  unfold updCopy
  dsimp only
  exact updCtab_wf (updCoal_wf hs)

theorem dropCmd_wf {core id : Nat} (hs : s.mem.wf = true) : (dropCmd s core id).mem.wf = true := by
  unfold dropCmd
  dsimp only
  split
  all_goals
    split
    · dsimp only
      exact updCtab_wf (updCoal_wf hs)
    · exact updCtab_wf (updCoal_wf hs)

theorem stepMay_wf {gid : Nat} (hs : s.mem.wf = true) : (stepMay s gid).mem.wf = true := by
  unfold stepMay
  split
  · exact superstepCheck_wf hs
  · exact hs

theorem failCopy_wf {core : Nat} {x : CCmd} {code : Nat} (hs : s.mem.wf = true) :
    (failCopy s core x code).mem.wf = true := by
  unfold failCopy
  dsimp only
  exact stepMay_wf (dropCmd_wf (releaseCmd_wf (ite_then_wf putWord_wf (ite_wf (markSoft_wf hs) hs))))

theorem copyFails_wf {core : Nat} {x : CCmd} {va code : Nat} (hs : s.mem.wf = true) :
    (copyFails s core x va code).mem.wf = true := by
  unfold copyFails
  split
  · dsimp only
    refine postFault_wf ?_
    split
    · exact updCopy_wf hs
    · dsimp only
      exact updCopy_wf hs
  · exact failCopy_wf hs

theorem countChunk_wf {core : Nat} {x : CCmd} {c : Nat} (hs : s.mem.wf = true) :
    (countChunk s core x c).mem.wf = true := by
  unfold countChunk
  dsimp only
  exact updCopy_wf (putWord_wf hs)

theorem setChunk_wf {core : Nat} {x : CCmd} {c : Nat} (hs : s.mem.wf = true) :
    (setChunk s core x c).mem.wf = true := by
  unfold setChunk
  dsimp only
  split
  · exact updCopy_wf (putWord_wf hs)
  · exact stepMay_wf (dropCmd_wf (cmdRelease_wf (releaseCmd_wf (putWord_wf hs))))

theorem execCopyChunkComplete_wf {core : Nat} (hs : s.mem.wf = true) : NextWf (execCopyChunkComplete core s) := by
  unfold execCopyChunkComplete
  split
  · exact done_wf hs
  · split
    · exact done_wf hs
    · split
      · dsimp only
        exact done_wf (updCopy_wf (free_wf (ite_wf (drainAll_wf hs) hs)))
      · split
        · exact done_wf (setChunk_wf hs)
        · exact done_wf (countChunk_wf hs)
        · split
          · dsimp only
            exact done_wf (pushRcd_wf hs)
          · split
            · rename_i e
              have ht := wf_of_eq e (runChunk_wf hs)
              exact done_wf (copyFails_wf ht)
            · rename_i e
              have ht := wf_of_eq e (runChunk_wf hs)
              split
              · exact done_wf ht
              · dsimp only
                exact done_wf (ite_else_wf countChunk_wf (updCopy_wf (free_wf ht)))

theorem grantCopy_wf {core idx : Nat} (hs : s.mem.wf = true) : (grantCopy s core idx).mem.wf = true := by
  unfold grantCopy
  dsimp only
  exact updCtab_wf hs

theorem coalNeed_wf {c : Cursor} {n : Nat} (hs : s.mem.wf = true) : AskWf (coalNeed c s n) := by
  unfold coalNeed
  split
  · exact AskWf.some_wf hs
  · exact AskWf.none_wf

theorem acopyLane_wf {o : AcopyOps} {c : Cursor} {l : Nat} (hs : s.mem.wf = true) : (acopyLane o c s l).Wf := by
  unfold acopyLane
  dsimp only
  split
  · exact LRes.trap_wf
  · split
    · exact LRes.trap_wf
    · split
      · exact LRes.trap_wf
      · split
        · exact LRes.trap_wf
        · split
          · exact LRes.trap_wf
          · split
            · refine LRes.ok_wf (updCoal_wf ?_)
              dsimp only
              exact ite_wf (drainSeen_wf hs) hs
            · exact LRes.ok_wf (updCoal_wf hs)

theorem issueCopy_wf {tx : BitVec 10} {d a b : Opd} {vlt : Bool} {fmtBad : Tensor → Bool} {build : CCmd → CCmd}
    {c : Cursor}
    {act : List Nat} {s : State} (hs : s.mem.wf = true) : (issueCopy tx d a b vlt fmtBad build c act s).Wf := by
  unfold issueCopy
  extract_lets s1 t r hdr loc org x chunks die ag tiles idx s2 s3 s4 s5
  have h1 : s1.mem.wf = true := tidCheck_wf hs
  clear_value s1
  have h3 : s3.mem.wf = true := ite_then_wf Agent.request_wf h1
  have h4 : s4.mem.wf = true := ite_then_wf drainSeen_wf h3
  split
  · exact LRes.trap_wf
  · split
    · exact LRes.trap_wf
    · split
      · exact LRes.trap_wf
      · split
        · exact LRes.trap_wf
        · split
          · exact LRes.trap_wf
          · split
            · exact LRes.wait_wf h1
            · exact LRes.ok_wf (pushRcd_wf (updCtab_wf h4))

theorem execCmtest_wf {h : Hdr} {o : CmOps} (hs : s.mem.wf = true) : NextWf (execCmtest h o s) := by
  unfold execCmtest
  refine perPath_wf (fun _ _ _ ht => ?_) hs
  split
  · exact LRes.trap_wf
  · split
    · exact LRes.trap_wf
    · dsimp only
      refine LRes.ok_wf (foldl_wf _ (fun _ _ hu => ?_) _ ht)
      split
      · exact observe_wf (dstP_wf hu)
      · exact dstP_wf hu

theorem execCmwait_wf {h : Hdr} {o : CmOps} (hs : s.mem.wf = true) : NextWf (execCmwait h o s) := by
  unfold execCmwait
  refine perPath_wf (fun _ _ _ ht => ?_) hs
  split
  · exact LRes.trap_wf
  · dsimp only
    split
    · exact LRes.trap_wf
    · split
      · exact LRes.ok_wf (foldl_wf _ (fun _ _ hu => observe_wf (dst_wf hu)) _ ht)
      · exact LRes.wait_wf ht

theorem sendMessage_wf {gid : Nat} {w : WKey} {ls : List Nat} {k off : Nat} (hs : s.mem.wf = true) :
    (sendMessage s gid w ls k off).1.mem.wf = true := by
  unfold sendMessage
  dsimp only
  split
  · exact hs
  · dsimp only
    exact updGroup_wf (scrStore_wf (pathRelease_wf hs))

theorem recvMessage_wf {gid core k off : Nat} (hs : s.mem.wf = true) :
    (recvMessage s gid core k off).1.mem.wf = true := by
  unfold recvMessage
  dsimp only
  split
  · exact hs
  · dsimp only
    exact updGroup_wf (scrStore_wf (pkgAcquire_wf hs))

theorem exchange_wf {send : Bool} {d a b : Opd} {c : Cursor} {act : List Nat} {s : State} (hs : s.mem.wf = true) :
    (exchange send d a b c act s).Wf := by
  unfold exchange
  dsimp only
  split
  · exact LRes.trap_wf
  · split
    · rename_i e
      refine LRes.wait_wf ?_
      split at e
      · obtain ⟨l, -, hl⟩ := List.exists_of_findSome?_eq_some e
        exact AskWf.of_some hl (relNeed_wf hs)
      · cases e
    · split
      · split
        · split
          · exact LRes.trap_wf
          · exact LRes.ok_wf (foldl_wf _ (fun _ _ ht => dst_wf ht) _ (sendMessage_wf hs))
        · exact LRes.wait_wf hs
      · split
        · split
          · exact LRes.trap_wf
          · exact LRes.ok_wf (foldl_wf _ (fun _ _ ht => dst_wf ht) _ (recvMessage_wf hs))
        · exact LRes.wait_wf hs

theorem execCpoll_wf {h : Hdr} {rcv : Bool} {d a : Opd} (hs : s.mem.wf = true) : NextWf (execCpoll h rcv d a s) := by
  unfold execCpoll
  refine perPath_wf (fun _ _ _ ht => ?_) hs
  dsimp only
  split
  · exact LRes.trap_wf
  · exact LRes.ok_wf (foldl_wf _ (fun _ _ hu => dstP_wf hu) _ ht)

theorem execChannelResume_wf {w : WKey} {lane : Nat} (hs : s.mem.wf = true) : NextWf
    (execChannelResume w lane s) := by
  unfold execChannelResume
  split
  · dsimp only
    split
    · split
      · exact done_wf (foldl_wf _ (fun _ _ ht => resumeLane_wf (wakeDst_wf ht)) _ (sendMessage_wf hs))
      · exact done_wf hs
    · split
      · exact done_wf (foldl_wf _ (fun _ _ ht => resumeLane_wf (wakeDst_wf ht)) _ (recvMessage_wf hs))
      · exact done_wf hs
  · exact done_wf hs

/-! ### Work scheduling -/

theorem acceptLaunch_wf {die ctx : Nat} {r : LRec} {byThread : Option Nat} (hs : s.mem.wf = true) :
    (acceptLaunch s die ctx r byThread).1.mem.wf = true := by
  unfold acceptLaunch
  dsimp only
  exact pushRcd_wf (updSched_wf hs)

theorem addLive_wf {lti : Nat} (hs : s.mem.wf = true) : (addLive s lti).mem.wf = true := by
  unfold addLive
  exact updLaunch_wf hs

theorem compStore_wf {die ctx va v : Nat} (hs : s.mem.wf = true) : (compStore s die ctx va v).1.mem.wf = true := by
  unfold compStore
  split
  · rename_i e
    have ht := wf_of_eq e (sysAccess_wf hs)
    dsimp only
    exact postFault_wf ht
  · rename_i e
    have ht := wf_of_eq e (sysAccess_wf hs)
    dsimp only
    exact homeWrite_wf _ _ (vcTick_wf (ite_then_wf hostFill_wf (probe_wf ht)))

theorem deviceJoin_wf {die ctx va : Nat} (hs : s.mem.wf = true) : (deviceJoin s die ctx va).mem.wf = true := by
  unfold deviceJoin
  dsimp only
  split
  · rename_i e
    exact updSched_wf (wf_of_eq e (sysAccess_wf hs))
  · rename_i e
    have ht := wf_of_eq e (sysAccess_wf hs)
    split
    · exact updSched_wf (recallFrom_wf (probe_wf ht))
    · exact ite_then_wf (fun h => updLaunch_wf (addLive_wf (pushRcd_wf h))) (homeWrite_wf _ _ (recallFrom_wf
        (probe_wf ht)))

theorem launchCheck_wf {lti : Nat} (hs : s.mem.wf = true) : (launchCheck s lti).mem.wf = true := by
  unfold launchCheck
  split
  · exact hs
  · split
    · dsimp only
      split
      · split
        · split
          · exact updSched_wf hs
          · exact foldl_wf _ (fun _ _ ht => drainAll_wf ht) _ (updSched_wf hs)
        · exact compStore_wf (ite_else_wf (fun h => foldl_wf _ (fun _ _ ht => drainAll_wf ht) _ h) (updSched_wf hs))
      · exact deviceJoin_wf (ite_else_wf compStore_wf (ite_else_wf (fun h => foldl_wf _
          (fun _ _ ht => drainAll_wf ht) _ h) (updSched_wf hs)))
    · exact hs

theorem groupGone_wf {lti i : Nat} (hs : s.mem.wf = true) : (groupGone s lti i).mem.wf = true := by
  unfold groupGone
  dsimp only
  refine launchCheck_wf ?_
  split
  · exact superstepCheck_wf (updLaunch_wf hs)
  · exact updLaunch_wf hs

theorem execGroupExit_wf {gid : Nat} (hs : s.mem.wf = true) : NextWf (execGroupExit gid s) := by
  unfold execGroupExit
  split
  · exact done_wf hs
  · split
    · exact done_wf hs
    · dsimp only
      split
      · split
        · exact done_wf (freeEngine_wf (updGroup_wf (closeHandles_wf hs)))
        · refine done_wf (groupGone_wf ?_)
          dsimp only
          exact updLaunch_wf (freeEngine_wf (updGroup_wf (closeHandles_wf hs)))
      · split
        · exact done_wf (updGroup_wf (closeHandles_wf hs))
        · refine done_wf (groupGone_wf ?_)
          dsimp only
          exact updLaunch_wf (updGroup_wf (closeHandles_wf hs))

theorem scarpAcc_wf {c : Cursor} {va size : Nat} {store : Bool} {mis : Nat} (hs : s.mem.wf = true) :
    (scarpAcc s c va size store mis).1.mem.wf = true := by
  unfold scarpAcc
  split
  · exact hs
  · split
    · rename_i e
      exact (wf_of_eq e (virtAcc_wf hs) :)
    · rename_i e
      have ht := wf_of_eq e (virtAcc_wf hs)
      split
      · exact ht
      · split
        · exact ht
        · split
          · exact ht
          · split <;> exact ht

theorem recAcc_wf {c : Cursor} {l : Nat} {a : Opd} {off : BitVec 24} {size : Nat} {store : Bool}
    (hs : s.mem.wf = true) :
    (recAcc s c l a off size store).1.mem.wf = true := by
  unfold recAcc
  exact scarpAcc_wf hs

theorem recNeed_wf {a : Opd} {off : BitVec 24} {c : Cursor} {l : Nat} (hs : s.mem.wf = true) :
    AskWf (recNeed a off c s l) := by
  unfold recNeed
  split
  · exact AskWf.none_wf
  · rename_i e
    have ht := wf_of_eq e (recAcc_wf hs)
    dsimp only
    split
    · exact AskWf.some_wf ht
    · exact AskWf.or_wf (ownNeed_wf ht) (relNeed_wf ht)

theorem takeRecord_wf {c : Cursor} {x : Acc} (hs : s.mem.wf = true) : (takeRecord s c x).1.mem.wf = true := by
  unfold takeRecord
  dsimp only
  exact atomPlace_wf hs

theorem putRecord_wf {c : Cursor} {l : Nat} {x : Acc} {r : Rcd} (hs : s.mem.wf = true) :
    (putRecord s c l x r).mem.wf = true := by
  unfold putRecord
  exact atomLeave_wf (atomWrite_wf hs)

theorem spawnLane_wf {d a : Opd} {off : BitVec 24} {c : Cursor} {l : Nat} (hs : s.mem.wf = true) :
    (spawnLane d a off c s l).Wf := by
  unfold spawnLane
  split
  · exact LRes.trap_wf
  · rename_i e
    have ht := wf_of_eq e (recAcc_wf hs)
    dsimp only
    split
    · exact LRes.trap_wf
    · split
      · exact LRes.trap_wf
      · split
        · split
          · exact LRes.trap_wf
          · exact LRes.ok_wf (dst_wf (addLive_wf (pushRcd_wf (putRecord_wf (pathRelease_wf (takeRecord_wf ht))))))
        · exact LRes.ok_wf (dst_wf (updLaunch_wf (putRecord_wf (pathRelease_wf (takeRecord_wf ht)))))

theorem joindecLane_wf {d a : Opd} {off : BitVec 24} {c : Cursor} {l : Nat} (hs : s.mem.wf = true) :
    (joindecLane d a off c s l).Wf := by
  unfold joindecLane
  split
  · exact LRes.trap_wf
  · rename_i e
    have ht := wf_of_eq e (recAcc_wf hs)
    dsimp only
    split
    · exact LRes.trap_wf
    · exact LRes.ok_wf (dst_wf (ite_then_wf (fun h => updLaunch_wf (addLive_wf (pushRcd_wf h))) (putRecord_wf
        (pathRelease_wf (takeRecord_wf ht)))))

theorem launchNeed_wf {a : Opd} {off : BitVec 24} {c : Cursor} {l : Nat} (hs : s.mem.wf = true) :
    AskWf (launchNeed a off c s l) := by
  unfold launchNeed
  split
  · exact AskWf.none_wf
  · rename_i e
    exact relNeed_wf (wf_of_eq e (recAcc_wf hs))

theorem launchLane_wf {d a : Opd} {off : BitVec 24} {c : Cursor} {l : Nat} (hs : s.mem.wf = true) :
    (launchLane d a off c s l).Wf := by
  unfold launchLane
  split
  · exact LRes.trap_wf
  · rename_i e
    have ht := wf_of_eq e (recAcc_wf hs)
    dsimp only
    split
    · exact LRes.trap_wf
    · split
      · exact LRes.trap_wf
      · exact LRes.ok_wf (dst_wf (acceptLaunch_wf (pathRelease_wf (loadBytes_wf ht))))

theorem joinSets_wf {die : Nat} (hs : s.mem.wf = true) : (joinSets s die).mem.wf = true := by
  unfold joinSets
  refine foldl_wf _ (fun _ _ ht => ?_) _ hs
  split
  · dsimp only
    exact updSched_wf ht
  · exact ht

theorem execExpanderEmit_wf {die : Nat} (hs : s.mem.wf = true) : NextWf (execExpanderEmit die s) := by
  unfold execExpanderEmit
  dsimp only
  split
  · exact done_wf (joinSets_wf hs)
  · exact done_wf (ite_then_wf superstepCheck_wf (pushRcd_wf (updSched_wf (joinSets_wf hs))))

theorem execRgrow_wf {h : Hdr} {d : Opd} {imm : W32} (hs : s.mem.wf = true) : NextWf (execRgrow h d imm s) := by
  unfold execRgrow
  refine perPath_wf (fun _ _ _ ht => ?_) hs
  dsimp only
  split
  · exact LRes.trap_wf
  · split
    · exact LRes.trap_wf
    · refine LRes.wait_wf ?_
      dsimp only
      exact once_wf ht

theorem execRshrink_wf {h : Hdr} {d : Opd} {imm : W32} (hs : s.mem.wf = true) : NextWf (execRshrink h d imm s) := by
  unfold execRshrink
  refine perPath_wf (fun _ _ _ ht => ?_) hs
  dsimp only
  split
  · exact LRes.trap_wf
  · split
    · exact LRes.trap_wf
    · exact LRes.ok_wf (foldl_wf _ (fun _ _ hu => dst_wf hu) _ (updWarp_wf ht))

theorem grantGrow_wf {q : GrowReq} (hs : s.mem.wf = true) : (grantGrow s q).mem.wf = true := by
  unfold grantGrow
  dsimp only
  exact foldl_wf _ (fun _ _ ht => resumeLane_wf (wakeDst_wf ht)) _ (updWarp_wf hs)

theorem grantGrows_wf {s : State} {core n : Nat} (hs : s.mem.wf = true) : (grantGrows s core n).mem.wf = true := by
  induction n generalizing s with
  | zero => exact hs
  | succ n ih =>
    unfold grantGrows
    split
    · exact hs
    · split
      · exact ih (grantGrow_wf hs)
      · exact hs

theorem placeWarp_wf {core gid : Nat} {x : Warp} (hs : s.mem.wf = true) : (placeWarp s core gid x).mem.wf = true := by
  unfold placeWarp
  split
  · exact hs
  · exact updGroup_wf (setWarp_wf hs)

theorem startGroup_wf {core ctx : Nat} {r : Rcd} {frames : List Nat} {age : Nat} (hs : s.mem.wf = true) :
    (startGroup s core ctx r frames age).mem.wf = true := by
  unfold startGroup
  dsimp only
  exact pkgAcquire_wf (foldl_wf _ (fun _ _ ht => placeWarp_wf ht) _ hs)

/-! ### Saved groups -/

theorem areaKeys_wf {die ctx va n : Nat} {store : Bool} (hs : s.mem.wf = true) :
    (areaKeys s die ctx va n store).1.mem.wf = true := by
  unfold areaKeys
  refine foldl_fst_wf _ (fun _ _ hs₂ => ?_) _ hs
  split
  · exact hs₂
  · dsimp only
    split
    all_goals
      rename_i e
      exact (wf_of_eq e (sysAccess_wf hs₂) :)

theorem areaWrite_wf {die ctx base : Nat} {segs : List (Nat × List Byte)} (hs : s.mem.wf = true) :
    (areaWrite s die ctx base segs).1.mem.wf = true := by
  unfold areaWrite
  dsimp only
  split
  · rename_i e
    dsimp only
    refine wf_of_eq e (foldl_fst_wf _ (fun _ _ hs₂ => ?_) _ hs)
    split
    · exact hs₂
    · split
      all_goals
        rename_i e₂
        exact (wf_of_eq e₂ (areaKeys_wf hs₂) :)
  · rename_i e
    dsimp only
    refine foldl_wf _ (fun _ _ hu => homeWrite_wf _ _ (foldl_wf _ (fun _ _ hv => probe_wf hv) _ hu)) _ (wf_of_eq e ?_)
    refine foldl_fst_wf _ (fun _ _ hs₂ => ?_) _ hs
    split
    · exact hs₂
    · split
      all_goals
        rename_i e₂
        exact (wf_of_eq e₂ (areaKeys_wf hs₂) :)

theorem areaRead_wf {die ctx va n : Nat} (hs : s.mem.wf = true) : (areaRead s die ctx va n).1.mem.wf = true := by
  unfold areaRead
  split
  all_goals
    rename_i e
    exact (wf_of_eq e (areaKeys_wf hs) :)

/-! ### Pennants -/

theorem answerSend_wf {e : Send} {st : Nat} (hs : s.mem.wf = true) : (answerSend s e st).mem.wf = true := by
  unfold answerSend
  dsimp only
  split
  · exact hs
  · exact emit_wf hs
  · split
    · exact hs
    · dsimp only
      exact homeWrite_wf _ _ (hostFill_wf (vcTick_wf hs))

theorem makeSend_wf {src : SendSrc} {die : Nat} {sender : W32} {d : BitVec 128} {n : Nat} {pay : W64} {wake : Bool}
    (hs : s.mem.wf = true) :
    (makeSend s src die sender d n pay wake).1.mem.wf = true := by
  unfold makeSend
  dsimp only
  split
  · exact hs
  · split
    · dsimp only
      exact answerSend_wf hs
    · dsimp only
      exact emit_wf hs

theorem countRefused_wf {ctx : Nat} (hs : s.mem.wf = true) : (countRefused s ctx).mem.wf = true := by
  unfold countRefused
  exact updCtx_wf hs

theorem sendSaved_wf {e : Send} {v : Saved} (hs : s.mem.wf = true) : (sendSaved s e v).1.mem.wf = true := by
  unfold sendSaved
  dsimp only
  split
  · rename_i e
    have ht := wf_of_eq e (areaKeys_wf hs)
    dsimp only
    exact postFault_wf ht
  · rename_i e
    have ht := wf_of_eq e (areaKeys_wf hs)
    split
    · split
      · rename_i e₂
        have ht₂ := wf_of_eq e₂ (areaWrite_wf ht)
        dsimp only
        exact postFault_wf ht₂
      · rename_i e₂
        have ht₂ := wf_of_eq e₂ (areaWrite_wf ht)
        dsimp only
        split
        · exact pushRcd_wf ht₂
        · exact ht₂
    · exact ht

theorem settle_wf {s t : State} {x : Send} {k : Nat} (e : settle s x = some (t, k))
    (hs : s.mem.wf = true) : t.mem.wf = true := by
  unfold settle at e
  split at e
  · cases e; exact hs
  · split at e
    · cases e; exact countRefused_wf hs
    · split at e
      · cases e; exact hs
      · cases e
      · cases e; exact updGroup_wf hs
      · exact wf_of_eq (Option.some.inj e) (sendSaved_wf hs)

theorem nextSend_wf {s t : State} {die k : Nat} {x : Send} (e : nextSend s die = some (x, t, k))
    (hs : s.mem.wf = true) :
    t.mem.wf = true := by
  unfold nextSend at e
  obtain ⟨y, -, hy⟩ := List.exists_of_findSome?_eq_some e
  obtain ⟨r, hr, hx⟩ := Option.map_eq_some_iff.1 hy
  cases hx
  exact settle_wf hr hs

theorem execPennantSendArrival_wf {die : Nat} (hs : s.mem.wf = true) : NextWf (execPennantSendArrival die s) := by
  unfold execPennantSendArrival
  split
  · exact done_wf hs
  · rename_i e
    exact done_wf (answerSend_wf (nextSend_wf e hs))

theorem execPennantFabricMessage_wf {port : Nat} {m : PennantMsg} (hs : s.mem.wf = true) :
    NextWf (execPennantFabricMessage port m s) := by
  unfold execPennantFabricMessage
  split
  · split
    · exact done_wf (answerSend_wf hs)
    · exact done_wf hs
  · dsimp only
    split <;> exact done_wf hs

theorem execPnsendSettle_wf {w : WKey} {lane : Nat} (hs : s.mem.wf = true) : NextWf (execPnsendSettle w lane s) := by
  unfold execPnsendSettle
  split
  · refine done_wf ?_
    dsimp only
    exact resumeLane_wf (wakeDst_wf hs)
  · exact done_wf hs

theorem pnsendLane_wf {n : BitVec 6} {wake : Bool} {d a b : Opd} {c : Cursor} {l : Nat} (hs : s.mem.wf = true) :
    (pnsendLane n wake d a b c s l).Wf := by
  generalize e : pnsendLane n wake d a b = f
  delta pnsendLane at e
  refine LRes.wf_of_fun e ?_
  split
  · exact LRes.trap_wf
  · rename_i e
    have ht := wf_of_eq e (scarpAcc_wf hs)
    dsimp only
    split
    · exact LRes.trap_wf
    · exact LRes.wait_wf (updGroup_wf (makeSend_wf (pathRelease_wf (loadBytes_wf ht))))

theorem stayBeside_wf {c : Cursor} {act : List Nat} (hs : s.mem.wf = true) : (stayBeside s c act).mem.wf = true := by
  unfold stayBeside
  dsimp only
  split
  · exact hs
  · exact foldl_wf _ (fun _ _ ht => updThr_wf ht) _ hs

theorem execPnsend_wf {h : Hdr} {n : BitVec 6} {wake : Bool} {d a b : Opd} {s : State} (hs : s.mem.wf = true) :
    NextWf (execPnsend h n wake d a b s) := by
  have hp : NextWf (perLaneW (.pnsend h n wake d a b) h s (fun c s l => relNeed s c.w l) (pnsendLane n wake d a b)) :=
    perLaneW_wf (fun _ _ _ ht => relNeed_wf ht) (fun _ _ _ ht => pnsendLane_wf ht) hs
  unfold execPnsend
  split
  · rename_i e _
    exact done_wf (stayBeside_wf (hp _ e))
  · exact hp

theorem setPn_wf {c : Cursor} {p : PnState} (hs : s.mem.wf = true) : (setPn s c p).mem.wf = true := by
  unfold setPn
  exact updGroup_wf hs

theorem pnAcquire_wf {c : Cursor} {got : Bool} (hs : s.mem.wf = true) : (pnAcquire s c got).mem.wf = true := by
  unfold pnAcquire
  split
  · exact pkgAcquire_wf hs
  · exact hs

theorem execPnmask_wf {h : Hdr} {d a : Opd} (hs : s.mem.wf = true) : NextWf (execPnmask h d a s) := by
  unfold execPnmask
  refine perPath_wf (fun _ _ _ ht => ?_) hs
  split
  · exact LRes.trap_wf
  · dsimp only
    exact LRes.ok_wf (foldl_wf _ (fun _ _ hu => dst_wf hu) _ (setPn_wf ht))

theorem execPnpend_wf {h : Hdr} {sel : Bool} {d : Opd} (hs : s.mem.wf = true) : NextWf (execPnpend h sel d s) := by
  unfold execPnpend
  refine perPath_wf (fun _ _ _ ht => ?_) hs
  split
  · exact LRes.trap_wf
  · dsimp only
    exact LRes.ok_wf (foldl_wf _ (fun _ _ hu => dst_wf hu) _ (pnAcquire_wf ht))

theorem execPnack_wf {h : Hdr} {d : Opd} {n : W32} (hs : s.mem.wf = true) : NextWf (execPnack h d n s) := by
  unfold execPnack
  refine perPath_wf (fun _ _ _ ht => ?_) hs
  split
  · exact LRes.trap_wf
  · dsimp only
    split
    · exact LRes.trap_wf
    · exact LRes.ok_wf (foldl_wf _ (fun _ _ hu => dstAt_wf (dstAt_wf (dstAt_wf hu))) _ (setPn_wf (pnAcquire_wf ht)))

theorem execPnwait_wf {h : Hdr} {d a : Opd} (hs : s.mem.wf = true) : NextWf (execPnwait h d a s) := by
  unfold execPnwait
  refine perPath_wf (fun _ _ _ ht => ?_) hs
  split
  · exact LRes.trap_wf
  · split
    · exact LRes.trap_wf
    · dsimp only
      split
      · exact LRes.ok_wf (foldl_wf _ (fun _ _ hu => dst_wf hu) _ ht)
      · split
        · exact LRes.ok_wf (foldl_wf _ (fun _ _ hu => dst_wf hu) _ (pnAcquire_wf ht))
        · exact LRes.wait_wf ht

theorem execPnret_wf {h : Hdr} (hs : s.mem.wf = true) : NextWf (execPnret h s) := by
  unfold execPnret
  dsimp only
  refine perLane_wf (fun _ _ _ ht => ?_) hs
  split
  · exact LRes.trap_wf
  · split
    · exact LRes.trap_wf
    · split
      · exact LRes.trap_wf
      · split
        · exact LRes.trap_wf
        · rename_i e
          have ht₂ := wf_of_eq e (pop_wf ht)
          exact LRes.ok_wf (updWarp_wf (setPc_wf ht₂))

theorem leaveFor_wf {w : WKey} {l : Nat} (hs : s.mem.wf = true) : (leaveFor s w l).mem.wf = true := by
  unfold leaveFor
  split
  · exact endSleep_wf hs
  · exact resumeLane_wf hs
  · exact updThr_wf hs
  · exact updThr_wf hs
  · exact hs

theorem divertLane_wf {w : WKey} {entry : W64} {acc : State × List Nat × List (W64 × TrapOf)} {l : Nat}
    (hs : acc.1.mem.wf = true) : (divertLane w entry acc l).1.mem.wf = true := by
  unfold divertLane
  dsimp only
  split
  · rename_i e
    exact updThr_wf (wf_of_eq e (push_wf (leaveFor_wf hs)))
  · exact leaveFor_wf hs

theorem divert_wf {gid : Nat} (hs : s.mem.wf = true) : (divert s gid).mem.wf = true := by
  unfold divert
  split
  · exact hs
  · split
    · exact hs
    · split
      · exact hs
      · dsimp only
        refine foldl_wf _ (fun _ _ ht => takeTraps_wf ht) _ ?_
        split
        · refine foldl_fst_wf _ (fun _ _ hs_1 => divertLane_wf hs_1) _ ?_
          dsimp only
          exact pkgAcquire_wf hs
        · refine updWarp_wf (foldl_fst_wf _ (fun _ _ hs_1 => divertLane_wf hs_1) _ ?_)
          dsimp only
          exact pkgAcquire_wf hs

/-! ### Collectives and links -/

theorem setColl_wf {die : Nat} {q : List HCmd} (hs : s.mem.wf = true) : (setColl s die q).mem.wf = true := by
  unfold setColl
  exact hs

theorem updColl_wf {die id : Nat} {f : HCmd → HCmd} (hs : s.mem.wf = true) : (updColl s die id f).mem.wf = true := by
  unfold updColl
  exact setColl_wf hs

theorem endColl_wf {die : Nat} {x : HCmd} {code : Nat} (hs : s.mem.wf = true) :
    (endColl s die x code).mem.wf = true := by
  unfold endColl
  dsimp only
  exact setColl_wf (cmdRelease_wf (ite_wf (markSoft_wf hs) hs))

theorem reroute_wf {die id : Nat} (hs : s.mem.wf = true) : (reroute s die id).mem.wf = true := by
  unfold reroute
  split
  · exact hs
  · dsimp only
    split
    · exact foldl_wf _ (fun _ _ ht => emit_wf ht) _ (updColl_wf hs)
    · exact endColl_wf hs

theorem sendChunk_wf {die id phase seg index : Nat} {data : List Byte} (hs : s.mem.wf = true) :
    (sendChunk s die id phase seg index data).mem.wf = true := by
  unfold sendChunk
  split
  · exact hs
  · dsimp only
    split
    · exact emit_wf (updColl_wf hs)
    · exact reroute_wf (updColl_wf hs)

theorem collFails_wf {die id va code : Nat} (hs : s.mem.wf = true) : (collFails s die id va code).mem.wf = true := by
  unfold collFails
  split
  · exact hs
  · split
    · dsimp only
      exact postFault_wf (updColl_wf hs)
    · exact endColl_wf hs

theorem collPages_wf {die : Nat} {x : HCmd} {rds wrs : List Nat} (hs : s.mem.wf = true) :
    (collPages s die x rds wrs).1.mem.wf = true := by
  unfold collPages
  dsimp only
  exact Agent.pages_wf hs

theorem ownStep_wf {die : Nat} {x : HCmd} (hs : s.mem.wf = true) : (ownStep s die x).mem.wf = true := by
  unfold ownStep
  dsimp only
  split
  · rename_i e
    exact collFails_wf (wf_of_eq e (collPages_wf hs))
  · rename_i e
    have ht := wf_of_eq e (collPages_wf hs)
    split
    · exact updColl_wf (ite_then_wf Agent.write_wf (Agent.read_wf ht))
    · exact sendChunk_wf (updColl_wf (ite_then_wf Agent.write_wf (Agent.read_wf ht)))

theorem takeChunk_wf {die : Nat} {x : HCmd} {m : ChunkMsg} (hs : s.mem.wf = true) :
    (takeChunk s die x m).mem.wf = true := by
  unfold takeChunk
  dsimp only
  split
  · rename_i e
    have ht := wf_of_eq e (collPages_wf hs)
    exact collFails_wf ht
  · rename_i e
    have ht := wf_of_eq e (collPages_wf hs)
    split
    · split
      · split
        · exact Agent.write_wf (emit_wf (updColl_wf (Agent.read_wf ht)))
        · exact sendChunk_wf (Agent.write_wf (emit_wf (updColl_wf (Agent.read_wf ht))))
      · exact sendChunk_wf (emit_wf (updColl_wf (Agent.read_wf ht)))
    · split
      · exact Agent.write_wf (emit_wf (updColl_wf (Agent.read_wf ht)))
      · exact sendChunk_wf (Agent.write_wf (emit_wf (updColl_wf (Agent.read_wf ht))))

theorem offerChunk_wf {die : Nat} {m : ChunkMsg} (hs : s.mem.wf = true) : (offerChunk s die m).mem.wf = true := by
  unfold offerChunk
  split
  · split
    · exact hs
    · exact ite_wf (endColl_wf hs) (ite_wf (emit_wf hs) (ite_wf (takeChunk_wf hs) hs))
  · split
    · split
      · exact emit_wf hs
      · exact hs
    · exact hs

theorem offerHeld_wf {die : Nat} (hs : s.mem.wf = true) : (offerHeld s die).mem.wf = true := by
  unfold offerHeld
  dsimp only
  exact foldl_wf _ (fun _ _ ht => offerChunk_wf ht) _ hs

theorem startColl_wf {die : Nat} {x : HCmd} (hs : s.mem.wf = true) : (startColl s die x).mem.wf = true := by
  unfold startColl
  dsimp only
  split
  · split
    · exact updColl_wf (drainAll_wf hs)
    · exact reroute_wf (updColl_wf (drainAll_wf hs))
  · split
    · exact updColl_wf hs
    · exact reroute_wf (updColl_wf hs)

theorem ownTurn_wf {die id : Nat} (hs : s.mem.wf = true) : (ownTurn s die id).mem.wf = true := by
  unfold ownTurn
  split
  · exact hs
  · split
    · exact ownStep_wf hs
    · exact hs

theorem collRun_wf {die : Nat} (hs : s.mem.wf = true) : (collRun s die).mem.wf = true := by
  unfold collRun
  dsimp only
  refine foldl_wf _ ?_ _ ?_
  · intro _ _ ht
    split
    · exact endColl_wf ht
    · exact ht
  · refine offerHeld_wf (foldl_wf _ (fun _ _ ht => ownTurn_wf (ite_wf ht (startColl_wf ht))) _ (foldl_wf _
      (fun _ _ ht => ?_) _ hs))
    split
    · exact endColl_wf ht
    · exact ht

theorem hlEnqueue_wf {w : WKey} {user : Bool} {pc : W64} {kind : Nat} {dsc : Dsc} {ent : HEnt} {hint : BitVec 2}
    (hs : s.mem.wf = true) :
    (hlEnqueue s w user pc kind dsc ent hint).mem.wf = true := by
  unfold hlEnqueue
  dsimp only
  exact collRun_wf (setColl_wf hs)

theorem hlIssue_wf {kind : Nat} {d a : Opd} {c : Cursor} {act : List Nat} (hs : s.mem.wf = true) :
    (hlIssue kind d a c act s).Wf := by
  generalize e : hlIssue kind d a = f
  delta hlIssue at e
  refine LRes.wf_of_fun e ?_
  split
  · exact LRes.trap_wf
  · rename_i e
    have ht := wf_of_eq e (pairAcc_wf hs)
    split
    · exact LRes.trap_wf
    · dsimp only
      split
      · exact LRes.trap_wf
      · split
        · exact LRes.trap_wf
        · split
          · exact LRes.trap_wf
          · split
            · split
              · exact LRes.wait_wf (drainSeen_wf (devCheck_wf (devCheck_wf (loadBytes_wf ht))))
              · exact LRes.ok_wf (foldl_wf _ (fun _ _ hu => dst_wf hu) _ (hlEnqueue_wf (drainSeen_wf (devCheck_wf
                  (devCheck_wf (loadBytes_wf ht))))))
            · split
              · exact LRes.wait_wf (devCheck_wf (devCheck_wf (loadBytes_wf ht)))
              · exact LRes.ok_wf (foldl_wf _ (fun _ _ hu => dst_wf hu) _ (hlEnqueue_wf (devCheck_wf (devCheck_wf
                  (loadBytes_wf ht)))))

theorem execHlwait_wf {h : Hdr} {d a : Opd} (hs : s.mem.wf = true) : NextWf (execHlwait h d a s) := by
  unfold execHlwait
  refine perPath_wf (fun _ _ _ ht => ?_) hs
  dsimp only
  split
  · exact LRes.trap_wf
  · split
    · exact LRes.wait_wf ht
    · exact LRes.ok_wf (foldl_wf _ (fun _ _ hu => observe_wf (dst_wf hu)) _ ht)

theorem execHlstat_wf {h : Hdr} {d a : Opd} (hs : s.mem.wf = true) : NextWf (execHlstat h d a s) := by
  unfold execHlstat
  refine perPath_wf (fun _ _ _ ht => ?_) hs
  dsimp only
  split
  · exact LRes.trap_wf
  · refine LRes.ok_wf (foldl_wf _ (fun _ _ hu => ?_) _ ht)
    split
    · exact observe_wf (dst_wf hu)
    · exact dst_wf hu

theorem execCollectiveChunkArrival_wf {m : ChunkMsg} (hs : s.mem.wf = true) :
    NextWf (execCollectiveChunkArrival m s) := by
  unfold execCollectiveChunkArrival
  dsimp only
  exact done_wf (collRun_wf (offerChunk_wf hs))

theorem execCollectiveChunkAck_wf {port collid ordinal seq : Nat} (hs : s.mem.wf = true) :
    NextWf (execCollectiveChunkAck port collid ordinal seq s) := by
  unfold execCollectiveChunkAck
  dsimp only
  split
  · exact done_wf (collRun_wf (updColl_wf hs))
  · exact done_wf hs

theorem updPort_wf {p : Nat} {f : HPort → HPort} (hs : s.mem.wf = true) : (updPort s p f).mem.wf = true := by
  unfold updPort
  exact hs

theorem linkLost_wf {port lanes : Nat} (hs : s.mem.wf = true) : (linkLost s port lanes).mem.wf = true := by
  unfold linkLost
  dsimp only
  exact foldl_wf _ (fun _ _ ht => reroute_wf ht) _ (updPort_wf hs)

theorem execLinkUp_wf {port versions lanes : Nat} (hs : s.mem.wf = true) :
    NextWf (execLinkUp port versions lanes s) := by
  unfold execLinkUp
  split
  · exact done_wf (ite_wf (linkLost_wf hs) (updPort_wf hs))
  · dsimp only
    split
    · split <;> exact done_wf (updPort_wf (emit_wf hs))
    · split <;> split <;> exact done_wf (updPort_wf (emit_wf hs))

theorem execLinkDown_wf {port : Nat} (hs : s.mem.wf = true) : NextWf (execLinkDown port s) := by
  unfold execLinkDown
  dsimp only
  exact done_wf (linkLost_wf (free_wf hs))

theorem execFlitRetry_wf {flit : FlitTry} (hs : s.mem.wf = true) : NextWf (execFlitRetry flit s) := by
  unfold execFlitRetry
  dsimp only
  split
  all_goals
    split
    · exact execLinkDown_wf hs
    · exact done_wf (updPort_wf hs)

theorem execTimeAlignExchange_wf (hs : s.mem.wf = true) : NextWf (execTimeAlignExchange s) := by
  unfold execTimeAlignExchange
  dsimp only
  split
  · exact done_wf hs
  · split
    · exact done_wf hs
    · exact done_wf (emit_wf hs)

theorem execTimeAlignRequest_wf {port : Nat} {t1 : W64} (hs : s.mem.wf = true) :
    NextWf (execTimeAlignRequest port t1 s) := by
  unfold execTimeAlignRequest
  split
  · exact done_wf (emit_wf hs)
  · exact done_wf hs

theorem execTimeAlignReply_wf {t1 t2 t3 : W64} (hs : s.mem.wf = true) : NextWf (execTimeAlignReply t1 t2 t3 s) := by
  unfold execTimeAlignReply
  dsimp only
  exact done_wf hs

/-! ### Pre-emption and restores -/

theorem startSave_wf {gid reason : Nat} (hs : s.mem.wf = true) : (startSave s gid reason).mem.wf = true := by
  unfold startSave
  split
  · exact hs
  · dsimp only
    split
    all_goals
      split
      · exact updEngine_wf (updGroup_wf hs)
      · exact updGroup_wf hs

theorem vacate_wf {gid : Nat} {g : Group} (hs : s.mem.wf = true) : (vacate s gid g).mem.wf = true := by
  unfold vacate
  dsimp only
  exact disown_wf hs

theorem flushGroup_wf {gid : Nat} {g : Group} (hs : s.mem.wf = true) : (flushGroup s gid g).mem.wf = true := by
  unfold flushGroup
  dsimp only
  exact pushRcd_wf (vacate_wf hs)

theorem preemptGroup_wf {gid : Nat} (hs : s.mem.wf = true) : (preemptGroup s gid).mem.wf = true := by
  unfold preemptGroup
  split
  · exact hs
  · split
    · exact hs
    · split
      · exact updGroup_wf hs
      · split
        · exact flushGroup_wf hs
        · exact startSave_wf hs

theorem preemptAll_wf {test : Group → Bool} (hs : s.mem.wf = true) : (preemptAll s test).mem.wf = true := by
  unfold preemptAll
  dsimp only
  exact foldl_wf _ (fun _ _ ht => preemptGroup_wf ht) _ hs

theorem preemptDone_wf (hs : s.mem.wf = true) : (preemptDone s).mem.wf = true := by
  unfold preemptDone
  dsimp only
  split <;> exact hs

theorem holdRecords_wf {ctx : Nat} (hs : s.mem.wf = true) : (holdRecords s ctx).mem.wf = true := by
  unfold holdRecords
  dsimp only
  exact heldPump_wf (updCtx_wf (foldl_wf _ (fun _ _ ht => ovSettle_wf ht) _ hs))

theorem execPreemptSuspend_wf {ctx : Nat} (hs : s.mem.wf = true) : NextWf (execPreemptSuspend ctx s) := by
  unfold execPreemptSuspend
  dsimp only
  refine done_wf (preemptDone_wf (preemptAll_wf (holdRecords_wf ?_)))
  dsimp only
  exact updCtx_wf hs

theorem heldRecords_wf {ctx : Nat} (hs : s.mem.wf = true) : (heldRecords s ctx).1.mem.wf = true := by
  unfold heldRecords
  dsimp only
  refine foldl_fst_wf _ (fun _ _ hs₂ => ?_) _ hs
  split
  · exact hs₂
  · split
    · rename_i e
      exact (wf_of_eq e (sysAccess_wf hs₂) :)
    · rename_i e
      have ht := wf_of_eq e (sysAccess_wf hs₂)
      dsimp only
      exact foldl_wf _ (fun _ _ hu => drainCore_wf hu) _ ht

theorem execCtxresume_wf {ctx : Nat} (hs : s.mem.wf = true) : NextWf (execCtxresume ctx s) := by
  unfold execCtxresume
  split
  · exact done_wf hs
  · split
    · rename_i e
      exact done_wf (wf_of_eq e (heldRecords_wf hs))
    · rename_i e
      have ht := wf_of_eq e (heldRecords_wf hs)
      dsimp only
      exact done_wf (foldl_wf _ (fun _ _ hu => pushRcd_wf hu) _ (updCtx_wf ht))

theorem askAgain_wf {gid core : Nat} (hs : s.mem.wf = true) : (askAgain s gid core).mem.wf = true := by
  unfold askAgain
  exact ite_wf (foldl_wf _ (fun _ _ ht => Agent.request_wf ht) _ hs) hs

theorem settleSave_wf {gid : Nat} {g : Group} (hs : s.mem.wf = true) : (settleSave s gid g).mem.wf = true := by
  unfold settleSave
  dsimp only
  refine pkgRelease_wf ?_
  dsimp only
  refine updGroup_wf ?_
  dsimp only
  exact drainCore_wf hs

theorem abandonSave_wf {gid : Nat} {g : Group} {code va : Nat} (hs : s.mem.wf = true) :
    (abandonSave s gid g code va).mem.wf = true := by
  unfold abandonSave
  dsimp only
  refine foldl_wf _ (fun _ _ ht => ?_) _ (updCoal_wf (askAgain_wf (ite_then_wf (fun h => showHead_wf (updEngine_wf
    (updHead_wf h))) (updGroup_wf (updGroupThreads_wf (postFault_wf hs))))))
  refine foldl_wf _ (fun _ _ hu => ?_) _ ht
  split
  · exact pushRcd_wf (updCtab_wf hu)
  · exact hu

theorem completeSave_wf {gid : Nat} (hs : s.mem.wf = true) : (completeSave s gid).mem.wf = true := by
  unfold completeSave
  split
  · exact hs
  · extract_lets reason die was put s1 g live coal r area parts s2 w
    have h1 : s1.mem.wf = true := settleSave_wf (foldl_wf _ (fun _ _ ht => updThr_wf ht) _ hs)
    clear_value s1
    have hw : w.1.mem.wf = true := by
      refine foldl_fst_wf _ (fun p _ ht => ?_) _ h1
      split
      · exact ht
      · exact areaWrite_wf ht
    clear_value w
    obtain ⟨t, o⟩ := w
    replace hw : t.mem.wf = true := hw
    cases o with
    | some e => exact abandonSave_wf hw
    | none =>
      dsimp only
      refine pushRcd_wf (vacate_wf (ite_then_wf freeEngine_wf ?_))
      dsimp only
      exact updCoal_wf hw

theorem execSaveComplete_wf {gid : Nat} (hs : s.mem.wf = true) : NextWf (execSaveComplete gid s) := by
  unfold execSaveComplete
  split
  · exact done_wf (completeSave_wf hs)
  · exact done_wf hs

theorem execDrainWindowExpiry_wf {gid : Nat} (hs : s.mem.wf = true) : NextWf (execDrainWindowExpiry gid s) := by
  unfold execDrainWindowExpiry
  split
  · exact done_wf (ite_wf (startSave_wf hs) hs)
  · exact done_wf hs

theorem execRgrowDeadlock_wf {core : Nat} (hs : s.mem.wf = true) : NextWf (execRgrowDeadlock core s) := by
  unfold execRgrowDeadlock
  split
  · exact done_wf hs
  · split
    · dsimp only
      exact done_wf (takeTraps_wf hs)
    · dsimp only
      exact done_wf (startSave_wf hs)
    · exact done_wf hs

theorem dispose_wf {die seq : Nat} (hs : s.mem.wf = true) : (dispose s die seq).mem.wf = true := by
  unfold dispose
  exact updFq_wf hs

theorem refuseDone_wf {die : Nat} (hs : s.mem.wf = true) : (refuseDone s die).mem.wf = true := by
  unfold refuseDone
  exact updFq_wf hs

theorem resumeEngine_wf {core : Nat} (hs : s.mem.wf = true) : (resumeEngine s core).mem.wf = true := by
  unfold resumeEngine
  exact showHead_wf (updEngine_wf (updHead_wf hs))

theorem endCopies_wf {gid : Nat} (hs : s.mem.wf = true) : (endCopies s gid).mem.wf = true := by
  unfold endCopies
  dsimp only
  exact foldl_wf _ (fun _ _ ht => releaseCmd_wf ht) _ hs

theorem execFltdoneRetry_wf {die seq : Nat} (hs : s.mem.wf = true) : NextWf (execFltdoneRetry die seq s) := by
  unfold execFltdoneRetry
  split
  · exact done_wf (refuseDone_wf hs)
  · dsimp only
    split
    · split
      · exact done_wf (resumeEngine_wf (dispose_wf hs))
      · exact done_wf (ite_then_wf (fun h => foldl_wf _ (fun _ _ ht => updThr_wf ht) _ h) (dispose_wf hs))
    · exact done_wf (pushRcd_wf (setTasks_wf (dispose_wf hs)))
    · split
      · exact done_wf (pushRcd_wf (updCtab_wf (dispose_wf hs)))
      · exact done_wf (updCoal_wf (dispose_wf hs))
    · exact done_wf (collRun_wf (updColl_wf (dispose_wf hs)))

theorem execFltdoneSkip_wf {die seq : Nat} (hs : s.mem.wf = true) : NextWf (execFltdoneSkip die seq s) := by
  unfold execFltdoneSkip
  split
  · exact done_wf (refuseDone_wf hs)
  · split
    · exact done_wf (refuseDone_wf hs)
    · dsimp only
      exact done_wf (ite_then_wf (fun h => foldl_wf _ (fun _ _ ht => updThr_wf ht) _ h) (dispose_wf hs))

theorem execFltdoneDeliver_wf {die seq : Nat} (hs : s.mem.wf = true) : NextWf (execFltdoneDeliver die seq s) := by
  unfold execFltdoneDeliver
  split
  · exact done_wf (refuseDone_wf hs)
  · split
    · dsimp only
      split
      · exact done_wf (refuseDone_wf hs)
      · exact done_wf (noteTraps_wf (foldl_wf _ (fun _ _ ht => updThr_wf ht) _ (ite_then_wf discardAll_wf
          (dispose_wf hs))))
    · exact done_wf (finishTask_wf (dispose_wf hs))
    · dsimp only
      split
      · exact done_wf (failCopy_wf (dispose_wf hs))
      · exact done_wf (dispose_wf hs)
    · dsimp only
      split
      · exact done_wf (collRun_wf (endColl_wf (dispose_wf hs)))
      · exact done_wf (dispose_wf hs)

theorem killGroup_wf {gid : Nat} {g : Group} (hs : s.mem.wf = true) : (killGroup s gid g).mem.wf = true := by
  unfold killGroup
  dsimp only
  refine foldl_wf _ (fun _ _ ht => afterExit_wf ht) _ (endCopies_wf ?_)
  dsimp only
  exact updGroupThreads_wf (ite_wf (freeEngine_wf (discardAll_wf hs)) hs)

theorem execFltdoneKill_wf {die seq : Nat} (hs : s.mem.wf = true) : NextWf (execFltdoneKill die seq s) := by
  unfold execFltdoneKill
  split
  · exact done_wf (refuseDone_wf hs)
  · split
    · exact done_wf (refuseDone_wf hs)
    · split
      · exact done_wf (killGroup_wf (dispose_wf hs))
      · exact done_wf (dispose_wf hs)

theorem readSegs_wf {s : State} {die ctx base : Nat} {rs : List (Nat × Nat)} (hs : s.mem.wf = true) :
    (readSegs s die ctx base rs).1.mem.wf = true := by
  induction rs generalizing s with
  | nil => exact hs
  | cons r rs ih =>
    unfold readSegs
    split
    · rename_i e
      exact wf_of_eq e (areaRead_wf hs)
    · rename_i e
      have ht := wf_of_eq e (areaRead_wf hs)
      split
      all_goals
        rename_i e'
        exact wf_of_eq e' (ih ht)

theorem readWarp_wf {die ctx base : Nat} (hs : s.mem.wf = true) : (readWarp s die ctx base).1.mem.wf = true := by
  unfold readWarp
  split
  · rename_i e
    have ht := wf_of_eq e (readSegs_wf hs)
    split
    all_goals
      rename_i e₂
      exact (wf_of_eq e₂ (areaRead_wf ht) :)
  · rename_i e
    exact (wf_of_eq e (readSegs_wf hs) :)

theorem readArea_wf {die : Nat} {v : Saved} (hs : s.mem.wf = true) : (readArea s die v).1.mem.wf = true := by
  unfold readArea
  dsimp only
  split
  · rename_i e
    have ht := wf_of_eq e (readSegs_wf hs)
    split
    · rename_i e₂
      exact (wf_of_eq e₂ (areaRead_wf ht) :)
    · rename_i e₂
      have ht₂ := wf_of_eq e₂ (areaRead_wf ht)
      split
      · rename_i e₃
        exact (wf_of_eq e₃ (readSegs_wf ht₂) :)
      · rename_i e₃
        have ht₃ := wf_of_eq e₃ (readSegs_wf ht₂)
        split
        all_goals
          rename_i e₄
          dsimp only
          refine wf_of_eq e₄ (foldl_fst_wf _ (fun _ _ hs₂ => ?_) _ ht₃)
          split
          · exact hs₂
          · split
            all_goals
              rename_i e₅
              exact (wf_of_eq e₅ (readWarp_wf hs₂) :)
  · rename_i e
    exact (wf_of_eq e (readSegs_wf hs) :)

theorem dropSaved_wf {die : Nat} {v : Saved} (hs : s.mem.wf = true) : (dropSaved s die v).mem.wf = true := by
  unfold dropSaved
  dsimp only
  refine groupGone_wf (foldl_wf _ (fun _ _ ht => releaseCmd_wf ht) _ ?_)
  dsimp only
  refine closeHandles_wf ?_
  dsimp only
  refine foldl_wf _ (fun _ _ ht => frameBit_wf ht) _ ?_
  dsimp only
  exact postFault_wf hs

theorem restoreEngine_wf {core : Nat} {b : AreaBytes} {m : List (WKey × WKey)} {e : Engine} (hs : s.mem.wf = true) :
    (restoreEngine s core b m e).mem.wf = true := by
  unfold restoreEngine
  dsimp only
  exact updEngine_wf hs

theorem restoreGroup_wf {core : Nat} {v : Saved} {b : AreaBytes} (hs : s.mem.wf = true) :
    (restoreGroup s core v b).mem.wf = true := by
  unfold restoreGroup
  dsimp only
  refine divert_wf (pkgAcquire_wf (foldl_wf _ (fun _ _ ht => pushRcd_wf (updCtab_wf ht)) _ ?_))
  split
  · refine askAgain_wf (restoreEngine_wf (updCoal_wf ?_))
    dsimp only
    refine foldl_fst_wf _ (fun _ _ hs₂ => ?_) _ hs
    split
    · exact hs₂
    · dsimp only
      exact placeWarp_wf hs₂
  · refine updCoal_wf ?_
    dsimp only
    refine foldl_fst_wf _ (fun _ _ hs₂ => ?_) _ hs
    split
    · exact hs₂
    · dsimp only
      exact placeWarp_wf hs₂

theorem grantRestore_wf {die : Nat} {v : Saved} (hs : s.mem.wf = true) : (grantRestore s die v).1.mem.wf = true := by
  unfold grantRestore
  split
  · rename_i e
    exact (wf_of_eq e (readArea_wf hs) :)
  · rename_i e
    have ht := wf_of_eq e (readArea_wf hs)
    split
    · dsimp only
      exact dropSaved_wf ht
    · split
      · exact ht
      · dsimp only
        exact restoreGroup_wf ht

theorem grantGroup_wf {die ctx : Nat} {r : Rcd} (hs : s.mem.wf = true) :
    (grantGroup s die ctx r).1.mem.wf = true := by
  unfold grantGroup
  split
  · exact hs
  · split
    · exact hs
    · dsimp only
      split
      · exact hs
      · split
        · split
          · rename_i e
            exact (wf_of_eq e (ite_fst_wf hs (takeFrames_wf hs)) :)
          · rename_i e
            have ht := wf_of_eq e (ite_fst_wf hs (takeFrames_wf hs))
            dsimp only
            exact startGroup_wf ht
        · split
          · rename_i e
            exact (wf_of_eq e (takeFrames_wf hs) :)
          · rename_i e
            have ht := wf_of_eq e (takeFrames_wf hs)
            dsimp only
            exact startGroup_wf ht

theorem grantHost_wf {die : Nat} {r : Rcd} (hs : s.mem.wf = true) : (grantHost s die r).1.mem.wf = true := by
  unfold grantHost
  split
  · exact hs
  · dsimp only
    exact joinSets_wf (updLaunch_wf hs)

theorem grantTile_wf {die : Nat} {r : Rcd} (hs : s.mem.wf = true) : (grantTile s die r).1.mem.wf = true := by
  unfold grantTile
  dsimp only
  split
  · split
    · exact hs
    · split
      · exact hs
      · split
        · exact hs
        · dsimp only
          exact grantCopy_wf hs
  · split
    · exact hs
    · split
      · exact hs
      · split
        · exact hs
        · dsimp only
          exact grantTask_wf hs

theorem grantRecord_wf {die : Nat} {q : Queued} (hs : s.mem.wf = true) : (grantRecord s die q).1.mem.wf = true := by
  unfold grantRecord
  dsimp only
  split
  · split
    · split
      · exact grantRestore_wf hs
      · dsimp only
        exact launchCheck_wf (updLaunch_wf hs)
    · exact grantGroup_wf hs
  · exact grantTile_wf hs
  · split
    · exact hs
    · split
      · exact hs
      · exact grantRestore_wf hs
  · exact grantHost_wf hs

theorem popRcd_wf {die lv : Nat} {q : Queued} (hs : s.mem.wf = true) : (popRcd s die lv q).mem.wf = true := by
  unfold popRcd
  exact updSched_wf hs

theorem grantFirst_wf {s : State} {die : Nat} {qs : List (Nat × Queued)} (hs : s.mem.wf = true) :
    (grantFirst s die qs).mem.wf = true := by
  induction qs generalizing s with
  | nil => exact hs
  | cons q qs ih =>
    unfold grantFirst
    split
    · rename_i e
      exact ovSettle_wf (wf_of_eq e (grantRecord_wf (popRcd_wf hs)))
    · rename_i e
      have ht := wf_of_eq e (grantRecord_wf (popRcd_wf hs))
      exact ih ht

/-! ### Register writes -/

theorem updGate_wf {n : Nat} {f : Gate → Gate} (hs : s.mem.wf = true) : (updGate s n f).mem.wf = true := by
  unfold updGate
  exact hs

theorem updHq_wf {n : Nat} {f : HostQueue → HostQueue} (hs : s.mem.wf = true) : (updHq s n f).mem.wf = true := by
  unfold updHq
  exact hs

theorem writeLong_wf {by_ : Option Nat} {off v : Nat} (hs : s.mem.wf = true) :
    (writeLong s by_ off v).mem.wf = true := by
  unfold writeLong
  split
  · dsimp only
    exact hs
  · exact hs
  · exact due_wf hs
  · exact hs
  · exact hs
  · exact hs
  · exact hs
  · exact hs
  · exact hs
  · exact hs
  · split
    · exact updCtx_wf hs
    · exact updGate_wf hs
    · exact updHq_wf hs
    · exact updHq_wf hs
    · exact updSched_wf hs
    · exact hs
    · exact hs
    · exact hs
    · exact updFq_wf hs
    · split
      · exact due_wf hs
      · exact refuseDone_wf hs
    · exact updTrace_wf hs
    · exact updTrace_wf hs
    · exact updTrace_wf hs
    · exact hs

theorem writeTrcctl_wf {d v : Nat} {by_ : Option Nat} (hs : s.mem.wf = true) :
    (writeTrcctl s d v by_).mem.wf = true := by
  unfold writeTrcctl
  exact updTrace_wf hs

theorem writeDie_wf {by_ : Option Nat} {d o v : Nat} (hs : s.mem.wf = true) :
    (writeDie s by_ d o v).mem.wf = true := by
  unfold writeDie
  split
  · exact updSched_wf hs
  · exact updSched_wf hs
  · exact hs
  · exact hs
  · exact updFq_wf hs
  · exact updFq_wf hs
  · exact writeTrcctl_wf hs
  · exact updTrace_wf hs
  · exact updTrace_wf hs
  · exact hs

theorem writePreempt_wf {v : Nat} (hs : s.mem.wf = true) : (writePreempt s v).mem.wf = true := by
  rw [writePreempt]
  split
  · exact hs
  · dsimp only
    exact hs

theorem writePwrctl_wf {v : Nat} (hs : s.mem.wf = true) : (writePwrctl s v).mem.wf = true := by
  unfold writePwrctl
  dsimp only
  split
  · exact due_wf hs
  · exact hs

theorem writeTidek_wf {v : Nat} (hs : s.mem.wf = true) : (writeTidek s v).mem.wf = true := by
  unfold writeTidek
  dsimp only
  split <;> exact hs

theorem writeHltctl_wf {v : Nat} (hs : s.mem.wf = true) : (writeHltctl s v).mem.wf = true := by
  unfold writeHltctl
  dsimp only
  exact hs

theorem writeDbghalt_wf {by_ : Option Nat} {v : Nat} (hs : s.mem.wf = true) :
    (writeDbghalt s by_ v).mem.wf = true := by
  unfold writeDbghalt
  dsimp only
  exact due_wf hs

theorem writeHqctl_wf {n v : Nat} (hs : s.mem.wf = true) : (writeHqctl s n v).mem.wf = true := by
  unfold writeHqctl
  dsimp only
  split
  · exact due_wf (updHq_wf hs)
  · exact updHq_wf hs

theorem writeGatectl_wf {n v : Nat} (hs : s.mem.wf = true) : (writeGatectl s n v).mem.wf = true := by
  unfold writeGatectl
  exact updGate_wf hs

theorem writeMsix_wf {off v : Nat} (hs : s.mem.wf = true) : (writeMsix s off v).mem.wf = true := by
  unfold writeMsix
  split
  · dsimp only
    split
    · exact due_wf hs
    · exact hs
  · exact hs

theorem writeWord_wf {by_ : Option Nat} {off v : Nat} (hs : s.mem.wf = true) :
    (writeWord s by_ off v).mem.wf = true := by
  unfold writeWord
  split
  · exact writePwrctl_wf hs
  · split
    · exact due_wf hs
    · exact hs
  · exact hs
  · exact hs
  · exact writeTidek_wf hs
  · exact hs
  · exact writeDbghalt_wf hs
  · split
    · exact due_wf hs
    · exact due_wf hs
    · exact hs
  · exact hs
  · exact hs
  · exact writePreempt_wf hs
  · exact hs
  · exact due_wf hs
  · exact hs
  · exact hs
  · exact writeHltctl_wf hs
  · split
    · exact updPort_wf hs
    · split
      · exact writeMsix_wf hs
      · split
        · exact writeGatectl_wf hs
        · split
          · exact updGate_wf hs
          · exact hs
        · exact updGate_wf hs
        · exact updGate_wf hs
        · exact writeHqctl_wf hs
        · exact updHq_wf hs
        · exact writeDie_wf hs
        · exact hs

theorem writeBar_wf {by_ : Option Nat} {off len v : Nat} (hs : s.mem.wf = true) :
    (writeBar s by_ off len v).mem.wf = true := by
  unfold writeBar
  split
  · split
    · exact writeLong_wf hs
    · exact writeWord_wf (writeWord_wf hs)
  · exact writeWord_wf hs

theorem reply_wf {r : HostReply} (hs : s.mem.wf = true) : (reply s r).mem.wf = true := by
  unfold reply
  split <;> exact hs

/-! ### System instructions -/

theorem writeThr_wf {w : WKey} {t n v : Nat} (hs : s.mem.wf = true) : SomeWf (writeThr s w t n v) := by
  unfold writeThr
  split
  · exact SomeWf.some_wf (updThr_wf hs)
  · split
    · split
      · dsimp only
        refine SomeWf.some_wf ?_
        dsimp only
        exact updThr_wf hs
      · exact SomeWf.none_wf
    · exact SomeWf.some_wf (updWarp_wf hs)
    · exact SomeWf.some_wf (updThr_wf hs)
    · dsimp only
      split
      · exact SomeWf.none_wf
      · exact SomeWf.some_wf (updWarp_wf hs)
    · exact SomeWf.none_wf

theorem srdLane_wf {o : SysOps} {c : Cursor} {l : Nat} (hs : s.mem.wf = true) : (srdLane o c s l).Wf := by
  unfold srdLane
  dsimp only
  split
  · split
    · exact LRes.trap_wf
    · split
      · split
        · exact LRes.ok_wf (dst_wf (settlePosted_wf hs))
        · exact LRes.trap_wf
      · exact LRes.trap_wf
  · split
    · exact LRes.ok_wf (dst_wf (settlePosted_wf hs))
    · split
      · exact LRes.trap_wf
      · split
        · exact LRes.ok_wf (dst_wf (settlePosted_wf hs))
        · exact LRes.trap_wf
  · split
    · exact LRes.trap_wf
    · split
      · exact LRes.trap_wf
      · split
        · exact LRes.ok_wf (dst_wf (settlePosted_wf hs))
        · exact LRes.trap_wf

theorem swrLane_wf {o : SysOps} {c : Cursor} {l : Nat} (hs : s.mem.wf = true) : (swrLane o c s l).Wf := by
  unfold swrLane
  dsimp only
  split
  · split
    · exact LRes.trap_wf
    · split
      · exact LRes.ok_wf (updCtx_wf (settlePosted_wf hs))
      · exact LRes.trap_wf
  · split
    · exact LRes.ok_wf (writeBar_wf (settlePosted_wf hs))
    · split
      · exact LRes.trap_wf
      · split
        · exact LRes.ok_wf (writeBar_wf (settlePosted_wf hs))
        · exact LRes.trap_wf
  · split
    · exact LRes.trap_wf
    · split
      · exact LRes.trap_wf
      · split
        · rename_i e
          exact LRes.ok_wf (SomeWf.of_eq e (writeThr_wf (settlePosted_wf hs)))
        · exact LRes.trap_wf

theorem inOrder_wf {n : Nat} (hs : s.mem.wf = true) : (inOrder n s).mem.wf = true := by
  unfold inOrder
  dsimp only
  exact hs

theorem execSvc_wf {h : Hdr} {imm : W32} (hs : s.mem.wf = true) : NextWf (execSvc h imm s) := by
  unfold execSvc
  refine perLane_wf (fun _ _ _ ht => ?_) hs
  dsimp only
  split
  · exact LRes.trap_wf
  · split
    · exact LRes.trap_wf
    · rename_i e
      have ht₂ := wf_of_eq e (push_wf ht)
      exact LRes.ok_wf (updThr_wf ht₂)

theorem execSret_wf {h : Hdr} (hs : s.mem.wf = true) : NextWf (execSret h s) := by
  unfold execSret
  refine perLane_wf (fun _ _ _ ht => ?_) hs
  split
  · exact LRes.trap_wf
  · split
    · exact LRes.trap_wf
    · rename_i e
      have ht₂ := wf_of_eq e (pop_wf ht)
      exact LRes.ok_wf (updThr_wf ht₂)

theorem dropPages_wf {test : Nat → Nat → Nat → Bool} (hs : s.mem.wf = true) : (dropPages s test).mem.wf = true := by
  unfold dropPages
  dsimp only
  exact hs

theorem execTlbi_wf {h : Hdr} {mode : TlbiMode} {a b : Opd} (hs : s.mem.wf = true) :
    NextWf (execTlbi h mode a b s) := by
  unfold execTlbi
  refine perLaneW_wf (fun _ _ _ ht => rangeNeed_wf ht) (fun _ _ _ ht => ?_) hs
  split
  · exact LRes.trap_wf
  · dsimp only
    split
    · exact LRes.trap_wf
    · split <;> exact LRes.ok_wf (dropPages_wf (pkgRelease_wf (settlePosted_wf ht)))

theorem putDent_wf {core e : Nat} {v : DEnt} (hs : s.mem.wf = true) : (putDent s core e v).mem.wf = true := by
  unfold putDent
  exact devWrite_wf _ _ (pkgRelease_wf hs)

theorem revoke_wf {e lat : Nat} (hs : s.mem.wf = true) : (revoke s e lat).mem.wf = true := by
  unfold revoke
  dsimp only
  exact hs

theorem dcapLane_wf {op : DcapOp} {d a b g : Opd} {c : Cursor} {l : Nat} (hs : s.mem.wf = true) :
    (dcapLane op d a b g c s l).Wf := by
  unfold dcapLane
  dsimp only
  split
  · split
    · exact LRes.trap_wf
    · split
      · exact LRes.trap_wf
      · split
        · exact LRes.ok_wf (dst_wf (devCheck_wf hs))
        · refine LRes.ok_wf (dst_wf (putDent_wf ?_))
          dsimp only
          exact devCheck_wf hs
  · split
    · exact LRes.ok_wf (dst_wf (devCheck_wf hs))
    · split
      · exact LRes.trap_wf
      · exact LRes.ok_wf (dst_wf (pkgRelease_wf (revoke_wf (devCheck_wf hs))))
  · exact LRes.ok_wf (dst_wf (devCheck_wf hs))

theorem endUnder_wf {e : Nat} (hs : s.mem.wf = true) : (endUnder s e).mem.wf = true := by
  unfold endUnder
  dsimp only
  exact foldl_wf _ (fun _ _ ht => foldl_wf _ (fun _ _ hu => updWarp_wf hu) _ (updGroupThreads_wf
    (updGroup_wf ht))) _ hs

theorem takeRevocations_wf (hs : s.mem.wf = true) : (takeRevocations s).mem.wf = true := by
  unfold takeRevocations
  dsimp only
  exact foldl_wf _ (fun _ _ ht => endUnder_wf (ite_wf (devWrite_wf _ _ ht) ht)) _ hs

theorem execTrig_wf {h : Hdr} {imm : W32} (hs : s.mem.wf = true) : NextWf (execTrig h imm s) := by
  unfold execTrig
  refine perPath_wf (fun _ _ _ ht => ?_) hs
  split
  · exact LRes.trap_wf
  · exact LRes.ok_wf (trigger_wf ht)

theorem haltGroups_wf {s : State} {core : Nat} {all : Bool} {ctx : Nat} {f : State → Nat → State}
    (hf : ∀ t g, t.mem.wf = true → (f t g).mem.wf = true) (hs : s.mem.wf = true) :
    (haltGroups s core all ctx f).mem.wf = true := by
  unfold haltGroups
  exact foldl_wf _ hf _ hs

theorem dropStep_wf {gid : Nat} {on : Bool} (hs : s.mem.wf = true) : (dropStep s gid on).mem.wf = true := by
  unfold dropStep
  exact foldl_wf _ (fun _ _ ht => updWarp_wf ht) _ hs

theorem execDbghaltResume_wf {core : Nat} {all : Bool} {ctx : Nat} (hs : s.mem.wf = true) :
    NextWf (execDbghaltResume core all ctx s) := by
  unfold execDbghaltResume
  refine done_wf (haltGroups_wf (fun _ _ ht => ?_) hs)
  dsimp only
  exact updGroupThreads_wf (dropStep_wf (updGroup_wf ht))

theorem execDbghaltStep_wf {core : Nat} {all : Bool} {ctx : Nat} (hs : s.mem.wf = true) :
    NextWf (execDbghaltStep core all ctx s) := by
  unfold execDbghaltStep
  refine done_wf (haltGroups_wf (fun _ _ ht => ?_) hs)
  dsimp only
  split
  · exact dropStep_wf (updGroup_wf ht)
  · exact updGroup_wf ht

/-! ### The host -/

theorem execMsixVectorUnmask_wf {n : Nat} (hs : s.mem.wf = true) : NextWf (execMsixVectorUnmask n s) := by
  unfold execMsixVectorUnmask
  dsimp only
  split
  · exact done_wf (msixRaise_wf hs)
  · exact done_wf hs

theorem execHostConfigRequest_wf {write : Bool} {at_ : ConfigAddr} {val : W32} {tag : Nat} (hs : s.mem.wf = true) :
    NextWf (execHostConfigRequest write at_ val tag s) := by
  unfold execHostConfigRequest
  dsimp only
  split
  · exact done_wf (reply_wf hs)
  · split
    · refine done_wf (reply_wf ?_)
      dsimp only
      split
      · dsimp only
        split
        · dsimp only
          split <;> exact hs
        · split <;> exact hs
      · split
        · dsimp only
          split <;> exact hs
        · split <;> exact hs
    · exact done_wf (reply_wf (free_wf hs))

theorem hostGive_wf {k half : Nat} (hs : s.mem.wf = true) : (hostGive s k half).mem.wf = true := by
  unfold hostGive
  split
  · exact hs
  · dsimp only
    split
    · exact hs
    · exact Memory.putAll_wf _ hs

theorem evictHalf_wf {k other : Nat} (hs : s.mem.wf = true) : (evictHalf s k other).mem.wf = true := by
  unfold evictHalf
  split
  · exact hs
  · dsimp only
    split
    · exact hostPut_wf _ _ _ hs
    · split
      · exact hostSend_wf _ _ _ hs
      · exact hs

theorem execHostSnoop_wf {kind : SnoopKind} {line : Nat} (hs : s.mem.wf = true) :
    NextWf (execHostSnoop kind line s) := by
  unfold execHostSnoop
  dsimp only
  split
  · exact done_wf (reply_wf hs)
  · split
    · refine done_wf ?_
      dsimp only
      exact hostGive_wf (reply_wf hs)
    · exact done_wf (hostGive_wf (reply_wf hs))
  · refine done_wf ?_
    dsimp only
    exact hostForget_wf (evictHalf_wf (hostGive_wf (reply_wf hs)))

theorem hostWrite_wf {addr : Nat} {bs : List Byte} (hs : s.mem.wf = true) : (hostWrite s addr bs).mem.wf = true := by
  unfold hostWrite
  dsimp only
  refine homeWrite_wf _ _ (vcTick_wf (foldl_wf _ (fun _ _ ht => ?_) _ hs))
  split
  · exact hostFill_wf ht
  · exact ht

theorem passPacket_wf {n : Nat} (hs : s.mem.wf = true) : (passPacket s n).mem.wf = true := by
  unfold passPacket
  exact updHq_wf hs

theorem rejectPacket_wf {n : Nat} {r : LRec} {why : Nat} (hs : s.mem.wf = true) :
    (rejectPacket s n r why).mem.wf = true := by
  unfold rejectPacket
  dsimp only
  split
  · exact updHq_wf hs
  · split
    · rename_i e
      exact (wf_of_eq e (compStore_wf hs) :)
    · rename_i e
      exact updHq_wf (wf_of_eq e (compStore_wf hs))

theorem pennantPacket_wf {n : Nat} {r : LRec} (hs : s.mem.wf = true) : (pennantPacket s n r).mem.wf = true := by
  unfold pennantPacket
  dsimp only
  split
  · split
    · exact hs
    · exact hostWrite_wf hs
  · exact makeSend_wf hs

theorem agentAsks_wf {n : Nat} {ks : List Nat} (hs : s.mem.wf = true) : (agentAsks s n ks).mem.wf = true := by
  unfold agentAsks
  exact markAsks_wf (hostAsks_wf _ hs)

theorem agentRead_wf {n : Nat} (hs : s.mem.wf = true) : (agentRead s n).mem.wf = true := by
  unfold agentRead
  dsimp only
  exact updHq_wf (agentAsks_wf hs)

theorem agentFetch_wf {n : Nat} (hs : s.mem.wf = true) : (agentFetch s n).mem.wf = true := by
  unfold agentFetch
  dsimp only
  exact updHq_wf (agentAsks_wf hs)

theorem agentPacket_wf {n : Nat} {bs : List Byte} (hs : s.mem.wf = true) : SomeWf (agentPacket s n bs) := by
  unfold agentPacket
  dsimp only
  split
  · exact SomeWf.some_wf (passPacket_wf (pennantPacket_wf hs))
  · split
    · exact SomeWf.some_wf (passPacket_wf (rejectPacket_wf hs))
    · split
      · exact SomeWf.some_wf (passPacket_wf (acceptLaunch_wf hs))
      · exact SomeWf.none_wf

theorem agentRest_wf {n : Nat} (hs : s.mem.wf = true) : (agentRest s n).mem.wf = true := by
  unfold agentRest
  dsimp only
  exact updHq_wf (hostFill_wf hs)

theorem agentWork_wf {n : Nat} {tail : W32} {m : Nat} {s : State} (hs : s.mem.wf = true) :
    (agentWork n tail m s).mem.wf = true := by
  induction m generalizing s with
  | zero => exact hs
  | succ m ih =>
    unfold agentWork
    dsimp only
    split
    · exact agentRest_wf hs
    · split
      · exact ih (agentFetch_wf hs)
      · split
        · exact hs
        · split
          · exact hs
          · rename_i e
            exact ih (updHq_wf (SomeWf.of_eq e (agentPacket_wf hs)))

theorem execQueueAgentPackets_wf {hq : Nat} (hs : s.mem.wf = true) : NextWf (execQueueAgentPackets hq s) := by
  unfold execQueueAgentPackets
  split
  · exact done_wf hs
  · dsimp only
    split
    · exact done_wf (agentRead_wf hs)
    · split
      · exact done_wf (updHq_wf hs)
      · exact done_wf (agentWork_wf hs)

theorem execCtxCreate_wf {id : Nat} (hs : s.mem.wf = true) : NextWf (execCtxCreate id s) := by
  unfold execCtxCreate
  split
  · exact done_wf hs
  · split <;> exact done_wf hs

theorem execCtxDestroy_wf {id : Nat} (hs : s.mem.wf = true) : NextWf (execCtxDestroy id s) := by
  unfold execCtxDestroy
  split
  · exact done_wf hs
  · split
    · exact done_wf hs
    · exact done_wf (dropPages_wf hs)

theorem execAttreq_wf {addr : W64} (hs : s.mem.wf = true) : NextWf (execAttreq addr s) := by
  unfold execAttreq
  split
  · exact done_wf hs
  · dsimp only
    refine done_wf ?_
    dsimp only
    exact free_wf hs

theorem execAttestationComplete_wf (hs : s.mem.wf = true) : NextWf (execAttestationComplete s) := by
  unfold execAttestationComplete
  split
  · exact done_wf hs
  · dsimp only
    refine done_wf (msixRaise_wf (hostWrite_wf ?_))
    dsimp only
    exact hostAsks_wf _ hs

/-! ### Power, reset and start-up -/

theorem takeStep_wf {step : BitVec 2} (hs : s.mem.wf = true) : (takeStep s step).mem.wf = true := by
  unfold takeStep
  dsimp only
  exact msixRaise_wf (foldl_wf _ (fun _ _ ht => traceCycle_wf ht) _ hs)

theorem execPowerStepEffect_wf (hs : s.mem.wf = true) : NextWf (execPowerStepEffect s) := by
  unfold execPowerStepEffect
  dsimp only
  split
  · refine done_wf ?_
    split
    · split
      · refine takeStep_wf ?_
        dsimp only
        exact takeStep_wf hs
      · exact takeStep_wf hs
    · split
      · exact takeStep_wf hs
      · exact hs
  · exact done_wf (ite_wf (takeStep_wf hs) hs)

theorem resetPackage_wf (hs : s.mem.wf = true) : (resetPackage s).mem.wf = true := by
  unfold resetPackage
  dsimp only
  exact hs

theorem showBoot_wf (hs : s.mem.wf = true) : (showBoot s).mem.wf = true := by
  unfold showBoot
  split <;> exact hs

theorem execPowerLoss_wf {s : State} (hs : s.mem.wf = true) : NextWf (execPowerLoss s) := by
  unfold execPowerLoss
  refine done_wf ?_
  dsimp only
  exact Memory.filter_wf _ hs

theorem execPowerOn_wf (hs : s.mem.wf = true) : NextWf (execPowerOn s) := by
  unfold execPowerOn
  refine done_wf ?_
  dsimp only
  exact resetPackage_wf hs

theorem tryReady_wf (hs : s.mem.wf = true) : (tryReady s).mem.wf = true := by
  unfold tryReady
  split <;> exact hs

theorem startRefresh_wf (hs : s.mem.wf = true) : (startRefresh s).mem.wf = true := by
  unfold startRefresh
  exact hs

theorem execBootVerifyComplete_wf (hs : s.mem.wf = true) : NextWf (execBootVerifyComplete s) := by
  unfold execBootVerifyComplete
  split
  · exact done_wf hs
  · dsimp only
    exact done_wf (tryReady_wf (showBoot_wf hs))

theorem execPackageReset_wf (hs : s.mem.wf = true) : NextWf (execPackageReset s) := by
  unfold execPackageReset
  refine done_wf ?_
  dsimp only
  exact resetPackage_wf hs

theorem execResetRelease_wf (hs : s.mem.wf = true) : NextWf (execResetRelease s) := by
  unfold execResetRelease
  split
  · exact done_wf (showBoot_wf hs)
  · exact done_wf hs

theorem strike_wf {code own at_ : Nat} (hs : s.mem.wf = true) : (strike s code own at_).mem.wf = true := by
  unfold strike
  dsimp only
  split <;> exact hs

theorem execSoftErrorScrub_wf {line : Nat} (hs : s.mem.wf = true) : NextWf (execSoftErrorScrub line s) := by
  unfold execSoftErrorScrub
  dsimp only
  split
  · refine done_wf (foldl_wf _ (fun _ _ ht => postFault_wf ht) _ ?_)
    dsimp only
    exact markSoft_wf hs
  · split
    · exact done_wf hs
    · exact done_wf (postFault_wf (markSoft_wf hs))

theorem execTriggerEffect_wf (hs : s.mem.wf = true) : NextWf (execTriggerEffect s) := by
  unfold execTriggerEffect
  refine done_wf (foldl_wf _ (fun _ _ ht => ?_) _ hs)
  dsimp only
  split
  · split
    · exact due_wf (updTrace_wf (traceCycle_wf (updTrace_wf ht)))
    · exact updTrace_wf (traceCycle_wf (updTrace_wf ht))
  · exact ht

theorem execTideLatch_wf (hs : s.mem.wf = true) : NextWf (execTideLatch s) := by
  unfold execTideLatch
  split
  · exact done_wf hs
  · dsimp only
    refine done_wf ?_
    dsimp only
    exact ite_wf hs (foldl_wf _ (fun _ _ ht => logTake_wf (devWrite_wf _ _ ht)) _ hs)

theorem tideCount_wf (hs : s.mem.wf = true) : (tideCount s).mem.wf = true := by
  unfold tideCount
  dsimp only
  split
  · split
    · exact hs
    · split <;> exact hs
  · split <;> exact hs

/-! ### Gates, replay and images -/

theorem logArrival_wf {n x ac : Nat} {a : Arrival} (hs : s.mem.wf = true) :
    (logArrival s n x ac a).mem.wf = true := by
  unfold logArrival
  dsimp only
  split
  · exact hs
  · split
    · exact markNoReplay_wf (updGate_wf hs)
    · exact updGate_wf (logTake_wf (foldl_wf _ (fun _ _ ht => devWrite_wf _ _ ht) _ hs))

theorem execGateCrossing_wf {gate : Nat} (hs : s.mem.wf = true) : NextWf (execGateCrossing gate s) := by
  unfold execGateCrossing
  split
  · exact done_wf hs
  · dsimp only
    exact done_wf (updGate_wf (logArrival_wf hs))

theorem applyArrival_wf {n : Nat} {a : Arrival} (hs : s.mem.wf = true) : (applyArrival s n a).mem.wf = true := by
  unfold applyArrival
  dsimp only
  split
  · exact hs
  · split
    · split <;> exact due_wf hs
    · exact ite_wf (reply_wf hs) (due_wf hs)
    · split <;> exact hs
    · split
      · exact due_wf hs
      · exact hs

theorem execArrivalApply_wf {gate : Nat} (hs : s.mem.wf = true) : NextWf (execArrivalApply gate s) := by
  unfold execArrivalApply
  split
  · split
    · exact done_wf (applyArrival_wf (updGate_wf hs))
    · exact done_wf hs
  · exact done_wf hs

theorem execReplayInject_wf {gate : Nat} (hs : s.mem.wf = true) : NextWf (execReplayInject gate s) := by
  unfold execReplayInject
  split
  · exact done_wf hs
  · dsimp only
    split
    · exact done_wf hs
    · exact done_wf (applyArrival_wf (updGate_wf (logTake_wf hs)))

theorem execReplayEnd_wf (hs : s.mem.wf = true) : NextWf (execReplayEnd s) := by
  unfold execReplayEnd
  split
  · exact done_wf hs
  · dsimp only
    refine done_wf ?_
    dsimp only
    refine foldl_wf _ (fun _ _ ht => ?_) _ hs
    split
    · exact updGate_wf ht
    · exact ht

theorem execSlackWaterStop_wf (hs : s.mem.wf = true) : NextWf (execSlackWaterStop s) := by
  unfold execSlackWaterStop
  split
  · exact done_wf hs
  · split <;> exact done_wf hs

theorem execImageWriteComplete_wf (hs : s.mem.wf = true) : NextWf (execImageWriteComplete s) := by
  unfold execImageWriteComplete
  split
  · exact done_wf hs
  · dsimp only
    split
    · split
      · refine done_wf ?_
        dsimp only
        exact free_wf hs
      · refine done_wf ?_
        dsimp only
        refine Memory.putAll_wf _ (devCheck_wf ?_)
        dsimp only
        exact free_wf hs
    · refine done_wf ?_
      dsimp only
      exact free_wf hs

theorem execSwctlRestore_wf (hs : s.mem.wf = true) : NextWf (execSwctlRestore s) := by
  unfold execSwctlRestore
  split
  · exact done_wf hs
  · split
    · exact done_wf hs
    · split <;> exact done_wf hs

/-! ### Timed events -/

theorem execLeaseExpiry_wf {core : Nat} (hs : s.mem.wf = true) : NextWf (execLeaseExpiry core s) := by
  unfold execLeaseExpiry
  dsimp only
  exact done_wf (watchHit_wf (setL1_wf hs))

theorem execDrainRequest_wf {core : Nat} (hs : s.mem.wf = true) : NextWf (execDrainRequest core s) := by
  unfold execDrainRequest
  dsimp only
  refine done_wf ?_
  dsimp only
  exact foldl_wf _ (fun _ _ ht => drainUpTo_wf ht) _ hs

theorem execStoreAck_wf (hs : s.mem.wf = true) : NextWf (execStoreAck s) := by
  unfold execStoreAck
  split
  · exact done_wf hs
  · dsimp only
    refine done_wf ?_
    split
    · exact superstepCheck_wf (ackPosted_wf hs)
    · exact ackPosted_wf hs

theorem execForwardedWriteApply_wf {die : Nat} (hs : s.mem.wf = true) : NextWf (execForwardedWriteApply die s) := by
  unfold execForwardedWriteApply
  split
  · exact done_wf (applyForward_wf hs)
  · exact done_wf (ite_wf hs (applyForward_wf hs))

theorem execEpochMarker_wf {die home : Nat} (hs : s.mem.wf = true) : NextWf (execEpochMarker die home s) := by
  unfold execEpochMarker
  split
  · exact done_wf hs
  · dsimp only
    split
    · exact done_wf (applyForward_wf hs)
    · exact done_wf hs

theorem execPageWalkComplete_wf {die : Nat} (hs : s.mem.wf = true) : NextWf (execPageWalkComplete die s) := by
  unfold execPageWalkComplete
  split
  · exact done_wf hs
  · dsimp only
    refine done_wf (foldl_wf _ (fun _ _ ht => ?_) _ hs)
    split
    · rename_i e _
      exact prefPage_wf (wf_of_eq e (translate_wf ht))
    · rename_i e _
      exact (wf_of_eq e (translate_wf ht) :)
    · exact ht

theorem wakeWith_wf {w : WKey} {l : Nat} {d : Opd} {v : Nat} (hs : s.mem.wf = true) :
    (wakeWith s w l d v).mem.wf = true := by
  unfold wakeWith
  exact resumeLane_wf (observe_wf (wakeDst_wf hs))

theorem stallEnd_wf {w : WKey} {l : Nat} {x : Stall} (hs : s.mem.wf = true) : SomeWf (stallEnd s w l x) := by
  unfold stallEnd
  split
  · split
    · exact SomeWf.some_wf (updThr_wf hs)
    · exact SomeWf.none_wf
  · dsimp only
    split
    · exact SomeWf.none_wf
    · split
      · exact SomeWf.some_wf (resumeLane_wf (ite_wf (freeEngine_wf hs) hs))
      · exact SomeWf.some_wf (wakeWith_wf hs)
  · dsimp only
    split
    · exact SomeWf.none_wf
    · exact SomeWf.some_wf (wakeWith_wf hs)
  · dsimp only
    split
    · exact SomeWf.some_wf (wakeWith_wf hs)
    · exact SomeWf.none_wf
  · split
    · dsimp only
      exact SomeWf.some_wf (foldl_wf _ (fun _ _ ht => resumeLane_wf (wakeDst_wf ht)) _ (hlEnqueue_wf hs))
    · exact SomeWf.none_wf
  · split
    · exact SomeWf.none_wf
    · exact SomeWf.some_wf (wakeWith_wf hs)
  · dsimp only
    split
    · exact SomeWf.none_wf
    · exact SomeWf.some_wf (resumeLane_wf (wakeDst_wf (pkgAcquire_wf hs)))
  · dsimp only
    split
    · exact SomeWf.none_wf
    · exact SomeWf.some_wf (updThr_wf hs)
  all_goals exact SomeWf.none_wf

theorem execStallWake_wf {w : WKey} {lane : Nat} {s : State} (hs : s.mem.wf = true) : NextWf
    (execStallWake w lane s) := by
  unfold execStallWake
  split
  · rename_i k _
    cases e : stallEnd s w lane k with
    | none => exact done_wf hs
    | some t => exact done_wf (SomeWf.of_eq e (stallEnd_wf hs))
  · exact done_wf hs

/-! ### Warp-wide instructions -/

theorem clearGone_wf {w : WKey} {pc : W64} {m : W32} (hs : s.mem.wf = true) : (clearGone s w pc m).mem.wf = true := by
  unfold clearGone
  exact updWarp_wf hs

theorem memberWrite_wf {i : Instr} {s0 s : State} {c : Cursor} {mask : W32} {l : Nat} (hs : s.mem.wf = true) :
    (memberWrite i s0 c mask l s).mem.wf = true := by
  unfold memberWrite
  split
  · dsimp only
    split
    · exact dst_wf hs
    · exact dstP_wf hs
    · exact dstP_wf hs
  · exact dst_wf hs
  · exact dst_wf hs
  · exact dst_wf hs
  · exact settlePosted_wf hs
  · exact hs

theorem runMembers_wf {w : WKey} {pc : W64} {m : W32} (hs : s.mem.wf = true) :
    (runMembers s w pc m).mem.wf = true := by
  unfold runMembers
  dsimp only
  split
  · exact hs
  · split
    · exact hs
    · split
      · exact takeTraps_wf (foldl_wf _ (fun _ _ ht => updThr_wf ht) _ (foldl_wf _ (fun _ _ ht => updThr_wf ht) _
          (clearGone_wf hs)))
      · refine foldl_wf _ (fun _ _ ht => updThr_wf (completeLane_wf (updThr_wf (memberWrite_wf ht)))) _ ?_
        dsimp only
        exact foldl_wf _ (fun _ _ ht => updThr_wf ht) _ (clearGone_wf hs)

theorem tryMembers_wf {w : WKey} {l : Nat} (hs : s.mem.wf = true) : (tryMembers s w l).mem.wf = true := by
  unfold tryMembers
  split
  · dsimp only
    exact runMembers_wf hs
  · exact hs

theorem arrive_wf {i : Instr} {c : Cursor} {mask : Nat → W32} {x : Warp} {l : Nat} (hs : s.mem.wf = true) :
    (arrive i c mask x s l).mem.wf = true := by
  unfold arrive
  dsimp only
  exact updThr_wf (waitLane_wf (ite_wf (clearGone_wf hs) hs))

theorem warpWide_wf {i : Instr} {h : Hdr} {mask : Opd} {bad : Option Nat} (hs : s.mem.wf = true) :
    NextWf (warpWide i h mask bad s) := by
  unfold warpWide
  split
  · exact done_wf hs
  · dsimp only
    exact done_wf (endTraps_wf (foldl_wf _ (fun _ _ ht => tryMembers_wf ht) _ (ite_else_wf markGone_wf (foldl_wf _
      (fun _ _ ht => arrive_wf ht) _ (issuePath_wf hs)))))

theorem execMemberWaitComplete_wf {w : WKey} {lane : Nat} (hs : s.mem.wf = true) :
    NextWf (execMemberWaitComplete w lane s) := by
  unfold execMemberWaitComplete
  dsimp only
  split
  · exact done_wf (tryMembers_wf hs)
  · exact done_wf hs

/-! ### The cycle -/

theorem takeInput_wf {s t : State} {n : Nat} {m : Arrival} (e : takeInput s n = some (m, t)) (hs : s.mem.wf = true) :
    t.mem.wf = true := by
  unfold takeInput at e
  obtain ⟨r, -, hr⟩ := Option.map_eq_some_iff.1 e
  cases hr
  exact hs

theorem environment_wf {a : Arrival} (hs : s.mem.wf = true) : (environment s a).mem.wf = true := by
  unfold environment
  split
  · split
    · exact due_wf hs
    · exact hs
  · dsimp only
    exact Memory.putAll_wf _ hs
  · exact strike_wf hs

theorem answerAccess_wf {a : Arrival} {write : Nat → Bool} (hs : s.mem.wf = true) :
    (answerAccess s a write).mem.wf = true := by
  unfold answerAccess
  dsimp only
  split
  · exact hs
  · split
    · exact hs
    · split
      · exact writeBar_wf hs
      · exact hs

theorem standingRequest_wf {a : Arrival} (hs : s.mem.wf = true) : (standingRequest s a).mem.wf = true := by
  unfold standingRequest
  dsimp only
  split
  · split <;> exact hs
  · split
    · split
      · exact answerAccess_wf hs
      · exact due_wf hs
    · exact due_wf hs

theorem liveArrival_wf {n : Nat} {a : Arrival} (hs : s.mem.wf = true) : (liveArrival s n a).mem.wf = true := by
  unfold liveArrival
  dsimp only
  exact ite_wf (ite_wf (ite_wf (answerAccess_wf hs) (due_wf hs)) (ite_wf (due_wf hs) hs)) (ite_wf (updGate_wf hs) hs)

theorem deliverLinks_wf (hs : s.mem.wf = true) : (deliverLinks s).mem.wf = true := by
  unfold deliverLinks
  refine foldl_wf _ (fun _ _ ht => ?_) _ hs
  split
  · exact ht
  · split
    · exact liveArrival_wf ht
    · split
      · exact updGate_wf ht
      · exact ht

theorem logSlot_wf (hs : s.mem.wf = true) : (logSlot s).mem.wf = true := by
  unfold logSlot
  split <;> exact hs

theorem parkStepped_wf (hs : s.mem.wf = true) : (parkStepped s).mem.wf = true := by
  unfold parkStepped
  refine foldl_wf _ (fun _ _ ht => ?_) _ hs
  dsimp only
  split
  · exact ht
  · exact foldl_wf _ (fun _ _ hu => stepPark_wf hu) _ ht

theorem cycleStart_wf (hs : s.mem.wf = true) : (cycleStart s).mem.wf = true := by
  unfold cycleStart
  dsimp only
  refine deliverLinks_wf ?_
  split
  · exact logSlot_wf (preemptDone_wf (takeRevocations_wf hs))
  · refine foldl_wf _ (fun _ _ ht => ?_) _ (parkStepped_wf (logSlot_wf (preemptDone_wf (takeRevocations_wf hs))))
    split
    · exact ht
    · exact collRun_wf ht

theorem beginCycle_wf {c : Nat} (hs : s.mem.wf = true) : (beginCycle s c).mem.wf = true := by
  unfold beginCycle
  split
  · exact hs
  · dsimp only
    exact cycleStart_wf hs

theorem runCycle_wf (hs : s.mem.wf = true) : (runCycle s).mem.wf = true := by
  unfold runCycle
  split
  · exact beginCycle_wf hs
  · dsimp only
    split
    · dsimp only
      exact tideCount_wf hs
    · exact beginCycle_wf (tideCount_wf hs)

theorem standing_wf (hs : s.mem.wf = true) : (standing s).mem.wf = true := by
  unfold standing
  split
  · exact hs
  · split
    · exact hs
    · split
      · exact hs
      · split <;> exact hs

theorem newCycle_wf (hs : s.mem.wf = true) : (newCycle s).mem.wf = true := by
  unfold newCycle
  dsimp only
  split
  · rename_i e
    exact environment_wf (takeInput_wf e (fqFlush_wf hs))
  · split
    · exact fqFlush_wf hs
    · split
      · exact runCycle_wf (fqFlush_wf hs)
      · split
        · rename_i e
          exact standingRequest_wf (takeInput_wf e (fqFlush_wf hs))
        · exact standing_wf (fqFlush_wf hs)

theorem restoredMem_wf {s : State} {img : Image} (hs : s.mem.wf = true) : (restoredMem s img).wf = true := by
  unfold restoredMem
  exact Memory.putAll_wf _ (Memory.filter_wf _ hs)

theorem execRestoreComplete_wf {s : State} (hs : s.mem.wf = true) : NextWf (execRestoreComplete s) := by
  unfold execRestoreComplete
  split
  · exact done_wf hs
  · split
    · exact done_wf hs
    · refine done_wf (beginCycle_wf (foldl_wf _ (fun _ _ ht => ?_) _ ?_))
      · split
        · exact tracePutCycle_wf ht
        · exact ht
      · exact restoredMem_wf hs

/-! ### Integer instructions -/

theorem bin2_wf {i : Instr} {h : Hdr} {o : Bin} {ok : Bool} {f : Nat → Nat → Nat} (hs : s.mem.wf = true) :
    NextWf (bin2 i h o ok f s) := by
  unfold bin2
  exact result_wf hs

theorem bin2I_wf {i : Instr} {h : Hdr} {o : BinI} {ok : Bool} {f : Nat → Nat → Nat} (hs : s.mem.wf = true) :
    NextWf (bin2I i h o ok f s) := by
  unfold bin2I
  exact result_wf hs

theorem bin1_wf {i : Instr} {h : Hdr} {o : Bin} {ok : Bool} {f : Nat → Nat → Nat} (hs : s.mem.wf = true) :
    NextWf (bin1 i h o ok f s) := by
  unfold bin1
  exact result_wf hs

theorem bin1I_wf {i : Instr} {h : Hdr} {o : BinI} {ok : Bool} {f : Nat → Nat → Nat} (hs : s.mem.wf = true) :
    NextWf (bin1I i h o ok f s) := by
  unfold bin1I
  exact result_wf hs

theorem un1_wf {i : Instr} {h : Hdr} {o : Un} {ok wide : Bool} {f : Nat → Nat} (hs : s.mem.wf = true) :
    NextWf (un1 i h o ok wide f s) := by
  unfold un1
  exact result_wf hs

theorem putRel_wf {c : Cursor} {l : Nat} {d : Opd} {r : Flags.Rel} {n : Nat} (hs : s.mem.wf = true) :
    (putRel s c l d r n).mem.wf = true := by
  unfold putRel
  split
  · dsimp only
    exact ite_then_wf dstP_wf (dstP_wf (dstP_wf (dstP_wf hs)))
  · exact dst_wf hs

theorem execIcmp_wf {h : Hdr} {o : Bin} (hs : s.mem.wf = true) : NextWf (execIcmp h o s) := by
  unfold execIcmp
  refine perLane_wf (fun _ _ _ ht => ?_) hs
  split
  · exact LRes.ok_wf (putRel_wf ht)
  · exact LRes.trap_wf

theorem execIcmpImm_wf {h : Hdr} {o : BinI} (hs : s.mem.wf = true) : NextWf (execIcmpImm h o s) := by
  unfold execIcmpImm
  refine perLane_wf (fun _ _ _ ht => ?_) hs
  split
  · exact LRes.ok_wf (putRel_wf ht)
  · exact LRes.trap_wf

theorem movTo_wf {c : Cursor} {l : Nat} {d : Opd} {wide : Bool} {v : Nat} (hs : s.mem.wf = true) :
    (movTo s c l d wide v).mem.wf = true := by
  unfold movTo
  split
  · exact dstP_wf hs
  · exact dst_wf hs

theorem execMov_wf {h : Hdr} {o : Un} (hs : s.mem.wf = true) : NextWf (execMov h o s) := by
  unfold execMov
  refine perLane_wf (fun _ _ _ ht => ?_) hs
  split
  · exact LRes.ok_wf (movTo_wf ht)
  · exact LRes.trap_wf

theorem execMovi_wf {h : Hdr} {o : MovImm} (hs : s.mem.wf = true) : NextWf (execMovi h o s) := by
  unfold execMovi
  refine perLane_wf (fun _ _ _ ht => ?_) hs
  split
  · exact LRes.ok_wf (movTo_wf ht)
  · exact LRes.trap_wf

/-! ### Floating-point instructions -/

theorem execFcmp_wf {h : Hdr} {o : Bin} (hs : s.mem.wf = true) : NextWf (execFcmp h o s) := by
  unfold execFcmp
  refine perLane_wf (fun _ _ _ ht => ?_) hs
  split
  · exact LRes.ok_wf (putRel_wf ht)
  · exact LRes.trap_wf

theorem execFcmpImm_wf {h : Hdr} {o : BinI} (hs : s.mem.wf = true) : NextWf (execFcmpImm h o s) := by
  unfold execFcmpImm
  refine perLane_wf (fun _ _ _ ht => ?_) hs
  split
  · exact LRes.ok_wf (putRel_wf ht)
  · exact LRes.trap_wf

/-! ### The dispatch and the step -/

theorem exec_wf {i : Instr} (hs : s.mem.wf = true) : NextWf (exec i s) := by
  unfold exec
  cases i with
  | iadd | isub | imul | imin | imax | and | or | xor => exact bin2_wf hs
  | iaddImm | isubImm | imulImm | iminImm | imaxImm | andImm | orImm | xorImm => exact bin2I_wf hs
  | imad | imadImm | bfi | bfiImm | sel | selImm | lea | leaImm | cvt | fadd | faddImm | fsub | fsubImm | fmul
  | fmulImm | ffma | ffmaImm | fmin | fminImm | fmax | fmaxImm | fabs | fneg | fclass | cvtf | frcp | frsq
  | fsqrt | fexp2 | flog2 | fsin | fcos | vadd2 | vmul2 | vfma2 => exact result_wf hs
  | iabs | not | popc | clz | brev => exact un1_wf hs
  | shl | shr | rot | bfx => exact bin1_wf hs
  | shlImm | shrImm | rotImm | bfxImm => exact bin1I_wf hs
  | icmp => exact execIcmp_wf hs
  | icmpImm => exact execIcmpImm_wf hs
  | mov => exact execMov_wf hs
  | movi => exact execMovi_wf hs
  | fcmp => exact execFcmp_wf hs
  | fcmpImm => exact execFcmpImm_wf hs
  | plop => exact perLane_wf (fun _ _ _ ht => LRes.ok_wf (dstP_wf ht)) hs
  | pblk => exact execPblk_wf hs
  | bra | swt => exact perLane_wf (fun _ _ _ ht => LRes.ok_wf (setPc_wf ht)) hs
  | jmpr => exact execJmpr_wf hs
  | call => exact execCall_wf hs
  | callr => exact execCallr_wf hs
  | ret => exact execRet_wf hs
  | exit => exact execExit_wf hs
  | yield => exact execYield_wf hs
  | wsync | vote | shfl | wred | wscan => exact warpWide_wf hs
  | nop => exact perLane_wf (fun _ _ _ ht => LRes.ok_wf ht) hs
  | tret => exact execTret_wf hs
  | rgn => exact perLane_wf (fun _ _ _ ht => LRes.ok_wf (updThr_wf ht)) hs
  | brk => exact perLane_wf (fun _ _ _ _ => LRes.trap_wf) hs
  | ld => exact execLd_wf hs
  | st => exact execSt_wf hs
  | ldq => exact execLdq_wf hs
  | stq => exact execStq_wf hs
  | ldacq => exact execLdacq_wf hs
  | strel => exact execStrel_wf hs
  | pref => exact execPref_wf hs
  | flush | inval => exact perLaneW_wf (fun _ _ _ ht => rangeNeed_wf ht) (fun _ _ _ ht => rangeLane_wf ht) hs
  | atom => exact execAtom_wf hs
  | acas => exact execAcas_wf hs
  | red => exact execRed_wf hs
  | fence => exact perLaneW_wf (fun _ _ _ ht => fenceNeed_wf ht) (fun _ _ _ ht => LRes.ok_wf (fence_wf ht)) hs
  | marm => exact execMarm_wf hs
  | mwait => exact execMwait_wf hs
  | bar => exact execBar_wf hs
  | nbar => exact perLane_wf (fun _ _ _ ht => nbarLane_wf ht) hs
  | ssb => exact execSsb_wf hs
  | pinw => exact perLane_wf (fun _ _ _ ht => pinLane_wf (fun _ _ _ hu => pinLine_wf hu) ht) hs
  | unpinw => exact perLane_wf (fun _ _ _ ht => pinLane_wf (fun _ _ _ hu => unpinLine_wf hu) ht) hs
  | thopen => exact execThopen_wf hs
  | tenr => exact execTenr_wf hs
  | trel | thclose => exact perPath_wf (fun _ _ _ ht => releaseHandle_wf ht) hs
  | tsplit => exact execTsplit_wf hs
  | ttest => exact perLane_wf (fun _ _ _ ht => LRes.ok_wf (dst_wf ht)) hs
  | tidset => exact execTidset_wf hs
  | tidget => exact execTidget_wf hs
  | scaleb => exact execScaleb_wf hs
  | mrsv => exact execMrsv_wf hs
  | mrel => exact execMrel_wf hs
  | tmma => exact execTmma_wf hs
  | tldacc | tstacc => exact perPath_wf (fun _ _ _ ht => issueTile_wf (tidCheck_wf ht)) hs
  | tzacc => exact perPath_wf (fun _ _ _ ht => issueTile_wf ht) hs
  | tcvt => exact execTcvt_wf hs
  | ttask => exact perLaneW_wf (fun _ _ _ ht => taskNeed_wf ht) (fun _ _ _ ht => ttaskLane_wf ht) hs
  | twaitk => exact execTwaitk_wf hs
  | rgrow => exact execRgrow_wf hs
  | rshrink => exact execRshrink_wf hs
  | spawn => exact perLaneW_wf (fun _ _ _ ht => recNeed_wf ht) (fun _ _ _ ht => spawnLane_wf ht) hs
  | joindec => exact perLaneW_wf (fun _ _ _ ht => recNeed_wf ht) (fun _ _ _ ht => joindecLane_wf ht) hs
  | launch => exact perLaneW_wf (fun _ _ _ ht => launchNeed_wf ht) (fun _ _ _ ht => launchLane_wf ht) hs
  | acopy => exact perLaneW_wf (fun _ _ _ ht => coalNeed_wf ht) (fun _ _ _ ht => acopyLane_wf ht) hs
  | acopyt | acopyr => exact perPath_wf (fun _ _ _ ht => issueCopy_wf ht) hs
  | cmwait => exact execCmwait_wf hs
  | cmtest => exact execCmtest_wf hs
  | csend | crecv => exact perPath_wf (fun _ _ _ ht => exchange_wf ht) hs
  | cpoll => exact execCpoll_wf hs
  | hlred | hlgath | hlrot => exact perPath_wf (fun _ _ _ ht => hlIssue_wf ht) hs
  | hlwait => exact execHlwait_wf hs
  | hlstat => exact execHlstat_wf hs
  | pnsend => exact execPnsend_wf hs
  | pnmask => exact execPnmask_wf hs
  | pnpend => exact execPnpend_wf hs
  | pnack => exact execPnack_wf hs
  | pnret => exact execPnret_wf hs
  | pnwait => exact execPnwait_wf hs
  | srd => exact perLaneW_wf (fun _ _ _ ht => rangeNeed_wf ht) (fun _ _ _ ht => srdLane_wf ht) hs
  | swr => exact andThen_wf (fun _ ht => inOrder_wf ht) (perLaneW_wf (fun _ _ _ ht => rangeNeed_wf ht)
    (fun _ _ _ ht => swrLane_wf ht) hs)
  | svc => exact execSvc_wf hs
  | sret => exact execSret_wf hs
  | tlbi => exact execTlbi_wf hs
  | dcap => exact perLane_wf (fun _ _ _ ht => dcapLane_wf ht) hs
  | trig => exact execTrig_wf hs
  | faultRecordRetry => exact done_wf (foldl_wf _ (fun _ _ ht => fqPump_wf ht) _ hs)
  | barrierDeadlock => exact execBarrierDeadlock_wf hs
  | memberWaitComplete => exact execMemberWaitComplete_wf hs
  | watchEvent => exact done_wf (watchHit_wf hs)
  | mwaitWake => exact execMwaitWake_wf hs
  | mwaitTimeout => exact execMwaitTimeout_wf hs
  | groupExit => exact execGroupExit_wf hs
  | exitComplete => exact execExitComplete_wf hs
  | instructionComplete => exact done_wf (updThr_wf hs)
  | issueVote => exact execIssueVote_wf hs
  | rgrowGrant => exact done_wf (grantGrows_wf hs)
  | rgrowDeadlock => exact execRgrowDeadlock_wf hs
  | schedulerGrant => exact done_wf (grantFirst_wf hs)
  | queueAging => exact done_wf (foldl_wf _ (fun _ _ ht => ageLevel_wf ht) _ hs)
  | devicePushRetry => exact done_wf (foldl_wf _ (fun _ _ ht => retryPush_wf ht) _ (updSched_wf hs))
  | expanderEmit => exact execExpanderEmit_wf hs
  | hostSnoop => exact execHostSnoop_wf hs
  | queueAgentPackets => exact execQueueAgentPackets_wf hs
  | hostRequestNotReady | pwrctlGo | drainAck | retentionAging | refreshTick => exact done_wf hs
  | hostConfigRequest => exact execHostConfigRequest_wf hs
  | cxlUnsupportedRequest => exact done_wf (reply_wf hs)
  | bar0BadAccess => exact done_wf (ite_wf hs (reply_wf hs))
  | registerWrite => exact done_wf (writeBar_wf hs)
  | ctxCreate => exact execCtxCreate_wf hs
  | ctxDestroy => exact execCtxDestroy_wf hs
  | preemptContext | preemptCore => exact done_wf (preemptDone_wf (preemptAll_wf hs))
  | preemptSuspend => exact execPreemptSuspend_wf hs
  | ctxresume => exact execCtxresume_wf hs
  | heldListPushRetry => exact execHeldListPushRetry_wf hs
  | drainWindowExpiry => exact execDrainWindowExpiry_wf hs
  | saveComplete => exact execSaveComplete_wf hs
  | fltdoneRetry => exact execFltdoneRetry_wf hs
  | fltdoneSkip => exact execFltdoneSkip_wf hs
  | fltdoneDeliver => exact execFltdoneDeliver_wf hs
  | fltdoneKill => exact execFltdoneKill_wf hs
  | thermalTrip => exact done_wf (msixRaise_wf hs)
  | attreq => exact execAttreq_wf hs
  | gateCrossing => exact execGateCrossing_wf hs
  | arrivalApply => exact execArrivalApply_wf hs
  | replayInject => exact execReplayInject_wf hs
  | dbghaltHalt => exact done_wf (haltGroups_wf (fun _ _ ht => updGroup_wf ht) hs)
  | dbghaltResume => exact execDbghaltResume_wf hs
  | dbghaltStep => exact execDbghaltStep_wf hs
  | traceCycleTrigger => exact done_wf (trigger_wf hs)
  | traceCaptureEnd => exact done_wf (updTrace_wf hs)
  | l1DrainTimeout => exact done_wf (drainCore_wf hs)
  | leaseExpiry => exact execLeaseExpiry_wf hs
  | drainRequest => exact execDrainRequest_wf hs
  | forwardedWriteApply => exact execForwardedWriteApply_wf hs
  | epochMarker => exact execEpochMarker_wf hs
  | ownershipRecall => exact execOwnershipRecall_wf hs
  | ownershipGrant => exact execOwnershipGrant_wf hs
  | softErrorScrub => exact execSoftErrorScrub_wf hs
  | pageWalkComplete => exact execPageWalkComplete_wf hs
  | tenureGrant => exact done_wf (grantAll_wf hs)
  | tenureDrainAck => exact execTenureDrainAck_wf hs
  | spillRetry => exact execSpillRetry_wf hs
  | engineStep => exact execEngineStep_wf hs
  | copyChunkComplete => exact execCopyChunkComplete_wf hs
  | channelResume => exact execChannelResume_wf hs
  | linkUp => exact execLinkUp_wf hs
  | linkDown => exact execLinkDown_wf hs
  | flitRetry => exact execFlitRetry_wf hs
  | collectiveChunkArrival => exact execCollectiveChunkArrival_wf hs
  | chunkAckTimeout => exact done_wf (collRun_wf (foldl_wf _ (fun _ _ ht => reroute_wf ht) _ hs))
  | predecessorTimeout => exact done_wf (collRun_wf (foldl_wf _ (fun _ _ ht => endColl_wf ht) _ hs))
  | timeAlignRequest => exact execTimeAlignRequest_wf hs
  | timeAlignReply => exact execTimeAlignReply_wf hs
  | pennantSendArrival => exact execPennantSendArrival_wf hs
  | pennantFabricMessage => exact execPennantFabricMessage_wf hs
  | pennantNoAnswer => exact done_wf (foldl_wf _ (fun _ _ ht => answerSend_wf ht) _ hs)
  | pennantDiversion => exact done_wf (divert_wf hs)
  | pnsendSettle => exact execPnsendSettle_wf hs
  | stallWake => exact execStallWake_wf hs
  | hqEnable => exact done_wf (updHq_wf hs)
  | msixVectorUnmask => exact execMsixVectorUnmask_wf hs
  | collectiveChunkAck => exact execCollectiveChunkAck_wf hs
  | hostLinkTraining => exact done_wf (ite_wf hs hs)
  | powerStepEffect => exact execPowerStepEffect_wf hs
  | attestationComplete => exact execAttestationComplete_wf hs
  | bootVerifyComplete => exact execBootVerifyComplete_wf hs
  | powerOn => exact execPowerOn_wf hs
  | startupStep => exact done_wf (ite_wf hs (ite_wf (tryReady_wf (startRefresh_wf hs)) (ite_wf hs (tryReady_wf
    (startRefresh_wf hs)))))
  | packageReset => exact execPackageReset_wf hs
  | resetRelease => exact execResetRelease_wf hs
  | replayEnd => exact execReplayEnd_wf hs
  | slackWaterStop => exact execSlackWaterStop_wf hs
  | imageWriteComplete => exact execImageWriteComplete_wf hs
  | swctlRestore => exact execSwctlRestore_wf hs
  | restoreComplete => exact execRestoreComplete_wf hs
  | triggerEffect => exact execTriggerEffect_wf hs
  | tideLatch => exact execTideLatch_wf hs
  | storeAck => exact execStoreAck_wf hs
  | timeAlignExchange => exact execTimeAlignExchange_wf hs
  | powerLoss => exact execPowerLoss_wf hs

theorem step_wf (hs : s.mem.wf = true) : NextWf (step s) := by
  unfold step
  split
  · split
    · rename_i e
      exact exec_wf (wf_of_eq e (fetchPath_wf hs))
    · rename_i e
      exact done_wf (wf_of_eq e (fetchPath_wf hs))
  · split
    · exact exec_wf hs
    · exact done_wf (newCycle_wf hs)

end

end Sys2Proof.Machine

open Sys2Proof.Machine in
/-- Settles O3: every function of the model keeps the form, and a step is one of its functions. -/
theorem stepKeepsMemoryCanonical : Obligations.StepKeepsMemoryCanonical :=
  fun _ t hs e => step_wf hs t e
end

section
/-! SUPPORT. What the events of power, start-up, reset and soft errors do (01_device_overview.md R25 to R27, 04_memory_hierarchy.md R105,
11_traps_and_preemption.md R229, 13_host_and_system.md R262 to R268, 14_determinism_and_debug.md R271, R272): one lemma for each shared
operation and each event, and O53 from them. -/
namespace Sys2Proof.Machine

/-! ### Shared operations -/

theorem msixRaise_eq (s : State) (v : Nat) : ∃ m, msixRaise s v = { s with msix := m } := by
  unfold msixRaise
  split
  · exact ⟨_, rfl⟩
  · split
    · exact ⟨_, rfl⟩
    · split <;> exact ⟨_, rfl⟩

@[simp] theorem msixRaise_stop (s : State) (v : Nat) : (msixRaise s v).stop = s.stop := by
  obtain ⟨m, e⟩ := msixRaise_eq s v
  rw [e]

@[simp] theorem msixRaise_pwrCmd (s : State) (v : Nat) : (msixRaise s v).pwrCmd = s.pwrCmd := by
  obtain ⟨m, e⟩ := msixRaise_eq s v
  rw [e]

/-- A cycle rounds up to a multiple of 4, by less than 4. -/
theorem mul4_bounds (c : Nat) : mul4 c % 4 = 0 ∧ c ≤ mul4 c ∧ mul4 c < c + 4 := by
  unfold mul4
  omega

theorem Tab.get?_map {α : Type} (t : Tab α) (f : Nat × α → α) (k : Nat) :
    Tab.get? (t.map fun e => (e.1, f e)) k = (t.get? k).map fun x => f (k, x) := by
  induction t with
  | nil => rfl
  | cons e t ih =>
    obtain ⟨j, y⟩ := e
    simp only [List.map_cons, Tab.get?, ih]
    split
    · next hj => subst hj; rfl
    · rfl

theorem Memory.get_filter_key (p : Nat → Bool) (m : Memory) (k : Nat) :
    Memory.get (m.filter fun c => p c.1) k = if p k then m.get k else 0 := by
  induction m with
  | nil => simp [Memory.get]
  | cons c m ih =>
    obtain ⟨j, x⟩ := c
    by_cases hj : j = k
    · subst hj
      cases hp : p j <;> simp_all [Memory.get]
    · cases hp : p j <;> simp [Memory.get, hp, hj, ih]

/-! ### Power steps (R25, R267, R268) -/

/-- A die whose trace does not capture writes no record. -/
theorem traceCycle_of_not_live {s : State} {d : Nat} (kind cyc extra : Nat) (h : (traceOf s d).live = false) :
    traceCycle s d kind cyc extra = s := by
  have hloss : traceLoss s d = s := by simp [traceLoss, h]
  simp [traceCycle, hloss, tracePutCycle, tracePut, h]

theorem takeStep_of_no_trace {s : State} (step : BitVec 2) (h : ∀ d < 8, (traceOf s d).live = false) :
    takeStep s step = msixRaise { s with pwrCur := step } 8 := by
  have hfold : ∀ extra : Nat, (List.range 8).foldl (fun u d => traceCycle u d 4 u.cycle extra) { s with pwrCur := step } =
      { s with pwrCur := step } := fun extra =>
    List.foldlRecOn (motive := (· = { s with pwrCur := step })) _ _ rfl fun u hu d hd => by
      subst hu
      exact traceCycle_of_not_live _ _ _ (h d (List.mem_range.1 hd))
  exact congrArg (msixRaise · 8) (hfold _)

/-- What a command of the software does once the thermal trip's step has left `u`. -/
theorem execPowerStepEffect_command {s u : State} {step : BitVec 2} {c : Nat}
    (hu : (if s.thermAt.any (· ≤ s.cycle) then takeStep { s with thermAt := none } 2 else s) = u) (hc : u.pwrCmd = some (step, c)) :
    execPowerStepEffect s = done (if c ≤ u.cycle then takeStep { u with pwrCmd := none } step else u) := by
  subst hu
  unfold execPowerStepEffect
  dsimp only
  rw [hc]

theorem execPowerStepEffect_no_command {s u : State}
    (hu : (if s.thermAt.any (· ≤ s.cycle) then takeStep { s with thermAt := none } 2 else s) = u) (hc : u.pwrCmd = none) :
    execPowerStepEffect s = done u := by
  subst hu
  unfold execPowerStepEffect
  dsimp only
  rw [hc]

section
variable {s : State} (hs : s.stop = none)
include hs

theorem exec_pwrctlGo (step : BitVec 2) :
    exec (.pwrctlGo step) s = .next { s with pwrCmd := some (step, mul4 (max s.pwrcyc.toNat (s.cycle + 1))) } :=
  done_next hs

theorem exec_thermalTrip (die : Nat) : exec (.thermalTrip die) s =
    .next (msixRaise { s with therm := true, thermAt := some (s.thermAt.getD (mul4 (s.cycle + 1))) } 8) :=
  done_next (by simpa using hs)

/-- The software's step, where no thermal trip waits. -/
theorem exec_powerStepEffect_command {step : BitVec 2} {c : Nat} (hc : s.pwrCmd = some (step, c)) (ht : s.thermAt = none)
    (hd : ∀ d < 8, (traceOf s d).live = false) : exec .powerStepEffect s =
      .next (if c ≤ s.cycle then msixRaise { s with pwrCmd := none, pwrCur := step } 8 else s) := by
  have he : takeStep { s with pwrCmd := none } step = msixRaise { s with pwrCmd := none, pwrCur := step } 8 :=
    takeStep_of_no_trace step hd
  have hn : (s.thermAt.any (· ≤ s.cycle)) = false := by rw [ht]; rfl
  show execPowerStepEffect s = _
  rw [execPowerStepEffect_command (if_neg (by simp [hn])) hc, he]
  exact done_next (by split <;> simpa using hs)

/-- The step of a thermal trip, where no command of the software waits. -/
theorem exec_powerStepEffect_thermal {c : Nat} (ht : s.thermAt = some c) (hle : c ≤ s.cycle) (hc : s.pwrCmd = none)
    (hd : ∀ d < 8, (traceOf s d).live = false) :
    exec .powerStepEffect s = .next (msixRaise { s with thermAt := none, pwrCur := 2 } 8) := by
  have he : takeStep { s with thermAt := none } 2 = msixRaise { s with thermAt := none, pwrCur := 2 } 8 :=
    takeStep_of_no_trace 2 hd
  have hn : (s.thermAt.any (· ≤ s.cycle)) = true := by simpa [ht] using hle
  show execPowerStepEffect s = _
  rw [execPowerStepEffect_no_command ((if_pos hn).trans he) (by simpa using hc)]
  exact done_next (by simpa using hs)

/-! ### Reset and power (R26, R27, R266) -/

theorem exec_packageReset : exec .packageReset s = .next { resetPackage s with inReset := true } := done_next hs

/-- What verification found at power-up shows again (log 44). -/
theorem exec_resetRelease (hr : s.inReset = true) : exec .resetRelease s = .next { s with
    inReset := false, startup := 0, training := 0, ready := false, cycle := 0
    replay := if s.replayCtl.getLsbD 0 then w64 (bits s.replayCtl 35 2) else 0
    verified := if s.bootDone then s.bootRes == 0 else s.verified, bootErr := if s.bootDone then s.bootRes else s.bootErr } := by
  show execResetRelease s = _
  simp only [execResetRelease, hr, if_true, showBoot, replayMode]
  cases hb : s.bootDone <;> exact done_next hs

theorem exec_resetRelease_of_not_inReset (hr : s.inReset = false) : exec .resetRelease s = .next s := by
  show execResetRelease s = _
  simp only [execResetRelease, hr, Bool.false_eq_true, if_false]
  exact done_next hs

end

/-! ### Start-up (R26, R266, R271, R272) -/

/-- The package does not report ready before its 128 steps are over, in reset, unverified, twice, or while a boundary trains. -/
theorem tryReady_of_not {s : State}
    (h : s.startup ≠ 128 ∨ s.verified = false ∨ s.inReset = true ∨ s.ready = true ∨ allTrained s = false) : tryReady s = s := by
  unfold tryReady
  rw [if_neg]
  rintro ⟨h1, h2, h3, h4, h5⟩
  simp_all

/-- Once the 128 steps are over, the package is ready when the firmware is verified and every boundary has trained; the count starts at 0. -/
theorem tryReady_of_stepped {s : State} (h : s.startup = 128) (hi : s.inReset = false) (hr : s.ready = false) :
    tryReady s = if s.verified && allTrained s then { s with ready := true, cycle := 0 } else s := by
  simp [tryReady, h, hi, hr]

theorem tryReady_of_trained {s : State} (h : s.startup = 128) (hv : s.verified = true) (hi : s.inReset = false) (hr : s.ready = false)
    (ha : allTrained s = true) : tryReady s = { s with ready := true, cycle := 0 } := by
  rw [tryReady_of_stepped h hi hr, hv, ha]
  rfl

/-- What has trained is a matter of the steps alone. -/
theorem allTrained_congr {s t : State} (hs : t.startup = s.startup) (ht : t.training = s.training) : allTrained t = allTrained s := by
  have hi : trained t = trained s := by
    funext i
    simp only [trained, started, hs, ht]
  rw [allTrained, hi, allTrained]

@[simp] theorem tryReady_stop (s : State) : (tryReady s).stop = s.stop := by
  unfold tryReady
  split <;> rfl

@[simp] theorem startRefresh_stop (s : State) : (startRefresh s).stop = s.stop := by simp only [startRefresh]
@[simp] theorem startRefresh_startup (s : State) : (startRefresh s).startup = s.startup := by simp only [startRefresh]
@[simp] theorem startRefresh_inReset (s : State) : (startRefresh s).inReset = s.inReset := by simp only [startRefresh]
@[simp] theorem startRefresh_ready (s : State) : (startRefresh s).ready = s.ready := by simp only [startRefresh]

theorem showBoot_of_inReset {s : State} (h : s.inReset = true) : showBoot s = s := by
  simp [showBoot, h]

theorem showBoot_of_bootDone {s : State} (hb : s.bootDone = true) (hr : s.inReset = false) :
    showBoot s = { s with verified := s.bootRes == 0, bootErr := s.bootRes } := by
  simp [showBoot, hb, hr]

@[simp] theorem showBoot_stop (s : State) : (showBoot s).stop = s.stop := by
  unfold showBoot
  split <;> rfl

section
variable {s : State} (hs : s.stop = none) (hp : s.power = true)
include hs hp

theorem exec_startupStep_of_lt (hi : s.inReset = false) (hr : s.ready = false) (h : s.startup < 128) :
    exec .startupStep s = .next (tryReady (startRefresh { s with startup := s.startup + 1 })) := by
  show execStartupStep s = _
  simp only [execStartupStep, hp, hi, hr, Bool.not_true, Bool.or_self, Bool.false_eq_true, if_false, h, if_true]
  exact done_next (by simpa using hs)

theorem exec_startupStep_before_last (hi : s.inReset = false) (hr : s.ready = false) (h : s.startup < 127) :
    exec .startupStep s = .next (startRefresh { s with startup := s.startup + 1 }) := by
  rw [exec_startupStep_of_lt hs hp hi hr (by omega), tryReady_of_not]
  left
  rw [startRefresh_startup]
  dsimp only
  omega

theorem exec_startupStep_last (hi : s.inReset = false) (hr : s.ready = false) (h : s.startup = 127) :
    exec .startupStep s = .next (tryReady (startRefresh { s with startup := 128 })) := by
  have hl := exec_startupStep_of_lt hs hp hi hr (by omega)
  rwa [h] at hl

theorem exec_startupStep_of_trained (hi : s.inReset = false) (hr : s.ready = false) (h : s.startup = 128)
    (ha : allTrained s = true) : exec .startupStep s = .next s := by
  show execStartupStep s = _
  simp only [execStartupStep, hp, hi, hr, Bool.not_true, Bool.or_self, Bool.false_eq_true, if_false, h, Nat.lt_irrefl, ha, if_true]
  exact done_next hs

theorem exec_startupStep_of_training (hi : s.inReset = false) (hr : s.ready = false) (h : s.startup = 128)
    (ha : allTrained s = false) :
    exec .startupStep s = .next (tryReady (startRefresh { s with training := s.training + 1 })) := by
  show execStartupStep s = _
  simp only [execStartupStep, hp, hi, hr, Bool.not_true, Bool.or_self, Bool.false_eq_true, if_false, h, Nat.lt_irrefl, ha]
  exact done_next (by simpa using hs)

theorem exec_bootVerifyComplete (hb : s.bootDone = false) : exec .bootVerifyComplete s =
    .next (tryReady (showBoot { s with
      bootDone := true, bootRes := bootFinds s, secFloor := if bootFinds s = 0 then s.fwVersion else s.secFloor })) := by
  show execBootVerifyComplete s = _
  simp only [execBootVerifyComplete, hb, hp, Bool.not_true, Bool.or_self, Bool.false_eq_true, if_false]
  exact done_next (by simpa using hs)

/-- In reset, BOOTSTAT does not show the result yet. -/
theorem exec_bootVerifyComplete_inReset (hb : s.bootDone = false) (hr : s.inReset = true) :
    exec .bootVerifyComplete s = .next { s with
      bootDone := true, bootRes := bootFinds s, secFloor := if bootFinds s = 0 then s.fwVersion else s.secFloor } := by
  rw [exec_bootVerifyComplete hs hp hb, showBoot_of_inReset, tryReady_of_not]
  · exact .inr (.inr (.inl hr))
  · exact hr

/-- A refused image leaves the package unverified. -/
theorem exec_bootVerifyComplete_refused (hb : s.bootDone = false) (hr : s.inReset = false) (hc : bootFinds s ≠ 0) :
    exec .bootVerifyComplete s =
      .next { s with bootDone := true, bootRes := bootFinds s, verified := false, bootErr := bootFinds s } := by
  have hv : (bootFinds s == 0) = false := beq_eq_false_iff_ne.2 hc
  rw [exec_bootVerifyComplete hs hp hb, showBoot_of_bootDone rfl, tryReady_of_not]
  · simp only [hc, hv, if_false]
  · exact .inr (.inl hv)
  · exact hr

/-- A verified image raises the floor. -/
theorem exec_bootVerifyComplete_verified (hb : s.bootDone = false) (hr : s.inReset = false) (hc : bootFinds s = 0) :
    exec .bootVerifyComplete s = .next (tryReady { s with
      bootDone := true, bootRes := 0, verified := true, bootErr := 0, secFloor := s.fwVersion }) := by
  rw [exec_bootVerifyComplete hs hp hb, showBoot_of_bootDone rfl]
  · simp only [hc, if_true, BEq.rfl]
  · exact hr

/-- A verified image alone does not make the package ready. -/
theorem exec_bootVerifyComplete_waits (hb : s.bootDone = false) (hr : s.inReset = false) (hc : bootFinds s = 0)
    (hn : s.startup < 128 ∨ s.ready = true ∨ allTrained s = false) : exec .bootVerifyComplete s = .next { s with
      bootDone := true, bootRes := 0, verified := true, bootErr := 0, secFloor := s.fwVersion } := by
  rw [exec_bootVerifyComplete_verified hs hp hb hr hc, tryReady_of_not]
  rcases hn with h | h | h
  · exact .inl (Nat.ne_of_lt h)
  · exact .inr (.inr (.inr (.inl h)))
  · exact .inr (.inr (.inr (.inr ((allTrained_congr rfl rfl).trans h))))

theorem exec_bootVerifyComplete_ready (hb : s.bootDone = false) (hr : s.inReset = false) (hc : bootFinds s = 0) (h : s.startup = 128)
    (hn : s.ready = false) (ha : allTrained s = true) : exec .bootVerifyComplete s = .next { s with
      bootDone := true, bootRes := 0, verified := true, bootErr := 0, secFloor := s.fwVersion, ready := true, cycle := 0 } := by
  rw [exec_bootVerifyComplete_verified hs hp hb hr hc, tryReady_of_trained]
  · exact h
  · rfl
  · exact hr
  · exact hn
  · exact (allTrained_congr rfl rfl).trans ha

end

/-! ### Soft errors and aging (R105, R229, R272) -/

theorem markSoft_eq (s : State) : ∃ c, markSoft s = { s with noReplay := true, nrcyc := c, soft := true } := by
  unfold markSoft markNoReplay
  split
  · next h => exact ⟨s.nrcyc, by rw [← h]⟩
  · exact ⟨_, rfl⟩

theorem fresh_postFault (s : State) {d : Nat} (r : FaultRec) (hd : d < 8) :
    (fqOf (postFault s d r) d).fresh = (fqOf s d).fresh ++ [{ r with cycle := s.cycle }] := by
  simp [fqOf, postFault, updFq, getD_setIfInBounds, hd]

/-- What the report of a soft error without a requester leaves, where `u` is the state marked and its memory system brought up to date. -/
theorem postFault_of_markedSoft {s u : State} {c : W64} {m : MemSys} {d : Nat} (r : FaultRec)
    (hu : u = { s with noReplay := true, nrcyc := c, soft := true, ms := m }) (hd : d < 8) :
    let t := postFault u d r
    t.soft = true ∧ t.noReplay = true ∧ KeepsRegs s t ∧ t.mem = s.mem ∧ t.stop = s.stop ∧ t.ms = m ∧
      (fqOf t d).fresh = (fqOf s d).fresh ++ [{ r with cycle := s.cycle }] := by
  intro t
  have hf : (fqOf t d).fresh = _ := fresh_postFault u r hd
  subst hu
  exact ⟨rfl, rfl, fun _ => rfl, rfl, rfl, rfl, hf⟩

theorem foundOn_eq_nil {found : List (Nat × Nat × Nat)} {line : Nat} (hf : ∀ e ∈ found, e.2.2 ≠ line) :
    (found.filter fun e => e.2.2 == line) = [] :=
  List.filter_eq_nil_iff.2 fun e he => by simpa using hf e he

/-- A line of the L2 after the aging of a die. -/
def agedLine (s : State) (die : Nat) (e : Nat × L2Line) : L2Line := if agingLine s die e then { e.2 with aged := true } else e.2

section
variable {s : State} (hs : s.stop = none)
include hs

/-- The scrub passes over a line without damage. -/
theorem exec_softErrorScrub_of_sound {line : Nat} (hf : ∀ e ∈ s.ms.found, e.2.2 ≠ line) (hd : lineDamage s line = none) :
    exec (.softErrorScrub line) s = .next s := by
  have hn := foundOn_eq_nil hf
  show execSoftErrorScrub line s = _
  simp only [execSoftErrorScrub, hn, hd, List.isEmpty_nil, Bool.not_true, Bool.false_eq_true, if_false]
  exact done_next hs

/-- A damaged line is reported to its home die. -/
theorem exec_softErrorScrub_of_damage {line code : Nat} (hf : ∀ e ∈ s.ms.found, e.2.2 ≠ line) (hd : lineDamage s line = some code)
    (hdie : homeDie (line * 128) < 8) :
    ∃ t, exec (.softErrorScrub line) s = .next t ∧ t.soft = true ∧ t.noReplay = true ∧ KeepsRegs s t ∧ t.mem = s.mem ∧
      ∃ r, (fqOf t (homeDie (line * 128))).fresh = (fqOf s (homeDie (line * 128))).fresh ++ [r] ∧ r.kind = 5 ∧ r.code = code ∧
        r.cycle = s.cycle := by
  have hn := foundOn_eq_nil hf
  obtain ⟨c, e⟩ := markSoft_eq { s with
    ms.l2 := match s.ms.l2.get? line with | some l => s.ms.l2.put line { l with retained := true } | none => s.ms.l2 }
  have h := postFault_of_markedSoft (s := s) { code := code, kind := 5, addr := w64 (line * 128 % 2 ^ 52) } e hdie
  obtain ⟨hsoft, hrep, hregs, hmem, hstop, -, hfresh⟩ := h
  refine ⟨_, ?_, hsoft, hrep, hregs, hmem, _, hfresh, rfl, rfl, rfl⟩
  show execSoftErrorScrub line s = _
  simp only [execSoftErrorScrub, hn, hd, List.isEmpty_nil, Bool.not_true, Bool.false_eq_true, if_false]
  exact done_next (hstop.trans hs)

/-- An error that was found before is reported to the die that found it. -/
theorem exec_softErrorScrub_of_found {code die line : Nat} (hf : s.ms.found = [(code, die, line)]) (hdie : die < 8) :
    ∃ t, exec (.softErrorScrub line) s = .next t ∧ t.soft = true ∧ t.noReplay = true ∧ KeepsRegs s t ∧ t.mem = s.mem ∧
      t.ms.found = [] ∧ ∃ r, (fqOf t die).fresh = (fqOf s die).fresh ++ [r] ∧ r.kind = 5 ∧ r.code = code := by
  have hfound : (s.ms.found.filter fun e => e.2.2 == line) = [(code, die, line)] := by simp [hf]
  have hrest : (s.ms.found.filter fun e => e.2.2 != line) = [] := by simp [hf]
  obtain ⟨c, e⟩ := markSoft_eq s
  have hu : { markSoft s with ms.found := [] } =
      { s with noReplay := true, nrcyc := c, soft := true, ms := { s.ms with found := [] } } := by rw [e]
  have h := postFault_of_markedSoft { code := code, kind := 5, addr := w64 (line * 128 % 2 ^ 52) } hu hdie
  obtain ⟨hsoft, hrep, hregs, hmem, hstop, hms, hfresh⟩ := h
  refine ⟨_, ?_, hsoft, hrep, hregs, hmem, by rw [hms], _, hfresh, rfl, rfl⟩
  show execSoftErrorScrub line s = _
  simp only [execSoftErrorScrub, hfound, hrest, List.isEmpty_cons, Bool.not_false, if_true, List.foldl_cons, List.foldl_nil]
  exact done_next (hstop.trans hs)

theorem exec_retentionAging (die : Nat) :
    exec (.retentionAging die) s = .next { s with ms.l2 := s.ms.l2.map fun e => (e.1, agedLine s die e) } := by
  have hmap : (fun e => if agingLine s die e then (e.1, { e.2 with aged := true }) else e) = fun e => (e.1, agedLine s die e) := by
    funext e
    unfold agedLine
    split <;> rfl
  show execRetentionAging die s = _
  rw [execRetentionAging, hmap]
  exact done_next hs

end

end Sys2Proof.Machine

open Sys2Proof.Machine in
/-- Settles O53: each clause is the lemma of its event. -/
theorem powerAndResetEvents : Obligations.PowerAndResetEvents := by
  intro s hs
  refine ⟨fun step => ?_, fun die => ?_, fun step c hc ht hd => ?_, fun c ht hle hc hd => exec_powerStepEffect_thermal hs ht hle hc hd,
    ⟨exec_packageReset hs, done_next hs, _, done_next hs, fun _ k => Memory.get_filter_key isHost s.mem k⟩,
    exec_resetRelease hs, exec_resetRelease_of_not_inReset hs, fun hp hi hr => ?_,
    fun hp hb => ⟨exec_bootVerifyComplete_inReset hs hp hb, exec_bootVerifyComplete_refused hs hp hb,
      exec_bootVerifyComplete_waits hs hp hb, exec_bootVerifyComplete_ready hs hp hb⟩,
    done_next hs, fun line hf => ⟨exec_softErrorScrub_of_sound hs hf, fun code => exec_softErrorScrub_of_damage hs hf⟩,
    fun code die line => exec_softErrorScrub_of_found hs,
    fun die => ⟨_, exec_retentionAging hs die, rfl, Tab.get?_map s.ms.l2 (agedLine s die)⟩⟩
  · obtain ⟨hmod, hle, hlt⟩ := mul4_bounds (max s.pwrcyc.toNat (s.cycle + 1))
    exact ⟨_, exec_pwrctlGo hs step, hmod, by omega, by omega, hlt⟩
  · obtain ⟨hmod, hle, hlt⟩ := mul4_bounds (s.cycle + 1)
    refine ⟨_, exec_thermalTrip hs die, fun hn => ?_, fun d hd => by rw [hd]; rfl⟩
    rw [hn, Option.getD_none]
    exact ⟨hmod, by omega, by omega⟩
  · rw [exec_powerStepEffect_command hs hc ht hd]
    exact ⟨fun hle => by rw [if_pos hle], fun hlt => by rw [if_neg (by omega)]⟩
  · intro tally counted reports
    have hcounted : ∀ u, counted u = startRefresh u := fun _ => rfl
    have hreports : ∀ u : State, u.startup = 128 → u.inReset = false → u.ready = false → tryReady u = reports u :=
      fun _ => tryReady_of_stepped
    refine ⟨fun h => ?_, fun h => ?_, exec_startupStep_of_trained hs hp hi hr, fun h ha => ?_⟩
    · rw [exec_startupStep_before_last hs hp hi hr h, hcounted]
    · rw [exec_startupStep_last hs hp hi hr h, hcounted, hreports]
      · rw [startRefresh_startup]
      · rwa [startRefresh_inReset]
      · rwa [startRefresh_ready]
    · rw [exec_startupStep_of_training hs hp hi hr h ha, hcounted, hreports]
      · rwa [startRefresh_startup]
      · rwa [startRefresh_inReset]
      · rwa [startRefresh_ready]
end
